-- ==== Sys2Proof/Word.lean ====
section
/-! DEFINITION. The widths of the PN4: a register is a 32-bit word and memory is bytes (R10, R70). -/
namespace Sys2Proof

/-- A 32-bit register word. -/
abbrev Word := BitVec 32

/-- One byte of memory. -/
abbrev Byte := BitVec 8

/-- The requester number of the management domain (R89). -/
def mgmt : Nat := 63

end Sys2Proof
end

