-- ==== Sys2Proof/Syntax.lean ====
section
/-! DEFINITION. The commands the PN4 takes: one constructor of `Instr` per row of spec/opcode_table.json, and the types
of their operands. -/
namespace Sys2Proof

/-- A packet on a Rink or a link: the header of Table 12.1 and the payload, with what the chip knows of it beside the
header: the requester it was found to carry (R89) and the port it came in on (31: it arose on this chip). -/
structure Packet where
  dst : Nat
  src : Nat
  slice : Nat
  tc : Nat
  op : Nat
  len : Nat
  offset : Nat
  tag : Nat
  ordered : Bool
  poison : Bool
  mark : Bool
  detour : Bool
  words : Nat
  data : List Byte
  req : Nat
  port : Nat
  deriving DecidableEq, Repr

/-- The engines of a tile (07 R204). -/
inductive Engine where
  | dma | mxu | vxu
  deriving DecidableEq, Repr

/-- The tasks of a boot whose end the boot waits for (Diagrams 4.1 and 4.2). -/
inductive BootTask where
  /-- The regulator reported OPP3, or did not within 50 ms (code 0x82). -/
  | coreUp (ok : Bool)
  /-- MCU INIT or RETRAIN of all stacks: per stack (lanes repaired, spares left), and whether every pseudo-channel came
  into service (code 0x83 otherwise). -/
  | hbm (repair : List (Nat × Nat)) (ok : Bool)
  /-- HBM is zeroed. -/
  | zero
  /-- Link training and identity exchange. -/
  | links
  /-- The Metronome is locked. -/
  | met
  /-- The tile test: the tiles that failed. -/
  | bist (failed : List Nat)
  /-- The management firmware stopped on an internal check (code 0x8F). -/
  | internal
  deriving DecidableEq, Repr

/-- A codeword as its receiver finds it (13 R370-R373): whether it could be corrected, the indices of the symbols it
corrected, its header, and the ten flit slots of 64 bytes it carries. -/
structure Codeword where
  ok : Bool
  sym : List Nat
  num : Bool
  kind : Nat
  arg : Nat
  aux : Nat
  slots : List (List Byte)
  deriving DecidableEq, Repr

/-- The header of a fabric message (16 Table 16.3) with its sender. -/
structure FabHdr where
  src : Nat
  term : Nat
  seq : Nat
  key : Nat
  group : Bool
  deriving DecidableEq, Repr

/-- What an EVENT reports (16 Table 16.2, R462, R465, R469, R475, R479). -/
inductive FabEvent where
  | portDown (p : Nat)
  | portUp (p : Nat)
  | laneDrop (p lanes : Nat)
  /-- The sender completed a step of the running request, or could not, with the result of Table 16.7. -/
  | stepDone (step : Nat)
  | stepFail (result : Nat)
  /-- The group BEAT of the section leader `lost` is missing. -/
  | slLost (lost : Nat)
  /-- The section leader cannot connect its group within the group. -/
  | unable
  | restRequest (bound transit : Bool)
  | restEnd
  /-- A mailbox request: code, tag, the four arguments and the request block they name. -/
  | mailbox (code tag : Nat) (args : List Nat) (block : List Byte)
  deriving DecidableEq, Repr

/-- What an ORDER asks a chip to do (16 R462, R465, R469, R478-R481). -/
inductive FabOrder where
  /-- Quiesce the partitions of a departing slice and drain them (step 2). -/
  | drain (slice : Nat)
  /-- RETRAIN in FULL mode (step 5). -/
  | retrain (p : Nat)
  /-- The section leader of the receiver's group. -/
  | leader (chip : Nat)
  /-- Write the LOCAL_TABLE entries of a slice in the receiver's group (step 6): the chips and their contexts. -/
  | localTables (slice : Nat) (members : List (Nat × Nat))
  | admitPort (p : Nat) (on : Bool)
  | transit (on : Bool)
  /-- The answer to a REST request, and the confirmation of its end. -/
  | restAnswer (ok : Bool) (reason : Nat)
  | restEndOk
  /-- The answer to a mailbox request. -/
  | answer (tag result detail : Nat)
  /-- Become conductor under the next term (R480). -/
  | succeed
  deriving DecidableEq, Repr

/-- A request the conductor holds (16 R465-R467): who asked, with the code, tag, arguments and request block; and the sets
of chips whose slice a merge dissolves (R461; code 0). -/
structure FabReq where
  chip : Nat
  code : Nat
  tag : Nat
  args : List Nat
  block : List Byte
  dissolve : List (Nat × List Nat)
  deriving DecidableEq, Repr

/-- The request that runs (16 R469): its step of Table 1.3 and the part of that step, the chips whose report is awaited
(one entry per report), the contexts allocated as slice, chip and context, and the Z ports whose partner changes. -/
structure FabRun where
  req : FabReq
  step : Nat
  phase : Nat
  waits : List Nat
  got : List (Nat × Nat × Nat)
  zports : List (Nat × Nat × Option (Nat × Nat))
  deriving DecidableEq, Repr

/-- An entry of the allocation record (16 R461): a slice, its chips, the contexts that hold it, the tick of its carving, and
whether a conductor recorded it, not merely the JOINs of its chips. -/
structure FabAlloc where
  slice : Nat
  chips : List Nat
  ctxs : List (Nat × Nat)
  tick : Nat
  own : Bool
  deriving DecidableEq, Repr

/-- What a MIRROR carries (16 R461, R463): the queue, the running request, the allocation record, and the circuits where
they are not the standard set, as switch and its two ports. -/
structure FabMirror where
  queue : List FabReq
  run : Option FabRun
  record : List FabAlloc
  circuits : Option (List (Nat × Nat × Nat))
  deriving DecidableEq, Repr

/-- The body of a fabric message, whose fields the spec names without a layout. -/
inductive FabBody where
  | candidate
  | beat (deputy : Option Nat) (leaders : List (Nat × Nat))
  | groupBeat
  /-- SCALE, and each slice context held: the context, its slice and the chips of its reach mask. -/
  | join (scale : Bool) (slices : List (Nat × Nat × List Nat))
  | event (e : FabEvent)
  | order (o : FabOrder)
  | orderAck (seq : Nat)
  | resetReq
  | mirror (m : FabMirror)
  deriving DecidableEq, Repr

/-- A PCIe configuration request (22 R636, R637, R655): the read of a register, the SR-IOV number of VFs, and the MSI-X control
of a function (enable, function mask). -/
inductive CfgReq where
  | read (reg : Nat)
  | numVfs (n : Nat)
  | msix (en mask : Bool)
  deriving DecidableEq, Repr


/-- The commands of the PN4: one constructor per row of the table of operations and events, with its operands. -/
inductive Instr where
  /-- REGISTER_WRITE_PLAIN (R72): A write to a register field that has no row of its own stores the value, and recomputes derived expert fields or sets CUSTOM as R81 states. -/
  | registerWritePlain (req : Nat) (a : Nat) (v : Word)
  /-- PAGE_ENABLE_WRITE (R80): A write of PAGE_CTRL.ENABLE starts the block, or asks it to stop once its accepted work is complete. -/
  | pageEnableWrite (req : Nat) (pg : Nat) (v : Word)
  /-- PAGE_QUIESCE_WRITE (R80): A write of PAGE_CTRL.QUIESCE stops the block taking new work, or lets it accept work again. -/
  | pageQuiesceWrite (req : Nat) (pg : Nat) (v : Word)
  /-- BLOCK_QUIESCED (R80): The last accepted work of a stopping block completes; ENABLED clears and QUIESCED sets. -/
  | blockQuiesced (pg : Nat)
  /-- IRQ_PENDING_CLEAR (R83): A W1C write to IRQ_PENDING clears the written bits in IRQ_RAW, and an event of the same step wins. -/
  | irqPendingClear (req : Nat) (pg : Nat) (v : Word)
  /-- IRQ_FORCE (R77): A write to IRQ_FORCE sets the written bits in IRQ_RAW. -/
  | irqForce (req : Nat) (pg : Nat) (v : Word)
  /-- SNAP_RELEASE (R77): A write of SNAP_CTRL.RELEASE = 1 clears HELD so that the page latches again at later downbeats. -/
  | snapRelease (req : Nat) (pg : Nat) (v : Word)
  /-- PAGE_OWNER_WRITE (R93): A management-domain write to PAGE_OWNER sets OWNER and SHARED_READ where these are not fixed, and clears PAGE_LOCK. -/
  | pageOwnerWrite (req : Nat) (pg : Nat) (v : Word)
  /-- PAGE_LOCK_SET (R93): A write of 1 to PAGE_LOCK.LOCK fixes every RWL field of the page. -/
  | pageLockSet (req : Nat) (pg : Nat) (v : Word)
  /-- PAGE_FAULT_CLEAR (R92): A write to PAGE_FAULT_CLR zeroes PAGE_FAULT and FAULT_MET. -/
  | pageFaultClear (req : Nat) (pg : Nat) (v : Word)
  /-- LOP_CMD_INVALID (R94): A LOP_CMD with an undefined CMD code is rejected with cause LOP_REJECTED. -/
  | lopCmdInvalid (req : Nat) (pg : Nat) (v : Word)
  /-- LOP_START_UNKNOWN_OP (R96): A START with an invalid OP goes to FAILED with BAD_ARG, or with UNAVAILABLE when the block is not enabled or not available. -/
  | lopStartUnknownOp (req : Nat) (pg : Nat) (op : Nat)
  /-- LOP_SUSPEND (R96): A SUSPEND command moves a suspendable running operation to SUSPENDING, or is rejected. -/
  | lopSuspend (req : Nat) (pg : Nat)
  /-- LOP_RESUME (R96): A RESUME command continues a suspended operation, or withdraws a pending suspend request. -/
  | lopResume (req : Nat) (pg : Nat)
  /-- LOP_CANCEL (R96): A CANCEL command moves a cancellable operation to CANCELLING, or is rejected. -/
  | lopCancel (req : Nat) (pg : Nat)
  /-- PWR_OK_RISE (R104): PWR_OK rising causes a power-on cold reset. -/
  | pwrOkRise (testEn : Bool) (loc : Nat)
  /-- PWR_OK_FALL (R734): PWR_OK falling resets the chip at once, and the next boot is cold. -/
  | pwrOkFall
  /-- RESET_N_ASSERT (R106): A RESET_N low pulse of 10 µs or more causes a cold reset, and one shorter than 1 µs is ignored. -/
  | resetNAssert (us : Nat)
  /-- RESET_CMD_WARM (R108): A write to CHIP.RESET_CMD with ACTION 1 and KEY 0xC0DE causes a warm reset, and a wrong KEY logs event 0x0002. -/
  | resetCmdWarm (req : Nat) (v : Word)
  /-- RESET_CMD_COLD (R108): A write to CHIP.RESET_CMD with ACTION 2 and KEY 0xC0DE causes a cold reset. -/
  | resetCmdCold (req : Nat) (v : Word)
  /-- PERST_N_ASSERT (R110): PERST_N is asserted: a warm reset when PERST_ACTION = 0, or a PCIe-only hold when PERST_ACTION = 1. -/
  | perstNAssert
  /-- PERST_N_RELEASE (R637): PERST_N is released, and the PCIe endpoint trains and answers configuration requests within 100 ms. -/
  | perstNRelease
  /-- WATCHDOG_EXPIRE (R116): The watchdog expires and causes a warm reset, with source 0x8 before DONE and 0x7 after it. -/
  | watchdogExpire
  /-- WDOG_KICK (R116): Any write to CHIP.WDOG_KICK restarts the watchdog. -/
  | wdogKick (req : Nat) (v : Word)
  /-- RESET_REQ_RECEIVE (R109): A RESET_REQ packet causes a warm reset only when it arrives on TC7 from the recorded conductor with REMOTE_EN = 1; otherwise it is discarded and counted. -/
  | resetReqReceive (src : Nat) (tc : Nat)
  /-- RESET_RELEASE (R107): The internal reset is released after at least 100 µs and once every source is gone, and the boot starts. -/
  | resetRelease (fatalWithin60s : Bool)
  /-- BOOT_TASK_COMPLETE (R113): A parallel boot task (HBM, links, Metronome, tile test) completes, and the next boot stage starts once its predecessors are done. -/
  | bootTaskComplete (k : BootTask)
  /-- SEQ_IMAGE_ACK (R127): A tile's sequencer-image acknowledgement arrives; a correct first one is counted, and a stray one is counted in STRAY. -/
  | seqImageAck (t : Nat) (crc : Word)
  /-- SEQ_ACK_TIMEOUT (R128): A tile has sent no correct acknowledgement within 2 ms; the image is resent, or the tile becomes bad with reason SEQ. -/
  | seqAckTimeout (t : Nat)
  /-- TOPO_WAIT_EXPIRE (R134): TOPO_WAIT runs out and the topology readiness check finalises. -/
  | topoWaitExpire
  /-- TILE_BIST_START (R138): A START of CHIP TILE_BIST checks the range and starts testing tiles in batches. -/
  | tileBistStart (req : Nat)
  /-- TILE_BIST_BATCH_DONE (R138): A batch of tile tests ends; failing tiles become bad with reason RUN and passing tiles are reloaded. -/
  | tileBistBatchDone (failed : List Nat)
  /-- TILE_IMAGE_RELOAD_DONE (R175): The sequencer image is reloaded after an exit from TACET, and TILES_READY is set. -/
  | tileImageReloadDone
  /-- MGC_ETH_LINK_CHANGE (R141): The management Ethernet link goes up or down; ETH_LINK is raised and event 0x0030 or 0x0031 is logged. -/
  | mgcEthLinkChange (up : Bool)
  /-- MGC_CNT_CLR (R140): A write to MGC.CNT_CLR zeroes ETH_COUNTS and ETH_DROPS. -/
  | mgcCntClr (req : Nat) (v : Word)
  /-- FLASH_WRITE_START (R146): A START of FLASH WRITE checks its range and source, and starts programming 256-byte units. -/
  | flashWriteStart (req : Nat)
  /-- FLASH_ERASE_START (R146): A START of FLASH ERASE checks its range and starts erasing 64 KiB sectors. -/
  | flashEraseStart (req : Nat)
  /-- FLASH_WIN_PUSH (R148): A write of FLASH.WIN_CTRL.PUSH copies the data window into the next unit, or is counted in OVERRUN while BUSY. -/
  | flashWinPush (req : Nat) (v : Word)
  /-- FLASH_UNIT_DONE (R151): The device finishes programming a unit or erasing a sector; progress advances, or an error report fails the operation with HW_ERROR. -/
  | flashUnitDone (ok : Bool)
  /-- FLASH_DEVICE_TIMEOUT (R151): The flash device stays busy for more than 5 s on one command, and the operation fails with TIMEOUT. -/
  | flashDeviceTimeout (k : Nat)
  /-- BOOT_VERIFY_START (R155): A START of BOOT VERIFY starts checking a slot by R154. -/
  | bootVerifyStart (req : Nat)
  /-- BOOT_VERIFY_UNIT_DONE (R155): A 64 KiB unit of the slot has been checked; at the end the verdict is written and a blank seal is written when the verdict is VALID. -/
  | bootVerifyUnitDone (ok : Bool)
  /-- BOOT_ACTIVATE_START (R159): A START of BOOT ACTIVATE checks the slot and starts writing a TRIAL or revert boot record. -/
  | bootActivateStart (req : Nat)
  /-- BOOT_CONFIRM_START (R160): A START of BOOT CONFIRM checks that the running slot is on trial and starts writing a CONFIRMED record. -/
  | bootConfirmStart (req : Nat)
  /-- BOOT_RECORD_COPY_WRITTEN (R157): One boot record copy has been erased and programmed, and the next copy or the end of the operation follows. -/
  | bootRecordCopyWritten (ok : Bool)
  /-- LIC_INSTALL_START (R167): A START of LIC INSTALL starts fetching and checking a licence. -/
  | licInstallStart (req : Nat)
  /-- LIC_INSTALL_STEP_DONE (R167): One of the four INSTALL steps completes; a failed check ends with a verdict, and step 4 writes both copies. -/
  | licInstallStepDone (ok : Bool)
  /-- PWR_TARGET_WRITE (R177): A write to PWR.CTRL sets TARGET, or refuses a value of 5–7 with cause BAD_TARGET, and the chip enters or exits toward the new state. -/
  | pwrTargetWrite (req : Nat) (v : Word)
  /-- LADDER_DRAIN_COMPLETE (R182): Every outstanding store and incoming write of the chip has completed, and the rung's entry steps proceed. -/
  | ladderDrainComplete
  /-- LADDER_DRAIN_TIMEOUT (R182): The drain has not completed within DRAIN_MS, and the entry is refused with cause DRAIN. -/
  | ladderDrainTimeout
  /-- HBM_SR_CONFIRM_TIMEOUT (R183): A stack does not confirm self-refresh entry within 50 µs, and the entry is refused with cause HBM. -/
  | hbmSrConfirmTimeout
  /-- LADDER_ENTRY_COMPLETE (R181): The steps of a rung complete; STATE is set, event 0x0201 is logged and R177 is evaluated again. -/
  | ladderEntryComplete
  /-- WAKE_MET_REACHED (R185): The Metronome reaches PWR.WAKE_MET while that wake is enabled, and the chip exits. -/
  | wakeMetReached
  /-- LADDER_EXIT_COMPLETE (R174): An exit completes, STATE is written, and the REDESCEND timer starts when the exit came from a wake. -/
  | ladderExitComplete
  /-- REDESCEND_EXPIRE (R188): REDESCEND.US passes without a further wake, and the chip resumes R177. -/
  | redescendExpire
  /-- PWR_OPP_WRITE (R192): A write to PWR.CTRL.OPP that changes the operating point updates PACE and sends the AVSBus voltage request. -/
  | pwrOppWrite (req : Nat) (v : Word)
  /-- OPP_SETTLED (R192): The regulator reports its output settled; OPP_NOW is set, OPP_MOVING clears and TB_GUAR takes its final value. -/
  | oppSettled
  /-- AVS_NAK (R193): The regulator NAKs a request, and after three NAKs in a row the change fails and the previous voltage is requested again. -/
  | avsNak
  /-- OPP_SETTLE_TIMEOUT (R193): The regulator does not report settled within SETTLE_MS; OPP_FAIL is set and event 0x1206 is logged. -/
  | oppSettleTimeout
  /-- AVS_TELEMETRY_POLL (R199): Every POLL_MS the PN4 reads voltage, current and temperature back from the regulator. -/
  | avsTelemetryPoll (mv : Nat) (cur : Nat)
  /-- REST_REQUEST (R190): A write of PWR.REST.REQ = 1 sets PENDING and announces REST to the conductor. -/
  | restRequest (req : Nat) (v : Word)
  /-- REST_END_REQUEST (R191): A write of PWR.REST.REQ = 0 ends or withdraws REST, waking the chip and announcing the end. -/
  | restEndRequest (req : Nat) (v : Word)
  /-- REST_ACK_RECEIVE (R190): The conductor's REST acknowledgement arrives; ACKED is set and REST_NOTE is sent to every link partner. -/
  | restAckReceive
  /-- REST_TIMEOUT (R190): No acknowledgement arrives within REST_MS; FAILED is set, REST_FAILED is raised and the hold stays. -/
  | restTimeout
  /-- REST_END_CONFIRM (R191): The conductor confirms the end of REST and ACKED clears. -/
  | restEndConfirm
  /-- REST_TRANSIT_WRITE (R189): The conductor sets or clears PWR.REST.TRANSIT, changing the level of the REST hold. -/
  | restTransitWrite (on : Bool)
  /-- THERMAL_SAMPLE (R195): Each sensor is sampled, TJ.MAX is updated and out-of-range sensors are marked failed. -/
  | thermalSample (ts : List Int) (hbm : List Int)
  /-- PVT_CLEAR_SEEN (R201): A write to PVT_CTRL.CLEAR_SEEN resets MAX_SEEN. -/
  | pvtClearSeen (req : Nat) (v : Word)
  /-- PACE_WINDOW_END (R59): A pace window ends; cluster beat times, TB_NOW, SLOWEST and the records are updated and WARN is checked. -/
  | paceWindowEnd (tb : List Nat)
  /-- PACE_CLEAR_SEEN (R63): A write to PACE_CTRL.CLEAR_SEEN resets TB_MAX_SEEN, TB_MIN_SEEN and OVER_COUNT. -/
  | paceClearSeen (req : Nat) (v : Word)
  /-- TILE_GO (R217): A write of SEQ_CTRL.GO starts the score at START, or is ignored and counted. -/
  | tileGo (req : Nat) (t : Nat) (v : Word)
  /-- TILE_ABORT (R217): A write of SEQ_CTRL.ABORT raises ABORTED and stops issue, or is ignored and counted. -/
  | tileAbort (req : Nat) (t : Nat) (v : Word)
  /-- TILE_ROW_FETCH (R212): The sequencer's read of a 128-byte command row completes, and the row's commands become available for issue. -/
  | tileRowFetch (t : Nat)
  /-- ENGINE_COMMAND_COMPLETE (R238): A DMA, MXU or VXU command completes in queue order, and its local and remote signals are applied and sent. -/
  | engineCommandComplete (t : Nat) (e : Engine)
  /-- TILE_QUEUES_EMPTY (R217): Every issued engine command has completed; the sequencer moves from ENDING, QUIESCING or DRAINING to its next state. -/
  | tileQueuesEmpty (t : Nat)
  /-- TILE_COUNTER_WRITE (R219): A page write to C0–C7 SETs the counter in the order R219 gives. -/
  | tileCounterWrite (req : Nat) (t : Nat) (c : Nat) (v : Word)
  /-- TILE_SCALAR_WRITE (R221): A page write to S0–S15, LC0–LC3 or RNG_SEED applies only in a stopped state, and is otherwise ignored and counted. -/
  | tileScalarWrite (req : Nat) (t : Nat) (off : Nat) (v : Word)
  /-- TILE_WAIT_TIMEOUT (R225): WAIT_LIMIT expires while the head command waits, and WAIT_TIMEOUT is raised. -/
  | tileWaitTimeout (t : Nat)
  /-- TILE_PERF_CLEAR (R226): A write of PERF_CTRL.CLEAR zeroes every count, WRAP_COUNT and WRAPPED. -/
  | tilePerfClear (req : Nat) (t : Nat) (v : Word)
  /-- TILE_SRAM_ECC_CLEAR (R228): A write of SRAM_ECC.CLEAR zeroes CE and UE. -/
  | tileSramEccClear (req : Nat) (t : Nat) (v : Word)
  /-- TILE_ECC_INJECT (R229): A write to TILE INJECT makes the next SRAM write store a single-bit or double-bit error. -/
  | tileEccInject (req : Nat) (t : Nat) (v : Word)
  /-- COUNTER_SIGNAL_RECEIVE (R220): A CSIG arrives at a tile and its ADD is applied within 1 beat in every sequencer state. -/
  | counterSignalReceive (k : Nat)
  /-- NOP (R245): The NOP command issues, doing nothing beyond its wait and signal. -/
  | scNop (t : Nat)
  /-- END (R245): The END command stops issue and the sequencer enters ENDING. -/
  | scEnd (t : Nat)
  /-- JUMP (R245): The JUMP command moves the next command to TARGET × 32. -/
  | scJump (t : Nat)
  /-- LOOP (R245): The LOOP command decrements LC[N] and jumps while the result is non-zero. -/
  | scLoop (t : Nat)
  /-- BRS (R245): The BRS command jumps when the condition on two scalar registers holds. -/
  | scBrs (t : Nat)
  /-- BREAK (R245): The BREAK command issues, applies its signal and raises BREAK. -/
  | scBreak (t : Nat)
  /-- WAIT_MET (R246): The WAIT_MET command holds issue until the local Metronome reaches its target, then completes. -/
  | scWaitMet (t : Nat)
  /-- CSET (R247): The CSET command sets a completion counter. -/
  | scCset (t : Nat)
  /-- CADD (R247): The CADD command adds to a completion counter. -/
  | scCadd (t : Nat)
  /-- SLI (R247): The SLI command loads a 64-bit immediate into a scalar register. -/
  | scSli (t : Nat)
  /-- SADDI (R247): The SADDI command adds an immediate to a scalar register. -/
  | scSaddi (t : Nat)
  /-- SALU (R247): The SALU command performs a scalar ALU operation. -/
  | scSalu (t : Nat)
  /-- SGET (R247): The SGET command copies a counter, a loop counter, the Metronome, the chip number or the tile index into a scalar register. -/
  | scSget (t : Nat)
  /-- LSET (R247): The LSET command sets a loop counter. -/
  | scLset (t : Nat)
  /-- DMA_GET (R252): The DMA_GET command is checked, queued and reads rows from global addresses into local SRAM. -/
  | scDmaGet (t : Nat)
  /-- DMA_PUT (R252): The DMA_PUT command is checked, queued and writes rows from local SRAM to global addresses. -/
  | scDmaPut (t : Nat)
  /-- STORE_IMM (R253): The STORE_IMM command writes 4 or 8 immediate bytes to a global address. -/
  | scStoreImm (t : Nat)
  /-- ATOMIC (R254): The ATOMIC command performs an atomic operation at a global address and may write back the old value. -/
  | scAtomic (t : Nat)
  /-- MXU_STAGE (R255): The MXU_STAGE command copies B into a weight stage. -/
  | scMxuStage (t : Nat)
  /-- MXU_MMA (R282): The MXU_MMA command accumulates A × B into an accumulator set. -/
  | scMxuMma (t : Nat)
  /-- MXU_DRAIN (R284): The MXU_DRAIN command converts accumulator rows to the output format and writes them to SRAM. -/
  | scMxuDrain (t : Nat)
  /-- VOP (R261): The VOP command performs an element-wise vector operation, conversion or special function. -/
  | scVop (t : Nat)
  /-- VRED (R264): The VRED command reduces a vector in the fixed lane and tree order. -/
  | scVred (t : Nat)
  /-- VFUSE (R302): The VFUSE command applies scale, bias and activation to each element. -/
  | scVfuse (t : Nat)
  /-- VRMS (R304): The VRMS command applies RMS normalisation to each row. -/
  | scVrms (t : Nat)
  /-- VSMAX1 (R307): The VSMAX1 command updates the soft-maximum state records from a chunk. -/
  | scVsmax1 (t : Nat)
  /-- VSMAX2 (R308): The VSMAX2 command writes the soft-maximum outputs of a chunk from the state records. -/
  | scVsmax2 (t : Nat)
  /-- MCU_ACCESS (R332): A queued access is served at its pseudo-channel by class rank, with ECC checked on reads. -/
  | mcuAccess (n : Nat) (ix : Nat) (lane : Nat) (err : Nat)
  /-- MCU_AUTO_REPAIR_START (R326): With AUTO_REPAIR set, the MCU starts RETRAIN REPAIR on a pending lane's channel once its operation window is free. -/
  | mcuAutoRepairStart (n : Nat)
  /-- PATROL_UNIT (R321): Patrol scrub reads the next unit of the stack, corrects errors and marks uncorrectable ones poisoned. -/
  | patrolUnit (n : Nat)
  /-- MCU_PC_LOST (R324): A pseudo-channel in service stops answering its PHY, raising FATAL event 0x4406. -/
  | mcuPcLost (n : Nat) (ix : Nat)
  /-- MCU_INIT_START (R323): A START of MCU INIT takes the stack's pseudo-channels out of service and begins training. -/
  | mcuInitStart (req : Nat) (n : Nat)
  /-- MCU_INIT_PC_TRAINED (R323): A pseudo-channel finishes training and returns to service, or stays offline. -/
  | mcuInitPcTrained (n : Nat) (ok : Bool)
  /-- MCU_SCRUB_START (R322): A START of MCU SCRUB checks its range and begins correcting or zeroing units. -/
  | mcuScrubStart (req : Nat) (n : Nat)
  /-- MCU_SCRUB_UNIT_DONE (R322): A 1 MiB scrub unit completes and progress advances. -/
  | mcuScrubUnitDone (n : Nat)
  /-- MCU_RETRAIN_START (R325): A START of MCU RETRAIN checks the channel and mode and begins, waiting first for vertical blank when HEAD_MASK asks. -/
  | mcuRetrainStart (req : Nat) (n : Nat)
  /-- MCU_RETRAIN_VBLANK_READY (R325): The named heads are in vertical blank, or VBLANK_WAIT_MS runs out, and the channel is paused for training. -/
  | mcuRetrainVblankReady (n : Nat) (late : Bool)
  /-- MCU_RETRAIN_DONE (R325): The channel's training steps complete and the channel returns to service, logging event 0x0407. -/
  | mcuRetrainDone (n : Nat)
  /-- MCU_RETRAIN_PAUSE_TIMEOUT (R325): The pause exceeds PAUSE_MAX_US; the channel returns on its old training and the operation fails with TIMEOUT. -/
  | mcuRetrainPauseTimeout (n : Nat)
  /-- MCU_ECC_CLEAR (R336): A write to MCU ECC_CLR zeroes ECC_CE, ECC_UE, ERR_ADDR and ERR_PC. -/
  | mcuEccClear (req : Nat) (n : Nat) (v : Word)
  /-- MCU_INJECT (R337): A write to MCU INJECT makes the next write store a one-symbol or two-symbol error. -/
  | mcuInject (req : Nat) (n : Nat) (v : Word)
  /-- MEMQ_IMAP_WRITE (R315): A write to MEMQ.IMAP changes the interleave mode of blocks with no assigned granule, and rejects the other bits. -/
  | memqImapWrite (req : Nat) (hi : Bool) (v : Word)
  /-- MEMQ_RES_WRITE (R330): A write to MEMQ.RES stores the reservations, capping their sum at 32. -/
  | memqResWrite (req : Nat) (v : Word)
  /-- MEMQ_WINDOW_END (R329): A MEMQ window ends; class counts restart, and over-reservation and starvation are counted. -/
  | memqWindowEnd (n : Nat)
  /-- MEMQ_HOST_AGED (R328): A HOST access has waited AGE_US and is promoted to rank 3. -/
  | memqHostAged (n : Nat) (ix : Nat)
  /-- REQUEST_DELIVERY (R349): A request reaches its destination, passes or fails the delivery checks in order, takes effect and is answered. -/
  | requestDelivery (k : Nat)
  /-- RESPONSE_RECEIVE (R345): A response arrives at the endpoint named in its tag and completes the tracked request, or is discarded as stray. -/
  | responseReceive (k : Nat)
  /-- REMOTE_ACCESS_TIMEOUT (R354): No response has arrived within the timeout, and the request times out at its endpoint. -/
  | remoteAccessTimeout (tag : Nat)
  /-- LX_PORT_ENABLE (R366): A write of PCTRL.EN = 1 on a DOWN or FAILED port starts training. -/
  | lxPortEnable (req : Nat) (n : Nat) (j : Nat) (v : Word)
  /-- LX_PORT_DISABLE (R382): A write of PCTRL.EN = 0 drains the port's queue as on a loss and takes it DOWN with cause DISABLED. -/
  | lxPortDisable (req : Nat) (n : Nat) (j : Nat) (v : Word)
  /-- LX_SPLIT_WRITE (R365): A write to CFG.SPLIT is stored and SPLIT_PENDING is set until every port is down. -/
  | lxSplitWrite (req : Nat) (n : Nat) (v : Word)
  /-- LX_SPLIT_APPLY (R365): Once every port reads DOWN, RESTED or FAILED, the pending split takes effect. -/
  | lxSplitApply (n : Nat)
  /-- LX_RETRAIN_START (R367): A START of LX RETRAIN in FULL, STORED, RELOCK or LANE mode begins training the port or the named lanes. -/
  | lxRetrainStart (req : Nat) (n : Nat)
  /-- LX_TRAINING_COMPLETE (R366): The port's lanes lock and deskew, and the port forms on at least W/2 lanes and sends IDENT. -/
  | lxTrainingComplete (g : Nat) (tx : Word) (rx : Word) (inv : Word) (eq : List Word)
  /-- LX_TRAINING_FAIL (R366): Fewer than W/2 lanes train, or the training bound is exceeded, and the port goes to FAILED with cause LANES. -/
  | lxTrainingFail (g : Nat) (ok : Word)
  /-- LX_IDENT_RECEIVE (R368): An IDENT arrives; it is answered with IDENT_ACK, and the partner is recorded and checked. -/
  | lxIdentReceive (g : Nat) (p : Packet)
  /-- LX_IDENT_ACK_RECEIVE (R368): An IDENT_ACK arrives; once the exchange is complete and the widths agree, the port becomes ACTIVE with its credits loaded. -/
  | lxIdentAckReceive (g : Nat) (echo : Word)
  /-- LX_IDENT_RESEND (R368): Every 1 ms without an IDENT_ACK, the IDENT is sent again. -/
  | lxIdentResend (g : Nat)
  /-- LX_CODEWORD_RECEIVE (R373): A codeword is decoded and corrected, and its flits are forwarded; an uncorrectable codeword is discarded and a NAK is sent. -/
  | lxCodewordReceive (g : Nat) (c : Codeword)
  /-- LX_CW_ACK (R374): An ACK header item releases the acknowledged numbered codewords. -/
  | lxCwAck (g : Nat) (n : Nat)
  /-- LX_CW_NAK (R375): A NAK header item makes the sender send REPLAY and resend from the named codeword. -/
  | lxCwNak (g : Nat) (n : Nat)
  /-- LX_CW_CREDIT (R378): A CREDIT header item returns flit credits for a class. -/
  | lxCwCredit (g : Nat) (c : Nat) (n : Nat)
  /-- LX_CW_REPLAY (R375): A REPLAY header item resynchronises the receiver's count after a NAK. -/
  | lxCwReplay (g : Nat) (n : Nat)
  /-- LX_CW_DROP_REQ (R385): A DROP_REQ item makes the sender switch to the new lane set with MAP and then REPLAY. -/
  | lxCwDropReq (g : Nat) (ix : Nat)
  /-- LX_CW_ADD_REQ (R386): An ADD_REQ item makes the sender add the lane at its next codeword with MAP. -/
  | lxCwAddReq (g : Nat) (ix : Nat)
  /-- LX_CW_MAP (R385): A MAP item decodes and the receiver leaves dual decoding for the new lane set. -/
  | lxCwMap (g : Nat) (ix : Nat) (add : Bool)
  /-- LX_CW_TEST_START (R387): A TEST_START item makes the partner transmit PRBS31Q on the lane under test. -/
  | lxCwTestStart (g : Nat) (ix : Nat)
  /-- LX_CW_TEST_STOP (R387): A TEST_STOP item ends the partner's PRBS transmission. -/
  | lxCwTestStop (g : Nat) (ix : Nat)
  /-- LX_CW_SLEEP (R388): A SLEEP item sets PARTNER_SLEEP, and TC0–TC5 traffic is held for the port. -/
  | lxCwSleep (g : Nat) (hb : Nat)
  /-- LX_CW_WAKE_REQ (R388): A WAKE_REQ item is a LINK wake event for the sleeping chip. -/
  | lxCwWakeReq (g : Nat)
  /-- LX_CW_AWAKE (R389): An AWAKE item clears PARTNER_SLEEP. -/
  | lxCwAwake (g : Nat)
  /-- LX_CW_HEARTBEAT (R388): A HEARTBEAT item in a sleep burst shows the sleeping partner is alive. -/
  | lxCwHeartbeat (g : Nat)
  /-- LX_ACK_TIMER (R374): MAX_10NS passes with numbered codewords unacknowledged, and the receiver sends an ACK. -/
  | lxAckTimer (g : Nat)
  /-- LX_NAK_WAIT_TIMEOUT (R375): No REPLAY or MAP decodes within NAK_WAIT_NS, and the NAK or DROP_REQ is sent again. -/
  | lxNakWaitTimeout (g : Nat)
  /-- LX_PARTNER_LOSS (R381): No codeword has decoded for LOSS.NS, or for the heartbeat interval in sleep, and the port goes DOWN or RESTED. -/
  | lxPartnerLoss (g : Nat)
  /-- LX_RETRAIN_RETRY (R382): Every 1 s a port that is still down and enabled retries FULL training. -/
  | lxRetrainRetry (g : Nat)
  /-- LX_LANE_LOCK_LOSS (R384): A lane has lost lock for LOSS_LOCK_NS and is marked FAILING; a DROP_REQ is sent, or the port goes down. -/
  | lxLaneLockLoss (n : Nat) (k : Nat)
  /-- LX_AUTO_LANE_RETRAIN_START (R386): With AUTO_LANE_RETRAIN set, a LANE-mode RETRAIN starts for a dropped lane once the operation window is free. -/
  | lxAutoLaneRetrainStart (n : Nat)
  /-- LX_LANE_TRAINED (R386): A lane finishes LANE-mode training and the receiver sends ADD_REQ. -/
  | lxLaneTrained (n : Nat) (k : Nat) (ok : Bool)
  /-- LX_LANE_TEST_START (R387): A START of LANE_TEST drops the lane and sends TEST_START. -/
  | lxLaneTestStart (req : Nat) (n : Nat)
  /-- LX_LANE_TEST_UNIT_DONE (R387): 2^20 bits have been tested on the lane, errors are counted, and the lane is re-added at the end. -/
  | lxLaneTestUnitDone (n : Nat) (errs : Nat)
  /-- LX_SLEEP_BURST (R388): Every HB_NS a sleeping port sends a burst of 16 codewords beginning with HEARTBEAT. -/
  | lxSleepBurst (g : Nat)
  /-- LX_REST_NOTE_RECEIVE (R390): A REST_NOTE sets or clears PARTNER_RESTED. -/
  | lxRestNoteReceive (g : Nat) (begin : Bool)
  /-- LX_PARTNER_SIGNAL_RETURN (R383): The signal of a rested partner returns, and the port retrains in RELOCK mode. -/
  | lxPartnerSignalReturn (g : Nat)
  /-- LX_LANE_CLR (R392): A write to LANE_CLR zeroes SYM_ERR and RETRAINS of every lane. -/
  | lxLaneClr (req : Nat) (n : Nat) (v : Word)
  /-- LX_PCLEAR (R392): A write to a port's PCLEAR zeroes its codeword, replay and lane counters. -/
  | lxPclear (req : Nat) (n : Nat) (j : Nat) (v : Word)
  /-- EGRESS_ENQUEUE (R398): A packet leaving the chip is routed to a port and enters that port's class queue once a slot is free. -/
  | egressEnqueue (k : Nat)
  /-- LINK_SCHEDULER_PICK (R400): At each packet boundary the scheduler chooses TC7, then TC6, then the weighted round, or sends an idle flit. -/
  | linkSchedulerPick (g : Nat)
  /-- INGRESS_POLICE (R405): A received request is matched against the port's policers and passes, is delayed, is marked or is dropped. -/
  | ingressPolice (g : Nat) (c : Nat)
  /-- POLICER_DELAY_RELEASE (R406): A token arrives for a request held by a DELAY policer, and the request passes. -/
  | policerDelayRelease (g : Nat) (c : Nat)
  /-- TSP_CLEAR (R410): A write to TSP_CLR zeroes every port's counters. -/
  | tspClear (req : Nat) (n : Nat) (v : Word)
  /-- TSP_PCLEAR (R410): A write to a port's PCLEAR zeroes that port's TSP counters. -/
  | tspPclear (req : Nat) (n : Nat) (j : Nat) (v : Word)
  /-- RTE_ZPEER_WRITE (R429): A write to ZPEER[z] re-runs the topology check of that Z port at once. -/
  | rteZpeerWrite (req : Nat) (z : Nat) (v : Word)
  /-- RTE_TABLE_WRITE (R446): A write into the routing table window replaces an entry or a reach word indivisibly. -/
  | rteTableWrite (req : Nat) (a : Nat) (v : Word)
  /-- RTE_CTX_ALLOC (R447): A CTX_ALLOC write with FREE = 0 allocates a slice context, finds it already held, or is refused. -/
  | rteCtxAlloc (req : Nat) (v : Word)
  /-- RTE_CTX_FREE (R448): A CTX_ALLOC write with FREE = 1 clears ACTIVE, the reach mask and the tables, unless the context is BOUND. -/
  | rteCtxFree (req : Nat) (v : Word)
  /-- RTE_CTX_ACTIVE_WRITE (R434): A write of CTX[c].ACTIVE activates or deactivates a context, refused above 32 chips without SCALE. -/
  | rteCtxActiveWrite (req : Nat) (c : Nat) (v : Word)
  /-- RTE_SETTLE_END (R438): A port's settle time ends and it becomes usable for new choices. -/
  | rteSettleEnd (g : Nat)
  /-- RTE_CNT_CLR (R449): A write to RTE.CNT_CLR zeroes the drop and detour counters. -/
  | rteCntClr (req : Nat) (v : Word)
  /-- FAB_CANDIDATE_RECEIVE (R458): A CANDIDATE is adopted and flooded when it is newer or better, and dropped otherwise. -/
  | fabCandidateReceive (g : Nat) (h : FabHdr)
  /-- FAB_ELECT_TIMEOUT (R458): The chip's own key stays best for ELECT_MS, and it becomes conductor. -/
  | fabElectTimeout
  /-- FAB_BEAT_RECEIVE (R460): A BEAT is accepted when newer or better; the conductor and parent port are recorded and a JOIN is sent. -/
  | fabBeatReceive (g : Nat) (h : FabHdr) (dep : Option Nat) (leaders : List (Nat × Nat))
  /-- FAB_BEAT_TIMER (R459): Every BEAT_US the conductor floods a BEAT and each section leader floods a group BEAT. -/
  | fabBeatTimer
  /-- FAB_CONDUCTOR_LOSS (R459): No BEAT has arrived for LOSS_BEATS periods; the deputy becomes conductor under TERM + 1. -/
  | fabConductorLoss
  /-- FAB_DEPUTY_LOSS (R459): No BEAT arrives from the deputy either, and the member starts an election. -/
  | fabDeputyLoss
  /-- FAB_JOIN_TIMER (R460): Every 10 ms a member sends its JOIN again. -/
  | fabJoinTimer
  /-- FAB_JOIN_RECEIVE (R462): The conductor records a joining member and appoints a section leader for a newly joined group. -/
  | fabJoinReceive (g : Nat) (h : FabHdr) (scale : Bool) (slices : List (Nat × Nat × List Nat))
  /-- FAB_GROUP_BEAT_LOSS (R462): A member misses the group BEAT and sends EVENT SL_LOST. -/
  | fabGroupBeatLoss
  /-- FAB_EVENT_RECEIVE (R469): An EVENT reports a port change, a step completion or a REST request, and the receiver carries on the request or repair. -/
  | fabEventReceive (h : FabHdr) (e : FabEvent)
  /-- FAB_ORDER_RECEIVE (R455): An ORDER from the recorded conductor or section leader is carried out and acknowledged, and an ORDER from another sender is dropped as stale. -/
  | fabOrderReceive (h : FabHdr) (o : FabOrder)
  /-- FAB_ORDER_ACK_RECEIVE (R454): An ORDER_ACK reaches the sender of the ORDER. -/
  | fabOrderAckReceive (h : FabHdr)
  /-- FAB_MIRROR_RECEIVE (R463): The deputy stores the request progress and slice allocation carried by a MIRROR. -/
  | fabMirrorReceive (h : FabHdr) (m : FabMirror)
  /-- FAB_MBX_QUERY (R466): Mailbox command QUERY makes the conductor write the report block. -/
  | fabMbxQuery (req : Nat) (v : Word)
  /-- FAB_MBX_CHANGEOVER (R468): Mailbox command CHANGEOVER is queued, checked and carried out by the steps of Table 1.3. -/
  | fabMbxChangeover (req : Nat) (v : Word)
  /-- FAB_MBX_CANCEL (R466): Mailbox command CANCEL withdraws a changeover whose step 2 has not begun, or is REJECTED. -/
  | fabMbxCancel (req : Nat) (v : Word)
  /-- FAB_MBX_ADMIT (R478): Mailbox command ADMIT sets or clears a port's ADMIT bit on both ends when the partners agree. -/
  | fabMbxAdmit (req : Nat) (v : Word)
  /-- FAB_MBX_RESET_CHIP (R464): Mailbox command RESET_CHIP makes the conductor send RESET_REQ to the chip. -/
  | fabMbxResetChip (req : Nat) (v : Word)
  /-- FAB_MBX_RECIRCUIT (R477): Mailbox command RECIRCUIT makes the conductor send the connect datagram at once. -/
  | fabMbxRecircuit (req : Nat) (v : Word)
  /-- FAB_MBX_UNKNOWN (R466): A mailbox command with an unknown code returns BAD_REQUEST. -/
  | fabMbxUnknown (req : Nat) (v : Word)
  /-- FAB_MBX_ANSWER (R465): The answer to a mailbox request arrives; RESULT, DETAIL and MBX_MET are written and MBX_DONE is raised. -/
  | fabMbxAnswer (tag : Nat) (result : Nat) (detail : Nat)
  /-- FAB_SWITCH_REPLY (R474): A switch reply arrives, completing the step or failing it with SWITCH. -/
  | fabSwitchReply (sw : Nat) (seq : Nat) (term : Nat) (statuses : List Nat)
  /-- FAB_SWITCH_ACK_TIMEOUT (R474): No reply within ACK_MS; the datagram is resent, or the step fails with SWITCH after TRIES. -/
  | fabSwitchAckTimeout (sw : Nat)
  /-- FAB_SWITCH_SETTLE_END (R469): SETTLE_MS after the switch reply, the conductor orders FULL retraining of the changed Z ports. -/
  | fabSwitchSettleEnd
  /-- FAB_STEP_LIMIT_TIMEOUT (R467): A chip does not complete a step within STEP_LIMIT_S, and the request fails with TIMEOUT. -/
  | fabStepLimitTimeout (chip : Nat)
  /-- FAB_NO_CONDUCTOR_TIMEOUT (R467): No conductor for 2 s after a request reaches the mailbox, and the result is NO_CONDUCTOR. -/
  | fabNoConductorTimeout
  /-- FAB_RECIRCUIT_TIMER (R477): Every RECIRCUIT_S while a Z port stays down, the conductor re-sends the traverse connect. -/
  | fabRecircuitTimer
  /-- FAB_RECOMPUTE_DONE (R476): A route recompute finishes; LAST_RECOMPUTE is written, RECOMPUTE_DONE is raised and event 0x1668 is logged. -/
  | fabRecomputeDone (us : Nat)
  /-- FAB_CNT_CLR (R483): A write to FAB.CNT_CLR zeroes the FAB counters. -/
  | fabCntClr (req : Nat) (v : Word)
  /-- MET_BEACON_SEND (R489): Every BEACON_US each ACTIVE port sends a BEACON with its time stamps. -/
  | metBeaconSend
  /-- MET_BEACON_RECEIVE (R490): A BEACON yields the offset θ, updates the root choice, and steps, freezes, slews or locks the Metronome. -/
  | metBeaconReceive (g : Nat) (p : Packet)
  /-- MET_ROOT_LOSS (R492): The root's ROOT_SEQ stops advancing for ROOT_LOSS periods; the chip enters HOLDOVER and chooses again. -/
  | metRootLoss
  /-- MET_HOLDOVER_EXPIRE (R495): HOLDOVER_MAX_MS elapses, and the Metronome enters FREE with SYNC cleared. -/
  | metHoldoverExpire
  /-- MET_NOW_READ (R488): A read of MET.NOW_LO captures bits [63:32] of the same tick into NOW_HI. -/
  | metNowRead (req : Nat)
  /-- MET_CNT_CLR (R509): A write to MET.CNT_CLR zeroes COUNTS and COUNTS2. -/
  | metCntClr (req : Nat) (v : Word)
  /-- SNP_FIRE (R499): A write of SNP.FIRE.FIRE schedules a LOCAL or MACHINE downbeat, after the MIN_GAP test. -/
  | snpFire (req : Nat) (v : Word)
  /-- SNP_RELEASE_ALL (R505): A write of RELEASE_ALL releases every held page of the chip. -/
  | snpReleaseAll (req : Nat) (v : Word)
  /-- SNP_RELEASE_MACHINE (R505): A write of RELEASE_MACHINE releases held pages and floods a RELEASE packet. -/
  | snpReleaseMachine (req : Nat) (v : Word)
  /-- SNP_ARM (R499): A write of AT_CTRL.ARM = 1 captures AT_MET and PERIOD_US and schedules the MET source. -/
  | snpArm (req : Nat) (v : Word)
  /-- SNP_DISARM (R499): A write of AT_CTRL.ARM = 0 stops an armed periodic schedule. -/
  | snpDisarm (req : Nat) (v : Word)
  /-- SNP_IN_EDGE (R499): An accepted rising edge on SNAP_IN triggers a downbeat. -/
  | snpInEdge
  /-- SNP_DOWNBEAT_RECEIVE (R500): A DOWNBEAT packet is flooded on once and its T is scheduled when REMOTE is enabled, or latched at once when T has passed. -/
  | snpDownbeatReceive (p : Packet)
  /-- SNP_RELEASE_RECEIVE (R505): A RELEASE packet is flooded on once and releases the chip's held pages. -/
  | snpReleaseReceive (p : Packet)
  /-- SNP_LATCH (R503): The Metronome reaches a pending T and the chip latches every taking-part page, or counts an excess. -/
  | snpLatch
  /-- SNP_CNT_CLR (R510): A write to SNP.CNT_CLR zeroes EXCESS, PEND_FULL and LATE_COUNT. -/
  | snpCntClr (req : Nat) (v : Word)
  /-- DH_PLL_LOCKED (R517): The display PLL locks and the head starts line 0 in RUN. -/
  | dhPllLocked (n : Nat)
  /-- DH_FRAME_BOUNDARY (R514): At a frame boundary the head applies staged settings and commits, counts the frame and evaluates HEADOK recovery. -/
  | dhFrameBoundary (n : Nat)
  /-- DH_VBLANK_START (R515): The vertical blank begins and IN_VBLANK is set. -/
  | dhVblankStart (n : Nat)
  /-- DH_LINE_FETCH_START (R524): LEAD lines before an active line, the fetch engine requests its line-store units and fetches the line. -/
  | dhLineFetchStart (n : Nat) (a : Nat)
  /-- DH_LINE_UNITS_GRANT (R524): The line-store units a waiting fetch needs become free and are granted, and the fetch issues its reads. -/
  | dhLineUnitsGrant
  /-- DH_LINE_DEADLINE (R526): At the start of the line before an active line, a fetch not yet complete makes that line LATE. -/
  | dhLineDeadline (n : Nat) (a : Nat)
  /-- DH_LINE_SCANOUT (R526): An active line is scanned out; uncomposed pixels underrun, and the line units are released at its end. -/
  | dhLineScanout (n : Nat) (a : Nat) (k : Nat)
  /-- DH_HEADOK_REARM (R529): A write of HEADOK.REARM clears LATCHED. -/
  | dhHeadokRearm (req : Nat) (n : Nat) (v : Word)
  /-- DH_CNT_CLR (R541): A write to DH.CNT_CLR zeroes the late, underrun, bad-frame and genlock counters. -/
  | dhCntClr (req : Nat) (n : Nat) (v : Word)
  /-- GENLOCK_PULSE (R519): A GENLOCK_IN edge is accepted or ignored and, when in range, drives the phase error, jump or pull and the lock state. -/
  | genlockPulse (falling : Bool) (ns : Nat)
  /-- GENLOCK_MET_INSTANT (R518): A Metronome reference instant of a MET-genlocked head is reached and treated as an in-range reference. -/
  | genlockMetInstant (n : Nat)
  /-- GENLOCK_MISS_TIMEOUT (R521): No accepted in-range instant for MISS × P, and the head enters HOLDOVER on its last pull. -/
  | genlockMissTimeout (n : Nat)
  /-- DPTX_HPD_RISE (R536): HPD rises after a low pulse, which is classified as a glitch or an IRQ_HPD. -/
  | dptxHpdRise (n : Nat) (us : Nat)
  /-- DPTX_HPD_UNPLUG (R536): HPD stays low longer than UNPLUG_MS; the link goes NO_SINK and the main link idles. -/
  | dptxHpdUnplug (n : Nat)
  /-- DPTX_HPD_SETTLED (R536): HPD stays high for SETTLE_MS; the sink is present, capabilities are read and training starts. -/
  | dptxHpdSettled (n : Nat) (rate : Nat) (lanes : Nat) (uhbr : Bool) (dsc : Bool)
  /-- DPTX_TRAIN_DONE (R534): A link configuration trains; the link is VALID and pixels start at the next boundary. -/
  | dptxTrainDone (n : Nat) (lv : List Word)
  /-- DPTX_TRAIN_TIMEOUT (R534): A training attempt exceeds TIMEOUT_MS, and the next qualifying configuration is tried, or the link goes FAILED. -/
  | dptxTrainTimeout (n : Nat)
  /-- DPTX_TRAIN_RETRY (R534): RETRY_S after a failure with HPD high, training starts again. -/
  | dptxTrainRetry (n : Nat)
  /-- DPTX_STATUS_POLL (R535): Every 100 ms, or after an IRQ_HPD, the sink's link status is read. -/
  | dptxStatusPoll (n : Nat) (ok : Bool)
  /-- DPTX_RETRAIN_REQ (R535): A write of RETRAIN.REQ makes the link retrain from the next vertical blank. -/
  | dptxRetrainReq (req : Nat) (n : Nat) (v : Word)
  /-- AUX_NATIVE_READ (R537): AUX_CMD with REQ 0 issues a native AUX read. -/
  | auxNativeRead (req : Nat) (n : Nat) (v : Word)
  /-- AUX_NATIVE_WRITE (R537): AUX_CMD with REQ 1 issues a native AUX write, and writes to 0x0_0100–0x0_01FF are refused. -/
  | auxNativeWrite (req : Nat) (n : Nat) (v : Word)
  /-- AUX_I2C_READ (R537): AUX_CMD with REQ 2 issues an I2C-over-AUX read. -/
  | auxI2cRead (req : Nat) (n : Nat) (v : Word)
  /-- AUX_I2C_WRITE (R537): AUX_CMD with REQ 3 issues an I2C-over-AUX write. -/
  | auxI2cWrite (req : Nat) (n : Nat) (v : Word)
  /-- DPTX_AUX_REPLY (R537): An AUX reply arrives; a DEFER is retried up to DEFER_MAX, and the result is written to AUX_STATUS. -/
  | dptxAuxReply (n : Nat) (reply : Nat) (bs : List Byte)
  /-- DPTX_AUX_TIMEOUT (R537): An AUX transaction gets no reply within TIMEOUT_US and ends TIMEOUT. -/
  | dptxAuxTimeout (n : Nat)
  /-- DPTX_CNT_CLR (R544): A write to DPTX.CNT_CLR zeroes COUNTS and COUNTS2. -/
  | dptxCntClr (req : Nat) (n : Nat) (v : Word)
  /-- CMT_COMMIT_GO (R566): A write of HC[n].CMD.GO submits a commit record for fetching, or is refused. -/
  | cmtCommitGo (req : Nat) (n : Nat) (v : Word)
  /-- CMT_RECORD_FETCHED (R567): The record has been read; it is checked and sent to pool arbitration, becoming PENDING or being rejected. -/
  | cmtRecordFetched (n : Nat)
  /-- CMT_RECORD_TIMEOUT (R567): The record is not read whole within RECORD.TIMEOUT_US, and the commit is rejected at check 1. -/
  | cmtRecordTimeout (n : Nat)
  /-- CMT_COMMIT_CANCEL (R572): A write of HC[n].CMD.CANCEL discards the head's fetching or pending commit. -/
  | cmtCommitCancel (req : Nat) (n : Nat) (v : Word)
  /-- CMT_FENCE_ALLOC (R562): A FENCE_ALLOC write with FREE = 0 grants a fence slot, or is refused. -/
  | cmtFenceAlloc (req : Nat) (v : Word)
  /-- CMT_FENCE_FREE (R564): A FENCE_ALLOC write with FREE = 1 from the holder frees the slot. -/
  | cmtFenceFree (req : Nat) (v : Word)
  /-- CMT_FENCE_SET (R563): A register write to FENCE[n] by its holder SETs the slot. -/
  | cmtFenceSet (req : Nat) (ix : Nat) (v : Word)
  /-- CMT_FENCE_MAX (R31): An atomic MAX_MOD on CMT.FENCE[n] raises the slot, or is denied. -/
  | cmtFenceMax (req : Nat) (ix : Nat) (v : Word)
  /-- CMT_CNT_CLR (R587): A write to CMT.CNT_CLR zeroes the fence counters and every head's COUNTS. -/
  | cmtCntClr (req : Nat) (v : Word)
  /-- PROT_WIN_WRITE (R560): A write to PROT.WIN_DATA stores 4 bytes in the protected buffer and advances WIN_ADDR. -/
  | protWinWrite (req : Nat) (n : Nat) (v : Word)
  /-- PROT_LOAD_START (R560): A write of LOAD_CTRL.START begins copying from HBM into the protected buffer. -/
  | protLoadStart (req : Nat) (n : Nat) (v : Word)
  /-- PROT_LOAD_DONE (R560): The LOAD finishes, or a failed read stops it with ERROR set. -/
  | protLoadDone (n : Nat)
  /-- PROT_APPLY (R561): A write of PROT.APPLY stages the PROT values to take effect at the next frame boundary, unless they are invalid. -/
  | protApply (req : Nat) (n : Nat) (v : Word)
  /-- SIG_APPLY (R579): A write of SIG.APPLY makes the staged values take effect at the next boundary, unless they are invalid. -/
  | sigApply (req : Nat) (n : Nat) (v : Word)
  /-- SIG_REGION_CHECK (R576): The last pixel of an enabled region is sent; its CRC is compared and the mismatch state is updated. -/
  | sigRegionCheck (n : Nat) (ix : Nat)
  /-- SIG_CNT_CLR (R585): A write to SIG.CNT_CLR zeroes MISMATCH_FRAMES. -/
  | sigCntClr (req : Nat) (n : Nat) (v : Word)
  /-- BLIT_START (R593): A START of BLT BLIT copies the blit registers, checks them and begins processing lines. -/
  | blitStart (req : Nat)
  /-- BLT_LINE_COMPLETE (R595): Every write of a blit line has completed; progress advances and the next line or the signal follows. -/
  | bltLineComplete
  /-- BLT_SIGNAL_RESPONSE (R598): The response to the blit's completion signal arrives, and the blit ends DONE or FAILED. -/
  | bltSignalResponse
  /-- BLT_CNT_CLR (R605): A write to BLT.CNT_CLR zeroes COUNTS. -/
  | bltCntClr (req : Nat) (v : Word)
  /-- CSI_FRAME_START (R610): An FS packet starts a frame; it is stamped and SEQ increments. -/
  | csiFrameStart (n : Nat) (ecc : Nat) (num : Nat)
  /-- CSI_FRAME_END (R610): An FE packet ends a frame, and the pipeline flushes it. -/
  | csiFrameEnd (n : Nat) (ecc : Nat)
  /-- CSI_LINE_PACKET (R611): A data line packet is checked and stored in the input buffer, or marks the frame CORRUPT. -/
  | csiLinePacket (n : Nat) (ecc : Nat) (crcOk : Bool) (px : List Nat)
  /-- CSI_EMBEDDED_PACKET (R625): An embedded-data packet is written to the EMB buffer, truncated at EMB_MAX. -/
  | csiEmbeddedPacket (n : Nat) (ecc : Nat) (crcOk : Bool) (bs : List Byte)
  /-- CSI_PACKET_OTHER (R609): A packet on another virtual channel or of another data type is discarded and counted. -/
  | csiPacketOther (n : Nat) (ecc : Nat) (vc : Nat) (dt : Nat)
  /-- CSI_LANE_FAULT (R611): A lane loses synchronisation, and the frame in progress is marked CORRUPT with cause LANE. -/
  | csiLaneFault (n : Nat) (lane : Nat)
  /-- ISP_LINE_PROCESSED (R617): The pipeline finishes processing a line through its stages and issues its output writes. -/
  | ispLineProcessed (n : Nat)
  /-- ISP_FRAME_WRITES_COMPLETE (R620): Every output, statistics and embedded write of a frame has completed, and the frame record is written. -/
  | ispFrameWritesComplete (n : Nat)
  /-- ISP_RECORD_COMPLETE (R620): The frame record write completes, and each enabled output's signal is sent. -/
  | ispRecordComplete (n : Nat)
  /-- ISP_APPLY (R630): A write of ISP.APPLY stages the values to take effect at the next FS, after checks. -/
  | ispApply (req : Nat) (n : Nat) (v : Word)
  /-- CAM_TRIG_RISE (R626): A scheduled CAM_TRIG instant (MET or head boundary plus offset) raises the pin. -/
  | camTrigRise (n : Nat)
  /-- CAM_TRIG_FALL (R626): WIDTH_US after its rise, or at half the interval, the CAM_TRIG pin falls. -/
  | camTrigFall (n : Nat)
  /-- CSI_CNT_CLR (R631): A write to CSI.CNT_CLR zeroes COUNTS and COUNTS2. -/
  | csiCntClr (req : Nat) (n : Nat) (v : Word)
  /-- ISP_CNT_CLR (R632): A write to ISP.CNT_CLR zeroes the ISP counters. -/
  | ispCntClr (req : Nat) (n : Nat) (v : Word)
  /-- PCIE_LINK_UP (R637): The PCIe link trains at x16 and comes up, logging event 0x0B01. -/
  | pcieLinkUp (speed : Nat) (flit : Bool)
  /-- PCIE_SPEED_RECOVERY (R637): Every 100 ms below 16 GT/s the PN4 directs the link to Recovery to seek a higher rate. -/
  | pcieSpeedRecovery (speed : Nat)
  /-- PCIE_LINK_DOWN (R659): The Data Link layer goes down unannounced; queues and streams stop and event 0x2B02 is logged. -/
  | pcieLinkDown
  /-- PCIE_CONFIG_REQUEST (R637): A PCIe configuration request is answered. -/
  | pcieConfigRequest (fn : Nat) (tag : Nat) (c : CfgReq)
  /-- HOST_APERTURE_READ (R643): A host read TLP through an aperture slot is split into global reads and completed, or completed with UR or CA. -/
  | hostApertureRead (fn : Nat) (tag : Nat) (o : Nat) (len : Nat)
  /-- HOST_APERTURE_WRITE (R641): A posted host write TLP through an aperture slot is split into global writes, or discarded and counted. -/
  | hostApertureWrite (fn : Nat) (o : Nat) (ep : Bool) (bs : List Byte)
  /-- HQ_QUEUE_ENABLE (R646): A write of QCFG.EN = 1 zeroes CLAIMED, COMPLETED and CQ_HEAD and puts the queue in RUN. -/
  | hqQueueEnable (req : Nat) (q : Nat) (v : Word)
  /-- HQ_CLAIM (R647): A read of CLAIM[n] grants n queue slots, or returns BUSY. -/
  | hqClaim (fn : Nat) (tag : Nat) (q : Nat) (n : Nat)
  /-- HQ_RING (R648): A write to RING makes the queue read valid claimed commands from host memory. -/
  | hqRing (fn : Nat) (q : Nat)
  /-- HQ_CMD_NOP (R649): Host queue command NOP is checked and completes. -/
  | hqCmdNop (q : Nat) (w : List Word)
  /-- HQ_CMD_COPY (R649): Host queue command COPY is checked and moves data between host memory and global addresses. -/
  | hqCmdCopy (q : Nat) (w : List Word)
  /-- HQ_CMD_SIGNAL (R649): Host queue command SIGNAL waits for earlier commands and sends a counter or fence signal. -/
  | hqCmdSignal (q : Nat) (w : List Word)
  /-- HQ_CMD_WRITE (R649): Host queue command WRITE writes up to 32 inline bytes to a global address. -/
  | hqCmdWrite (q : Nat) (w : List Word)
  /-- HQ_CMD_COMPLETE (R650): A queue command completes; its completion entry is written and the vector is sent when asked for. -/
  | hqCmdComplete (q : Nat)
  /-- HQ_CQ_HEAD_WRITE (R651): A write of CQ_HEAD returns consumed slots, or is ignored when it runs past COMPLETED. -/
  | hqCqHeadWrite (fn : Nat) (q : Nat) (v : Word)
  /-- MSIX_MODERATION_END (R655): A vector's MOD interval ends and a coalesced message is sent. -/
  | msixModerationEnd (fn : Nat) (v : Nat)
  /-- STREAM_FLUSH_TIMEOUT (R657): FLUSH_MS after its first record, a stream page closes. -/
  | streamFlushTimeout (k : Nat)
  /-- STREAM_PAGE_PUBLISH (R657): A closed stream page is written to the host ring when there is room, the tail is updated and the vector is sent, or DROP_PAGE discards it. -/
  | streamPagePublish (k : Nat) (ok : Bool)
  /-- STREAM_TELEMETRY_SAMPLE (R656): Every PERIOD_MS a TELEMETRY record is added to stream 2. -/
  | streamTelemetrySample
  /-- STREAM_TRACE_RECORD (R656): The management firmware adds a trace record to stream 1. -/
  | streamTraceRecord (typ : Nat) (bs : List Byte)
  /-- STREAM_ENABLE (R665): A write of ST_CTRL.EN = 1 zeroes HEAD and TAIL and starts the stream. -/
  | streamEnable (req : Nat) (k : Nat) (v : Word)
  /-- STREAM_HEAD_WRITE (R657): A host write of ST_RING.HEAD frees ring pages for publishing. -/
  | streamHeadWrite (req : Nat) (k : Nat) (v : Word)
  /-- VF_FLR (R661): A function level reset of a VF stops its claims and fetching and waits for its commands in flight. -/
  | vfFlr (fn : Nat)
  /-- VF_FLR_COMPLETE (R661): The VF's commands in flight finish; its queues go OFF, its block fields reset and event 0x0B07 is logged. -/
  | vfFlrComplete (fn : Nat)
  /-- FN_CLEAR (R645): A write to FN_CLR zeroes the function's FN_COUNTS. -/
  | fnClear (fn : Nat) (v : Word)
  /-- HIF_CNT_CLR (R665): A write to HIF.CNT_CLR zeroes the HIF and stream counters. -/
  | hifCntClr (req : Nat) (v : Word)
  /-- PART_CREATE (R669): A write to PART.CREATE makes a FREE partition below LIMIT ACTIVE, or is refused. -/
  | partCreate (req : Nat) (v : Word)
  /-- PART_ASSIGN (R671): A write to PART.ASSIGN grants a whole range of resources to a partition, or refuses it with a cause. -/
  | partAssign (req : Nat) (v : Word)
  /-- PART_AUTO_DRAIN_START (R678): With a partition FENCED and the operation window free, the PN4 starts DRAIN_SCRUB itself. -/
  | partAutoDrainStart
  /-- DRAIN_SCRUB_START (R677): A START of PART DRAIN_SCRUB fences the named partitions and starts the drain phase. -/
  | drainScrubStart (req : Nat)
  /-- PART_DRAIN_PHASE_COMPLETE (R679): Every request of the named partitions has resolved and their tiles, operations and queues have stopped, and the scrub phase starts. -/
  | partDrainPhaseComplete
  /-- PART_SCRUB_UNIT_DONE (R680): A 1 MiB scrub unit of a drained partition is zeroed, or an offline MCU fails the operation. -/
  | partScrubUnitDone
  /-- PART_CNT_CLR (R684): A write to PART.CNT_CLR zeroes DENY, DRAIN_DROPS and DENY_LOG. -/
  | partCntClr (req : Nat) (v : Word)
  /-- EVENT_RAISE (R689): A block raises an event: class counts and interrupts are updated, it is offered to the logs, and FATAL resets while CONTAINED fences. -/
  | eventRaise (page : Nat) (code : Nat) (d0 : Word) (d1 : Word) (d2 : Word) (charge : Nat)
  /-- EVL_EVENT_ACCEPT (R693): The EVL write port accepts a pending event, gives it a SEQ and writes it into the logs by mask and policy. -/
  | evlEventAccept
  /-- EVL_LOG_RELEASE (R695): A write of LOG[l].CTL.RELEASE discards the oldest entries. -/
  | evlLogRelease (req : Nat) (l : Nat) (v : Word)
  /-- EVL_LOG_CLEAR (R695): A write of LOG[l].CTL.CLEAR empties the log and zeroes its LOST. -/
  | evlLogClear (req : Nat) (l : Nat) (v : Word)
  /-- EVL_READ_SELECT (R696): A write to RD_SEL copies one log entry into ENTRY[0]–[6]. -/
  | evlReadSelect (req : Nat) (v : Word)
  /-- ERR_INJECT (R702): A write to ERR.INJECT raises an event marked INJECTED that is counted and logged but changes no block. -/
  | errInject (req : Nat) (v : Word)
  /-- ERR_CNT_CLR (R700): A write to ERR.CNT_CLR zeroes the ERR counters and records. -/
  | errCntClr (req : Nat) (v : Word)
  /-- REFCLK_SYS_LOSS (R742): Loss of REFCLK_SYS while running raises FATAL event 0x4020 and resets the chip. -/
  | refclkSysLoss (present : Bool)
  /-- REFCLK_LNK_LOSS (R742): Loss of REFCLK_LNK makes every port lose lock and handle a loss. -/
  | refclkLnkLoss (present : Bool)
  /-- PCIE_REFCLK_LOSS (R742): Loss of PCIE_REFCLK takes the PCIe link down. -/
  | pcieRefclkLoss (present : Bool)
  /-- SMB_READ_CHIP_ID (R748): SMBus Block Read command 0x00 returns CHIP.ID. -/
  | smbReadChipId
  /-- SMB_READ_CHIP_STEP (R748): SMBus Block Read command 0x01 returns CHIP.STEP. -/
  | smbReadChipStep
  /-- SMB_READ_BOOT_STATUS (R748): SMBus Block Read command 0x02 returns CHIP.BOOT_STATUS. -/
  | smbReadBootStatus
  /-- SMB_READ_TJ (R748): SMBus Block Read command 0x03 returns PVT.TJ. -/
  | smbReadTj
  /-- SMB_READ_PWR_STATUS (R748): SMBus Block Read command 0x04 returns PWR.STATUS. -/
  | smbReadPwrStatus
  /-- SMB_READ_CHIP_NUM (R748): SMBus Block Read command 0x05 returns CHIP.CHIP_NUM. -/
  | smbReadChipNum
  /-- SMB_OTHER (R748): Any other SMBus command code, write or protocol is NAKed. -/
  | smbOther
  /-- JTAG_BYPASS (R749): The BYPASS instruction selects the bypass register. -/
  | jtagBypass
  /-- JTAG_IDCODE (R749): The IDCODE instruction returns version 0x1 and part number 0x504E. -/
  | jtagIdcode
  /-- JTAG_SAMPLE_PRELOAD (R749): The SAMPLE/PRELOAD instruction acts on the boundary chain while RESET_N is low, and as BYPASS otherwise. -/
  | jtagSamplePreload (pins : Nat)
  /-- JTAG_EXTEST (R749): The EXTEST instruction drives the CMOS boundary pins while RESET_N is low, and acts as BYPASS otherwise. -/
  | jtagExtest (pins : Nat)
  /-- PCIE_TRAINING_FAIL (R637): PCIe link training ends at a width other than x16; the PN4 returns to Detect, increments HIF.COUNTS.TRAIN_FAILS, sets IRQ bit 2 and logs event 0x1B03. -/
  | pcieTrainingFail
  /-- HOST_READ_COMPLETION (R650): A PCIe completion arrives for a PN4 read of host memory, carrying COPY source data or reporting UR, CA or poison, which gives HOST_FAULT. -/
  | hostReadCompletion (q : Nat) (num : Nat) (o : Nat) (status : Nat) (bs : List Byte)
  /-- ETH_FRAME_RECEIVE (R140): A management Ethernet frame is received; an erroneous frame counts in RX_ERR, a frame with no receive buffer counts in RX_DROPS, and the first increment after CNT_CLR raises ETH_ERR. -/
  | ethFrameReceive (bad : Bool) (noBuffer : Bool)
  /-- SUPPLY_TOLERANCE_DETECT (R735): The PN4's own detectors find VDD_AON or VDDIO_1V8 leaving or regaining tolerance, and the PN4 treats PWR_OK as low or as its pin level accordingly. -/
  | supplyToleranceDetect (low : Bool)
  /-- CSI_CLOCK_LANE_CHANGE (R631): The camera's D-PHY clock lane starts or stops, and CSIn.STATUS.CLK_ACTIVE follows. -/
  | csiClockLaneChange (n : Nat) (on : Bool)
  /-- SNAP_OUT_FALL (R504): 100 ns ± 10 ns after a latch, SNP drives SNAP_OUT low again. -/
  | snapOutFall
  deriving DecidableEq, Repr

end Sys2Proof
end

