-- ==== Sys2Proof/Config.lean ====
section
/-! DEFINITION. What the spec leaves open: free values, and functions of mathematics the spec names and does not define. -/
namespace Sys2Proof.Config

/-- The n-th free value, as a number of any width: the spec does not say which it is (log 3). -/
opaque freeNat : Nat → Nat

/-- A free choice between two outcomes the spec allows (log 3). -/
opaque freeBool : Nat → Bool

/-- SHA-384 of a byte string, a function the spec names and does not define (log 8). -/
opaque sha384 : List Byte → List Byte

/-- Whether an ECDSA P-384 signature with SHA-384 is valid: key, signed bytes, signature (log 8). -/
opaque ecdsaValid : List Byte → List Byte → List Byte → Bool

end Sys2Proof.Config
end

