-- ==== Sys2Proof/Machine/Fld.lean ====
section
/-! DEFINITION. Register fields, bit ranges, and sparse maps in canonical form. -/
namespace Sys2Proof.Machine

/-- The access codes of Table 0.4, with the qualifications the page tables add. -/
inductive Acc where
  | ro | rw | wo | w1c | rwl | ros
  /-- RW, staged until the page's APPLY. -/
  | staged
  /-- RW by the management domain only. -/
  | mgmt
  /-- WO by the management domain only. -/
  | womgmt
  /-- Write 1 to set; 0 is ignored. -/
  | w1s
  /-- RW by the conductor. -/
  | conductor
  deriving DecidableEq, Repr

/-- One field of a page, or an array of them: element i of block b lies in the word at
`off + bst * b + st * (i / per)`, from bit `lo + slot * (i % per)`. -/
structure Fld where
  off : Nat
  lo : Nat
  wid : Nat
  acc : Acc
  reset : Nat
  st : Nat
  cnt : Nat
  per : Nat
  slot : Nat
  bst : Nat
  bcnt : Nat
  deriving DecidableEq, Repr

/-- The page offset of the word that holds element i of block b. -/
def fldOff (f : Fld) (i b : Nat) : Nat := f.off + f.bst * b + f.st * (i / f.per)

/-- The lowest bit of element i. -/
def fldBit (f : Fld) (i : Nat) : Nat := f.lo + f.slot * (i % f.per)

/-- Bits [lo + wid - 1 : lo] of a number. -/
def getBits (w lo wid : Nat) : Nat := w / 2 ^ lo % 2 ^ wid

/-- A number with bits [lo + wid - 1 : lo] replaced by the low bits of v. -/
def putBits (w lo wid v : Nat) : Nat := w - getBits w lo wid * 2 ^ lo + v % 2 ^ wid * 2 ^ lo

/-- Bit n of a number. -/
def bitOf (w n : Nat) : Bool := w / 2 ^ n % 2 == 1

/-- A value capped at the greatest value of a field of the given width (R698: saturation). -/
def satAt (wid v : Nat) : Nat := min v (2 ^ wid - 1)

/-- The truth value as a bit. -/
def b2n (b : Bool) : Nat := if b then 1 else 0

/-- A value as its distance modulo 2^n from another: the half-range rule of R698. -/
def atOrAfter (n a b : Nat) : Bool := (a + 2 ^ n - b % 2 ^ n) % 2 ^ n < 2 ^ (n - 1)

/-! Sparse maps: a list of (key, value) pairs with strictly rising keys and no entry equal to what an unlisted key
reads as. -/

/-- A sparse map. -/
abbrev Fmap (α : Type) := List (Nat × α)

variable {α : Type}

/-- What the map holds at a key; `d` is what an unlisted key reads as. -/
def fget (d : Nat → α) : Fmap α → Nat → α
  | [], n => d n
  | (k, v) :: r, n => if n = k then v else fget d r n

/-- The map without a key. -/
def fdel : Fmap α → Nat → Fmap α
  | [], _ => []
  | (k, v) :: r, n => if n = k then fdel r n else (k, v) :: fdel r n

/-- The map with a pair put at its place. -/
def fins : Fmap α → Nat → α → Fmap α
  | [], n, v => [(n, v)]
  | (k, w) :: r, n, v =>
    if n < k then (n, v) :: (k, w) :: r else if n = k then (n, v) :: r else (k, w) :: fins r n v

/-- The map after a write; writing what an unlisted key reads as removes the entry. -/
def fset [DecidableEq α] (d : Nat → α) (m : Fmap α) (n : Nat) (v : α) : Fmap α :=
  if v = d n then fdel m n else fins m n v

/-- The canonical form: keys strictly rising from `lo` on, and no entry that an unlisted key would read as. -/
def fwfFrom [DecidableEq α] (d : Nat → α) : Nat → Fmap α → Bool
  | _, [] => true
  | lo, (k, v) :: r => decide (lo ≤ k) && (!decide (v = d k) && fwfFrom d (k + 1) r)

/-- The canonical form of a sparse map. -/
def fwf [DecidableEq α] (d : Nat → α) (m : Fmap α) : Bool := fwfFrom d 0 m

/-- Replaces what the map holds at a key by a function of it. -/
def fmod [DecidableEq α] (d : Nat → α) (m : Fmap α) (n : Nat) (f : α → α) : Fmap α := fset d m n (f (fget d m n))

end Sys2Proof.Machine
end

