-- ==== Sys2Proof/Machine/Regs.lean ====
section
/-! DEFINITION. The register fields of every page, from the field tables of spec/ (Tables 2.5 to 24.6, R63 to R703): one
definition per field, and one list per page type. A field whose Reset column is a dash holds 0 (log 1). Fields whose
reset value depends on the instance (Table 3.1, R79, R91), on a fuse or on another field (R81) hold 0 here and get
their value in `wordReset` (Ops.lean). -/
namespace Sys2Proof.Machine
namespace F

/-- PACE.TB_NOW.VALUE (R63). -/
def PACE_TB_NOW_VALUE : Fld := ⟨0x100, 0, 16, .ro, 0x0, 0, 1, 1, 0, 0, 1⟩
/-- PACE.TB_NOW.STALE (R63). -/
def PACE_TB_NOW_STALE : Fld := ⟨0x100, 31, 1, .ro, 0x1, 0, 1, 1, 0, 0, 1⟩
/-- PACE.TB_GUAR.VALUE (R63). -/
def PACE_TB_GUAR_VALUE : Fld := ⟨0x104, 0, 16, .ro, 0x640, 0, 1, 1, 0, 0, 1⟩
/-- PACE.TB_GUAR.OPP (R63). -/
def PACE_TB_GUAR_OPP : Fld := ⟨0x104, 16, 2, .ro, 0x0, 0, 1, 1, 0, 0, 1⟩
/-- PACE.TB_GUAR.TRANSITION (R63). -/
def PACE_TB_GUAR_TRANSITION : Fld := ⟨0x104, 31, 1, .ro, 0x0, 0, 1, 1, 0, 0, 1⟩
/-- PACE.TB_MAX_SEEN.VALUE (R63). -/
def PACE_TB_MAX_SEEN_VALUE : Fld := ⟨0x108, 0, 16, .ro, 0x0, 0, 1, 1, 0, 0, 1⟩
/-- PACE.TB_MAX_SEEN.CLUSTER (R63). -/
def PACE_TB_MAX_SEEN_CLUSTER : Fld := ⟨0x108, 16, 8, .ro, 0x0, 0, 1, 1, 0, 0, 1⟩
/-- PACE.TB_MIN_SEEN.VALUE (R63). -/
def PACE_TB_MIN_SEEN_VALUE : Fld := ⟨0x10C, 0, 16, .ro, 0xFFFF, 0, 1, 1, 0, 0, 1⟩
/-- PACE.TB_WARN.THRESH (R63). -/
def PACE_TB_WARN_THRESH : Fld := ⟨0x110, 0, 16, .rw, 0xFFFF, 0, 1, 1, 0, 0, 1⟩
/-- PACE.PACE_CTRL.CLEAR_SEEN (R63). -/
def PACE_PACE_CTRL_CLEAR_SEEN : Fld := ⟨0x114, 0, 1, .wo, 0x0, 0, 1, 1, 0, 0, 1⟩
/-- PACE.PACE_CTRL.WINDOW (R63). -/
def PACE_PACE_CTRL_WINDOW : Fld := ⟨0x114, 1, 3, .rw, 0x0, 0, 1, 1, 0, 0, 1⟩
/-- PACE.SLOWEST.CLUSTER (R63). -/
def PACE_SLOWEST_CLUSTER : Fld := ⟨0x118, 0, 8, .ro, 0x0, 0, 1, 1, 0, 0, 1⟩
/-- PACE.OVER_COUNT.COUNT (R63). -/
def PACE_OVER_COUNT_COUNT : Fld := ⟨0x11C, 0, 32, .ro, 0x0, 0, 1, 1, 0, 0, 1⟩
/-- PACE.CLUSTER_TB.VALUE (R63). -/
def PACE_CLUSTER_TB_VALUE : Fld := ⟨0x200, 0, 16, .ro, 0x0, 4, 160, 2, 16, 0x0, 1⟩
/-- HDR.PAGE_ID.LAYOUT (R77). -/
def HDR_PAGE_ID_LAYOUT : Fld := ⟨0x000, 0, 8, .ro, 0x1, 0, 1, 1, 0, 0, 1⟩
/-- HDR.PAGE_ID.INSTANCE (R77). -/
def HDR_PAGE_ID_INSTANCE : Fld := ⟨0x000, 8, 8, .ro, 0x0, 0, 1, 1, 0, 0, 1⟩
/-- HDR.PAGE_ID.TYPE (R77). -/
def HDR_PAGE_ID_TYPE : Fld := ⟨0x000, 16, 16, .ro, 0x0, 0, 1, 1, 0, 0, 1⟩
/-- HDR.PAGE_CAPS.AVAILABLE (R77). -/
def HDR_PAGE_CAPS_AVAILABLE : Fld := ⟨0x004, 0, 1, .ro, 0x0, 0, 1, 1, 0, 0, 1⟩
/-- HDR.PAGE_CAPS.CAPS (R77). -/
def HDR_PAGE_CAPS_CAPS : Fld := ⟨0x004, 1, 31, .ro, 0x0, 0, 1, 1, 0, 0, 1⟩
/-- HDR.PAGE_CTRL.ENABLE (R77). -/
def HDR_PAGE_CTRL_ENABLE : Fld := ⟨0x008, 0, 1, .rw, 0x0, 0, 1, 1, 0, 0, 1⟩
/-- HDR.PAGE_CTRL.EXPERT_EN (R77). -/
def HDR_PAGE_CTRL_EXPERT_EN : Fld := ⟨0x008, 1, 1, .rwl, 0x0, 0, 1, 1, 0, 0, 1⟩
/-- HDR.PAGE_CTRL.QUIESCE (R77). -/
def HDR_PAGE_CTRL_QUIESCE : Fld := ⟨0x008, 2, 1, .rw, 0x0, 0, 1, 1, 0, 0, 1⟩
/-- HDR.PAGE_STATUS.ENABLED (R77). -/
def HDR_PAGE_STATUS_ENABLED : Fld := ⟨0x00C, 0, 1, .ro, 0x0, 0, 1, 1, 0, 0, 1⟩
/-- HDR.PAGE_STATUS.QUIESCED (R77). -/
def HDR_PAGE_STATUS_QUIESCED : Fld := ⟨0x00C, 1, 1, .ro, 0x0, 0, 1, 1, 0, 0, 1⟩
/-- HDR.PAGE_STATUS.CUSTOM (R77). -/
def HDR_PAGE_STATUS_CUSTOM : Fld := ⟨0x00C, 2, 1, .ro, 0x0, 0, 1, 1, 0, 0, 1⟩
/-- HDR.PAGE_STATUS.LOCKED (R77). -/
def HDR_PAGE_STATUS_LOCKED : Fld := ⟨0x00C, 3, 1, .ro, 0x0, 0, 1, 1, 0, 0, 1⟩
/-- HDR.PAGE_STATUS.FAULTED (R77). -/
def HDR_PAGE_STATUS_FAULTED : Fld := ⟨0x00C, 4, 1, .ro, 0x0, 0, 1, 1, 0, 0, 1⟩
/-- HDR.PAGE_STATUS.SNAP_HELD (R77). -/
def HDR_PAGE_STATUS_SNAP_HELD : Fld := ⟨0x00C, 5, 1, .ro, 0x0, 0, 1, 1, 0, 0, 1⟩
/-- HDR.PAGE_STATUS.LOP_ACTIVE (R77). -/
def HDR_PAGE_STATUS_LOP_ACTIVE : Fld := ⟨0x00C, 6, 1, .ro, 0x0, 0, 1, 1, 0, 0, 1⟩
/-- HDR.PAGE_STATUS.IRQ_ACTIVE (R77). -/
def HDR_PAGE_STATUS_IRQ_ACTIVE : Fld := ⟨0x00C, 7, 1, .ro, 0x0, 0, 1, 1, 0, 0, 1⟩
/-- HDR.PAGE_STATUS.BLOCK (R77). -/
def HDR_PAGE_STATUS_BLOCK : Fld := ⟨0x00C, 16, 16, .ro, 0x0, 0, 1, 1, 0, 0, 1⟩
/-- HDR.IRQ_RAW.RAW (R77). -/
def HDR_IRQ_RAW_RAW : Fld := ⟨0x010, 0, 32, .ro, 0x0, 0, 1, 1, 0, 0, 1⟩
/-- HDR.IRQ_ENABLE.ENABLE (R77). -/
def HDR_IRQ_ENABLE_ENABLE : Fld := ⟨0x014, 0, 32, .rw, 0x0, 0, 1, 1, 0, 0, 1⟩
/-- HDR.IRQ_PENDING.PENDING (R77). -/
def HDR_IRQ_PENDING_PENDING : Fld := ⟨0x018, 0, 32, .w1c, 0x0, 0, 1, 1, 0, 0, 1⟩
/-- HDR.IRQ_FORCE.FORCE (R77). -/
def HDR_IRQ_FORCE_FORCE : Fld := ⟨0x01C, 0, 32, .wo, 0x0, 0, 1, 1, 0, 0, 1⟩
/-- HDR.SNAP_CTRL.ENABLE (R77). -/
def HDR_SNAP_CTRL_ENABLE : Fld := ⟨0x020, 0, 1, .rw, 0x1, 0, 1, 1, 0, 0, 1⟩
/-- HDR.SNAP_CTRL.HOLD_MODE (R77). -/
def HDR_SNAP_CTRL_HOLD_MODE : Fld := ⟨0x020, 1, 1, .rw, 0x0, 0, 1, 1, 0, 0, 1⟩
/-- HDR.SNAP_CTRL.HELD (R77). -/
def HDR_SNAP_CTRL_HELD : Fld := ⟨0x020, 2, 1, .ro, 0x0, 0, 1, 1, 0, 0, 1⟩
/-- HDR.SNAP_CTRL.RELEASE (R77). -/
def HDR_SNAP_CTRL_RELEASE : Fld := ⟨0x020, 3, 1, .wo, 0x0, 0, 1, 1, 0, 0, 1⟩
/-- HDR.SNAP_CTRL.MISSED (R77). -/
def HDR_SNAP_CTRL_MISSED : Fld := ⟨0x020, 16, 16, .ro, 0x0, 0, 1, 1, 0, 0, 1⟩
/-- HDR.SNAP_SEQ.SEQ (R77). -/
def HDR_SNAP_SEQ_SEQ : Fld := ⟨0x024, 0, 32, .ro, 0x0, 0, 1, 1, 0, 0, 1⟩
/-- HDR.SNAP_MET_LO.MET (R77). -/
def HDR_SNAP_MET_LO_MET : Fld := ⟨0x028, 0, 32, .ro, 0x0, 0, 1, 1, 0, 0, 1⟩
/-- HDR.SNAP_MET_HI.MET (R77). -/
def HDR_SNAP_MET_HI_MET : Fld := ⟨0x02C, 0, 32, .ro, 0x0, 0, 1, 1, 0, 0, 1⟩
/-- OWN.PAGE_OWNER.OWNER (R89). -/
def OWN_PAGE_OWNER_OWNER : Fld := ⟨0xF00, 0, 6, .mgmt, 0x3F, 0, 1, 1, 0, 0, 1⟩
/-- OWN.PAGE_OWNER.SHARED_READ (R89). -/
def OWN_PAGE_OWNER_SHARED_READ : Fld := ⟨0xF00, 8, 1, .mgmt, 0x0, 0, 1, 1, 0, 0, 1⟩
/-- OWN.PAGE_LOCK.LOCK (R89). -/
def OWN_PAGE_LOCK_LOCK : Fld := ⟨0xF04, 0, 1, .w1s, 0x0, 0, 1, 1, 0, 0, 1⟩
/-- OWN.PAGE_FAULT.CAUSE (R89). -/
def OWN_PAGE_FAULT_CAUSE : Fld := ⟨0xF08, 0, 4, .ro, 0x0, 0, 1, 1, 0, 0, 1⟩
/-- OWN.PAGE_FAULT.REQUESTER (R89). -/
def OWN_PAGE_FAULT_REQUESTER : Fld := ⟨0xF08, 4, 6, .ro, 0x0, 0, 1, 1, 0, 0, 1⟩
/-- OWN.PAGE_FAULT.WRITE (R89). -/
def OWN_PAGE_FAULT_WRITE : Fld := ⟨0xF08, 10, 1, .ro, 0x0, 0, 1, 1, 0, 0, 1⟩
/-- OWN.PAGE_FAULT.OFFSET (R89). -/
def OWN_PAGE_FAULT_OFFSET : Fld := ⟨0xF08, 12, 12, .ro, 0x0, 0, 1, 1, 0, 0, 1⟩
/-- OWN.PAGE_FAULT.COUNT (R89). -/
def OWN_PAGE_FAULT_COUNT : Fld := ⟨0xF08, 24, 8, .ro, 0x0, 0, 1, 1, 0, 0, 1⟩
/-- OWN.PAGE_FAULT_CLR.CLEAR (R89). -/
def OWN_PAGE_FAULT_CLR_CLEAR : Fld := ⟨0xF0C, 0, 1, .wo, 0x0, 0, 1, 1, 0, 0, 1⟩
/-- OWN.FAULT_MET_LO.MET (R89). -/
def OWN_FAULT_MET_LO_MET : Fld := ⟨0xF10, 0, 32, .ro, 0x0, 0, 1, 1, 0, 0, 1⟩
/-- OWN.FAULT_MET_HI.MET (R89). -/
def OWN_FAULT_MET_HI_MET : Fld := ⟨0xF14, 0, 32, .ro, 0x0, 0, 1, 1, 0, 0, 1⟩
/-- LOP.LOP_CMD.CMD (R94). -/
def LOP_LOP_CMD_CMD : Fld := ⟨0x040, 0, 4, .wo, 0x0, 0, 1, 1, 0, 0, 1⟩
/-- LOP.LOP_CMD.OP (R94). -/
def LOP_LOP_CMD_OP : Fld := ⟨0x040, 8, 8, .wo, 0x0, 0, 1, 1, 0, 0, 1⟩
/-- LOP.LOP_ARG.ARG (R94). -/
def LOP_LOP_ARG_ARG : Fld := ⟨0x044, 0, 32, .rw, 0x0, 4, 4, 1, 0, 0x0, 1⟩
/-- LOP.LOP_STATE.STATE (R94). -/
def LOP_LOP_STATE_STATE : Fld := ⟨0x054, 0, 3, .ro, 0x0, 0, 1, 1, 0, 0, 1⟩
/-- LOP.LOP_STATE.OP (R94). -/
def LOP_LOP_STATE_OP : Fld := ⟨0x054, 8, 8, .ro, 0x0, 0, 1, 1, 0, 0, 1⟩
/-- LOP.LOP_STATE.SEQ (R94). -/
def LOP_LOP_STATE_SEQ : Fld := ⟨0x054, 16, 16, .ro, 0x0, 0, 1, 1, 0, 0, 1⟩
/-- LOP.LOP_PROGRESS.DONE (R94). -/
def LOP_LOP_PROGRESS_DONE : Fld := ⟨0x058, 0, 32, .ro, 0x0, 0, 1, 1, 0, 0, 1⟩
/-- LOP.LOP_RESULT.CODE (R94). -/
def LOP_LOP_RESULT_CODE : Fld := ⟨0x05C, 0, 8, .ro, 0x0, 0, 1, 1, 0, 0, 1⟩
/-- LOP.LOP_RESULT.DETAIL (R94). -/
def LOP_LOP_RESULT_DETAIL : Fld := ⟨0x05C, 8, 24, .ro, 0x0, 0, 1, 1, 0, 0, 1⟩
/-- CHIP.ID.ID (R135). -/
def CHIP_ID_ID : Fld := ⟨0x100, 0, 32, .ro, 0x504E0004, 0, 1, 1, 0, 0, 1⟩
/-- CHIP.STEP.STEP (R135). -/
def CHIP_STEP_STEP : Fld := ⟨0x104, 0, 8, .ro, 0xA1, 0, 1, 1, 0, 0, 1⟩
/-- CHIP.SERIAL_LO.SERIAL (R135). -/
def CHIP_SERIAL_LO_SERIAL : Fld := ⟨0x108, 0, 32, .ro, 0x0, 0, 1, 1, 0, 0, 1⟩
/-- CHIP.SERIAL_HI.SERIAL (R135). -/
def CHIP_SERIAL_HI_SERIAL : Fld := ⟨0x10C, 0, 32, .ro, 0x0, 0, 1, 1, 0, 0, 1⟩
/-- CHIP.LOC.VALUE (R135). -/
def CHIP_LOC_VALUE : Fld := ⟨0x110, 0, 13, .ro, 0x0, 0, 1, 1, 0, 0, 1⟩
/-- CHIP.CHIP_NUM.NUM (R135). -/
def CHIP_CHIP_NUM_NUM : Fld := ⟨0x114, 0, 13, .ro, 0x0, 0, 1, 1, 0, 0, 1⟩
/-- CHIP.CHIP_NUM.VALID (R135). -/
def CHIP_CHIP_NUM_VALID : Fld := ⟨0x114, 13, 1, .ro, 0x0, 0, 1, 1, 0, 0, 1⟩
/-- CHIP.CHIP_NUM.SOURCE (R135). -/
def CHIP_CHIP_NUM_SOURCE : Fld := ⟨0x114, 14, 2, .ro, 0x0, 0, 1, 1, 0, 0, 1⟩
/-- CHIP.BOOT_STATUS.STAGE (R135). -/
def CHIP_BOOT_STATUS_STAGE : Fld := ⟨0x118, 0, 8, .ro, 0x0, 0, 1, 1, 0, 0, 1⟩
/-- CHIP.BOOT_STATUS.CODE (R135). -/
def CHIP_BOOT_STATUS_CODE : Fld := ⟨0x118, 8, 8, .ro, 0x0, 0, 1, 1, 0, 0, 1⟩
/-- CHIP.BOOT_STATUS.KIND (R135). -/
def CHIP_BOOT_STATUS_KIND : Fld := ⟨0x118, 16, 1, .ro, 0x0, 0, 1, 1, 0, 0, 1⟩
/-- CHIP.BOOT_STATUS.PATH (R135). -/
def CHIP_BOOT_STATUS_PATH : Fld := ⟨0x118, 17, 1, .ro, 0x0, 0, 1, 1, 0, 0, 1⟩
/-- CHIP.BOOT_STATUS.DONE (R135). -/
def CHIP_BOOT_STATUS_DONE : Fld := ⟨0x118, 18, 1, .ro, 0x0, 0, 1, 1, 0, 0, 1⟩
/-- CHIP.BOOT_STATUS.HALTED (R135). -/
def CHIP_BOOT_STATUS_HALTED : Fld := ⟨0x118, 19, 1, .ro, 0x0, 0, 1, 1, 0, 0, 1⟩
/-- CHIP.BOOT_STATUS.TASKS (R135). -/
def CHIP_BOOT_STATUS_TASKS : Fld := ⟨0x118, 20, 7, .ro, 0x0, 0, 1, 1, 0, 0, 1⟩
/-- CHIP.BOOT_MS.MS (R135). -/
def CHIP_BOOT_MS_MS : Fld := ⟨0x11C, 0, 32, .ro, 0x0, 0, 1, 1, 0, 0, 1⟩
/-- CHIP.RESET_CAUSE.SOURCE (R135). -/
def CHIP_RESET_CAUSE_SOURCE : Fld := ⟨0x120, 0, 4, .ros, 0x0, 0, 1, 1, 0, 0, 1⟩
/-- CHIP.RESET_CAUSE.KIND (R135). -/
def CHIP_RESET_CAUSE_KIND : Fld := ⟨0x120, 4, 1, .ros, 0x0, 0, 1, 1, 0, 0, 1⟩
/-- CHIP.RESET_CAUSE.ALSO (R135). -/
def CHIP_RESET_CAUSE_ALSO : Fld := ⟨0x120, 16, 9, .ros, 0x0, 0, 1, 1, 0, 0, 1⟩
/-- CHIP.RESET_EVENT.CODE (R135). -/
def CHIP_RESET_EVENT_CODE : Fld := ⟨0x124, 0, 16, .ros, 0x0, 0, 1, 1, 0, 0, 1⟩
/-- CHIP.RESET_COUNT.WARM (R135). -/
def CHIP_RESET_COUNT_WARM : Fld := ⟨0x128, 0, 16, .ros, 0x0, 0, 1, 1, 0, 0, 1⟩
/-- CHIP.RESET_COUNT.FAST (R135). -/
def CHIP_RESET_COUNT_FAST : Fld := ⟨0x128, 16, 16, .ros, 0x0, 0, 1, 1, 0, 0, 1⟩
/-- CHIP.RESET_CFG.FAST_EN (R135). -/
def CHIP_RESET_CFG_FAST_EN : Fld := ⟨0x12C, 0, 1, .rwl, 0x1, 0, 1, 1, 0, 0, 1⟩
/-- CHIP.RESET_CFG.PERST_ACTION (R135). -/
def CHIP_RESET_CFG_PERST_ACTION : Fld := ⟨0x12C, 1, 1, .rwl, 0x0, 0, 1, 1, 0, 0, 1⟩
/-- CHIP.RESET_CFG.REMOTE_EN (R135). -/
def CHIP_RESET_CFG_REMOTE_EN : Fld := ⟨0x12C, 2, 1, .rwl, 0x0, 0, 1, 1, 0, 0, 1⟩
/-- CHIP.RESET_CFG.FAST_MAX (R135). -/
def CHIP_RESET_CFG_FAST_MAX : Fld := ⟨0x12C, 8, 8, .rwl, 0x10, 0, 1, 1, 0, 0, 1⟩
/-- CHIP.RESET_CFG.TOPO_WAIT (R135). -/
def CHIP_RESET_CFG_TOPO_WAIT : Fld := ⟨0x12C, 16, 16, .rwl, 0x190, 0, 1, 1, 0, 0, 1⟩
/-- CHIP.RESET_CMD.KEY (R135). -/
def CHIP_RESET_CMD_KEY : Fld := ⟨0x130, 0, 16, .wo, 0x0, 0, 1, 1, 0, 0, 1⟩
/-- CHIP.RESET_CMD.ACTION (R135). -/
def CHIP_RESET_CMD_ACTION : Fld := ⟨0x130, 16, 2, .wo, 0x0, 0, 1, 1, 0, 0, 1⟩
/-- CHIP.WDOG_CTRL.PERIOD (R135). -/
def CHIP_WDOG_CTRL_PERIOD : Fld := ⟨0x134, 0, 16, .rwl, 0x3A98, 0, 1, 1, 0, 0, 1⟩
/-- CHIP.WDOG_KICK.KICK (R135). -/
def CHIP_WDOG_KICK_KICK : Fld := ⟨0x138, 0, 32, .wo, 0x0, 0, 1, 1, 0, 0, 1⟩
/-- CHIP.FP_TILES.GOOD (R135). -/
def CHIP_FP_TILES_GOOD : Fld := ⟨0x140, 0, 12, .ro, 0x0, 0, 1, 1, 0, 0, 1⟩
/-- CHIP.FP_TILES.BAD_FUSE (R135). -/
def CHIP_FP_TILES_BAD_FUSE : Fld := ⟨0x140, 12, 12, .ro, 0x0, 0, 1, 1, 0, 0, 1⟩
/-- CHIP.FP_BAD.BIST (R135). -/
def CHIP_FP_BAD_BIST : Fld := ⟨0x144, 0, 12, .ro, 0x0, 0, 1, 1, 0, 0, 1⟩
/-- CHIP.FP_BAD.SEQ (R135). -/
def CHIP_FP_BAD_SEQ : Fld := ⟨0x144, 12, 12, .ro, 0x0, 0, 1, 1, 0, 0, 1⟩
/-- CHIP.FP_RUN.RUN (R135). -/
def CHIP_FP_RUN_RUN : Fld := ⟨0x148, 0, 12, .ro, 0x0, 0, 1, 1, 0, 0, 1⟩
/-- CHIP.FP_RUN.CLUSTER_MAX (R135). -/
def CHIP_FP_RUN_CLUSTER_MAX : Fld := ⟨0x148, 12, 4, .ro, 0x0, 0, 1, 1, 0, 0, 1⟩
/-- CHIP.FP_RUN.CLUSTER_IDX (R135). -/
def CHIP_FP_RUN_CLUSTER_IDX : Fld := ⟨0x148, 16, 8, .ro, 0x0, 0, 1, 1, 0, 0, 1⟩
/-- CHIP.FP_INFO.SEQ (R135). -/
def CHIP_FP_INFO_SEQ : Fld := ⟨0x14C, 0, 16, .ro, 0x0, 0, 1, 1, 0, 0, 1⟩
/-- CHIP.FP_INFO.CARRIED (R135). -/
def CHIP_FP_INFO_CARRIED : Fld := ⟨0x14C, 16, 1, .ro, 0x0, 0, 1, 1, 0, 0, 1⟩
/-- CHIP.FP_MET_LO.MET (R135). -/
def CHIP_FP_MET_LO_MET : Fld := ⟨0x150, 0, 32, .ro, 0x0, 0, 1, 1, 0, 0, 1⟩
/-- CHIP.FP_MET_HI.MET (R135). -/
def CHIP_FP_MET_HI_MET : Fld := ⟨0x154, 0, 32, .ro, 0x0, 0, 1, 1, 0, 0, 1⟩
/-- CHIP.FP_CRC.CRC (R135). -/
def CHIP_FP_CRC_CRC : Fld := ⟨0x158, 0, 32, .ro, 0x0, 0, 1, 1, 0, 0, 1⟩
/-- CHIP.HBM_REPAIR.REPAIRED (R135). -/
def CHIP_HBM_REPAIR_REPAIRED : Fld := ⟨0x160, 0, 8, .ro, 0x0, 4, 8, 1, 0, 0x0, 1⟩
/-- CHIP.HBM_REPAIR.SPARES_LEFT (R135). -/
def CHIP_HBM_REPAIR_SPARES_LEFT : Fld := ⟨0x160, 8, 8, .ro, 0x0, 4, 8, 1, 0, 0x0, 1⟩
/-- CHIP.LANE_BAD.LANES (R135). -/
def CHIP_LANE_BAD_LANES : Fld := ⟨0x180, 0, 32, .ro, 0x0, 4, 6, 1, 0, 0x0, 1⟩
/-- CHIP.TOPO_STATUS.OUTCOME (R135). -/
def CHIP_TOPO_STATUS_OUTCOME : Fld := ⟨0x1A0, 0, 3, .ro, 0x0, 0, 1, 1, 0, 0, 1⟩
/-- CHIP.TOPO_STATUS.MATCHED (R135). -/
def CHIP_TOPO_STATUS_MATCHED : Fld := ⟨0x1A0, 8, 5, .ro, 0x0, 0, 1, 1, 0, 0, 1⟩
/-- CHIP.TOPO_STATUS.FAULTY (R135). -/
def CHIP_TOPO_STATUS_FAULTY : Fld := ⟨0x1A0, 16, 5, .ro, 0x0, 0, 1, 1, 0, 0, 1⟩
/-- CHIP.PLAN_ID.ID (R135). -/
def CHIP_PLAN_ID_ID : Fld := ⟨0x1A4, 0, 32, .ro, 0x0, 0, 1, 1, 0, 0, 1⟩
/-- CHIP.TOPO_PORT.OUTCOME (R135). -/
def CHIP_TOPO_PORT_OUTCOME : Fld := ⟨0x1C0, 0, 3, .ro, 0x0, 4, 24, 1, 0, 0x0, 1⟩
/-- CHIP.TOPO_PORT.PARTNER_CHIP (R135). -/
def CHIP_TOPO_PORT_PARTNER_CHIP : Fld := ⟨0x1C0, 3, 13, .ro, 0x0, 4, 24, 1, 0, 0x0, 1⟩
/-- CHIP.TOPO_PORT.PARTNER_PORT (R135). -/
def CHIP_TOPO_PORT_PARTNER_PORT : Fld := ⟨0x1C0, 16, 5, .ro, 0x0, 4, 24, 1, 0, 0x0, 1⟩
/-- CHIP.TOPO_PORT.PLANNED (R135). -/
def CHIP_TOPO_PORT_PLANNED : Fld := ⟨0x1C0, 21, 1, .ro, 0x0, 4, 24, 1, 0, 0x0, 1⟩
/-- CHIP.SEQ_VER.VER (R135). -/
def CHIP_SEQ_VER_VER : Fld := ⟨0x220, 0, 32, .ro, 0x0, 0, 1, 1, 0, 0, 1⟩
/-- CHIP.SEQ_CRC.CRC (R135). -/
def CHIP_SEQ_CRC_CRC : Fld := ⟨0x224, 0, 32, .ro, 0x0, 0, 1, 1, 0, 0, 1⟩
/-- CHIP.SEQ_ACK.ACKED (R135). -/
def CHIP_SEQ_ACK_ACKED : Fld := ⟨0x228, 0, 12, .ro, 0x0, 0, 1, 1, 0, 0, 1⟩
/-- CHIP.SEQ_ACK.RESENT (R135). -/
def CHIP_SEQ_ACK_RESENT : Fld := ⟨0x228, 12, 12, .ro, 0x0, 0, 1, 1, 0, 0, 1⟩
/-- CHIP.SEQ_ACK.STRAY (R135). -/
def CHIP_SEQ_ACK_STRAY : Fld := ⟨0x228, 24, 8, .ro, 0x0, 0, 1, 1, 0, 0, 1⟩
/-- CHIP.TILE_MAP.GOOD (R135). -/
def CHIP_TILE_MAP_GOOD : Fld := ⟨0x240, 0, 32, .ro, 0x0, 4, 80, 1, 0, 0x0, 1⟩
/-- MGC.FW_STATUS.STATE (R140). -/
def MGC_FW_STATUS_STATE : Fld := ⟨0x100, 0, 2, .ro, 0x0, 0, 1, 1, 0, 0, 1⟩
/-- MGC.FW_STATUS.WDOG_ARMED (R140). -/
def MGC_FW_STATUS_WDOG_ARMED : Fld := ⟨0x100, 8, 1, .ro, 0x0, 0, 1, 1, 0, 0, 1⟩
/-- MGC.FW_VERSION.VERSION (R140). -/
def MGC_FW_VERSION_VERSION : Fld := ⟨0x104, 0, 32, .ro, 0x0, 0, 1, 1, 0, 0, 1⟩
/-- MGC.UPTIME_LO.MS (R140). -/
def MGC_UPTIME_LO_MS : Fld := ⟨0x108, 0, 32, .ro, 0x0, 0, 1, 1, 0, 0, 1⟩
/-- MGC.UPTIME_HI.MS (R140). -/
def MGC_UPTIME_HI_MS : Fld := ⟨0x10C, 0, 32, .ro, 0x0, 0, 1, 1, 0, 0, 1⟩
/-- MGC.ETH_STATUS.LINK (R140). -/
def MGC_ETH_STATUS_LINK : Fld := ⟨0x110, 0, 1, .ro, 0x0, 0, 1, 1, 0, 0, 1⟩
/-- MGC.ETH_STATUS.AN_DONE (R140). -/
def MGC_ETH_STATUS_AN_DONE : Fld := ⟨0x110, 1, 1, .ro, 0x0, 0, 1, 1, 0, 0, 1⟩
/-- MGC.ETH_MAC_LO.MAC (R140). -/
def MGC_ETH_MAC_LO_MAC : Fld := ⟨0x114, 0, 32, .ro, 0x0, 0, 1, 1, 0, 0, 1⟩
/-- MGC.ETH_MAC_HI.MAC (R140). -/
def MGC_ETH_MAC_HI_MAC : Fld := ⟨0x118, 0, 16, .ro, 0x0, 0, 1, 1, 0, 0, 1⟩
/-- MGC.ETH_COUNTS.RX_ERR (R140). -/
def MGC_ETH_COUNTS_RX_ERR : Fld := ⟨0x11C, 0, 16, .ro, 0x0, 0, 1, 1, 0, 0, 1⟩
/-- MGC.ETH_COUNTS.TX_ERR (R140). -/
def MGC_ETH_COUNTS_TX_ERR : Fld := ⟨0x11C, 16, 16, .ro, 0x0, 0, 1, 1, 0, 0, 1⟩
/-- MGC.ETH_DROPS.RX_DROPS (R140). -/
def MGC_ETH_DROPS_RX_DROPS : Fld := ⟨0x120, 0, 16, .ro, 0x0, 0, 1, 1, 0, 0, 1⟩
/-- MGC.CNT_CLR.CLEAR (R140). -/
def MGC_CNT_CLR_CLEAR : Fld := ⟨0x124, 0, 1, .wo, 0x0, 0, 1, 1, 0, 0, 1⟩
/-- PWR.CTRL.TARGET (R198). -/
def PWR_CTRL_TARGET : Fld := ⟨0x100, 0, 3, .rw, 0x1, 0, 1, 1, 0, 0, 1⟩
/-- PWR.CTRL.OPP (R198). -/
def PWR_CTRL_OPP : Fld := ⟨0x100, 3, 2, .rw, 0x0, 0, 1, 1, 0, 0, 1⟩
/-- PWR.CTRL.TACET_HBM (R198). -/
def PWR_CTRL_TACET_HBM : Fld := ⟨0x100, 5, 1, .rw, 0x0, 0, 1, 1, 0, 0, 1⟩
/-- PWR.STATUS.STATE (R198). -/
def PWR_STATUS_STATE : Fld := ⟨0x104, 0, 3, .ro, 0x1, 0, 1, 1, 0, 0, 1⟩
/-- PWR.STATUS.MOVING (R198). -/
def PWR_STATUS_MOVING : Fld := ⟨0x104, 3, 1, .ro, 0x0, 0, 1, 1, 0, 0, 1⟩
/-- PWR.STATUS.FLOOR (R198). -/
def PWR_STATUS_FLOOR : Fld := ⟨0x104, 4, 3, .ro, 0x4, 0, 1, 1, 0, 0, 1⟩
/-- PWR.STATUS.TILES_READY (R198). -/
def PWR_STATUS_TILES_READY : Fld := ⟨0x104, 7, 1, .ro, 0x0, 0, 1, 1, 0, 0, 1⟩
/-- PWR.STATUS.LINKS_LOCKED (R198). -/
def PWR_STATUS_LINKS_LOCKED : Fld := ⟨0x104, 8, 1, .ro, 0x0, 0, 1, 1, 0, 0, 1⟩
/-- PWR.STATUS.HBM_READY (R198). -/
def PWR_STATUS_HBM_READY : Fld := ⟨0x104, 9, 1, .ro, 0x0, 0, 1, 1, 0, 0, 1⟩
/-- PWR.STATUS.OPP_NOW (R198). -/
def PWR_STATUS_OPP_NOW : Fld := ⟨0x104, 10, 2, .ro, 0x0, 0, 1, 1, 0, 0, 1⟩
/-- PWR.STATUS.OPP_MOVING (R198). -/
def PWR_STATUS_OPP_MOVING : Fld := ⟨0x104, 12, 1, .ro, 0x0, 0, 1, 1, 0, 0, 1⟩
/-- PWR.STATUS.OPP_FAIL (R198). -/
def PWR_STATUS_OPP_FAIL : Fld := ⟨0x104, 13, 1, .ro, 0x0, 0, 1, 1, 0, 0, 1⟩
/-- PWR.STATUS.STALLED (R198). -/
def PWR_STATUS_STALLED : Fld := ⟨0x104, 14, 1, .ro, 0x0, 0, 1, 1, 0, 0, 1⟩
/-- PWR.STATUS.REFUSAL (R198). -/
def PWR_STATUS_REFUSAL : Fld := ⟨0x104, 16, 3, .ro, 0x0, 0, 1, 1, 0, 0, 1⟩
/-- PWR.HOLDS.HOLDS (R198). -/
def PWR_HOLDS_HOLDS : Fld := ⟨0x108, 0, 32, .ro, 0x0, 0, 1, 1, 0, 0, 1⟩
/-- PWR.SW_HOLD.LEVEL (R198). -/
def PWR_SW_HOLD_LEVEL : Fld := ⟨0x10C, 0, 3, .rw, 0x4, 0, 1, 1, 0, 0, 1⟩
/-- PWR.WAKE_EN.EN (R198). -/
def PWR_WAKE_EN_EN : Fld := ⟨0x110, 0, 4, .rw, 0x7, 0, 1, 1, 0, 0, 1⟩
/-- PWR.WAKE_CAUSE.CAUSE (R198). -/
def PWR_WAKE_CAUSE_CAUSE : Fld := ⟨0x114, 0, 10, .ro, 0x0, 0, 1, 1, 0, 0, 1⟩
/-- PWR.WAKE_MET_LO.MET (R198). -/
def PWR_WAKE_MET_LO_MET : Fld := ⟨0x118, 0, 32, .rw, 0x0, 0, 1, 1, 0, 0, 1⟩
/-- PWR.WAKE_MET_HI.MET (R198). -/
def PWR_WAKE_MET_HI_MET : Fld := ⟨0x11C, 0, 32, .rw, 0x0, 0, 1, 1, 0, 0, 1⟩
/-- PWR.REST.REQ (R198). -/
def PWR_REST_REQ : Fld := ⟨0x120, 0, 1, .rw, 0x0, 0, 1, 1, 0, 0, 1⟩
/-- PWR.REST.PENDING (R198). -/
def PWR_REST_PENDING : Fld := ⟨0x120, 1, 1, .ro, 0x0, 0, 1, 1, 0, 0, 1⟩
/-- PWR.REST.ACKED (R198). -/
def PWR_REST_ACKED : Fld := ⟨0x120, 2, 1, .ro, 0x0, 0, 1, 1, 0, 0, 1⟩
/-- PWR.REST.FAILED (R198). -/
def PWR_REST_FAILED : Fld := ⟨0x120, 3, 1, .ro, 0x0, 0, 1, 1, 0, 0, 1⟩
/-- PWR.REST.TRANSIT (R198). -/
def PWR_REST_TRANSIT : Fld := ⟨0x120, 4, 1, .conductor, 0x0, 0, 1, 1, 0, 0, 1⟩
/-- PWR.LIMITS.DRAIN_MS (R198). -/
def PWR_LIMITS_DRAIN_MS : Fld := ⟨0x124, 0, 16, .rw, 0xA, 0, 1, 1, 0, 0, 1⟩
/-- PWR.LIMITS.REST_MS (R198). -/
def PWR_LIMITS_REST_MS : Fld := ⟨0x124, 16, 16, .rw, 0xC8, 0, 1, 1, 0, 0, 1⟩
/-- PWR.REDESCEND.US (R198). -/
def PWR_REDESCEND_US : Fld := ⟨0x128, 0, 24, .rw, 0x0, 0, 1, 1, 0, 0, 1⟩
/-- PWR.LAST_MOVE.FROM (R198). -/
def PWR_LAST_MOVE_FROM : Fld := ⟨0x12C, 0, 3, .ro, 0x0, 0, 1, 1, 0, 0, 1⟩
/-- PWR.LAST_MOVE.TO (R198). -/
def PWR_LAST_MOVE_TO : Fld := ⟨0x12C, 3, 3, .ro, 0x0, 0, 1, 1, 0, 0, 1⟩
/-- PWR.LAST_MOVE.ABORTED (R198). -/
def PWR_LAST_MOVE_ABORTED : Fld := ⟨0x12C, 6, 1, .ro, 0x0, 0, 1, 1, 0, 0, 1⟩
/-- PWR.LAST_MOVE.TIME (R198). -/
def PWR_LAST_MOVE_TIME : Fld := ⟨0x12C, 8, 24, .ro, 0x0, 0, 1, 1, 0, 0, 1⟩
/-- PWR.COUNTS.ENTRIES (R198). -/
def PWR_COUNTS_ENTRIES : Fld := ⟨0x130, 0, 16, .ro, 0x0, 0, 1, 1, 0, 0, 1⟩
/-- PWR.COUNTS.REFUSALS (R198). -/
def PWR_COUNTS_REFUSALS : Fld := ⟨0x130, 16, 16, .ro, 0x0, 0, 1, 1, 0, 0, 1⟩
/-- PWR.WAKES.COUNT (R198). -/
def PWR_WAKES_COUNT : Fld := ⟨0x134, 0, 32, .ro, 0x0, 0, 1, 1, 0, 0, 1⟩
/-- PWR.OPP_MV.MV (R199). -/
def PWR_OPP_MV_MV : Fld := ⟨0x400, 0, 12, .rw, 0x0, 4, 4, 1, 0, 0x0, 1⟩
/-- PWR.AVS.RAIL (R199). -/
def PWR_AVS_RAIL : Fld := ⟨0x410, 0, 4, .rw, 0x0, 0, 1, 1, 0, 0, 1⟩
/-- PWR.AVS.SETTLE_MS (R199). -/
def PWR_AVS_SETTLE_MS : Fld := ⟨0x410, 8, 8, .rw, 0x32, 0, 1, 1, 0, 0, 1⟩
/-- PWR.AVS.POLL_MS (R199). -/
def PWR_AVS_POLL_MS : Fld := ⟨0x410, 16, 8, .rw, 0x1, 0, 1, 1, 0, 0, 1⟩
/-- PWR.HBM_SR.PIANO_SR (R199). -/
def PWR_HBM_SR_PIANO_SR : Fld := ⟨0x414, 0, 2, .rw, 0x0, 0, 1, 1, 0, 0, 1⟩
/-- PWR.HBM_SR.PIANISSIMO_SR (R199). -/
def PWR_HBM_SR_PIANISSIMO_SR : Fld := ⟨0x414, 2, 2, .rw, 0x1, 0, 1, 1, 0, 0, 1⟩
/-- PWR.HBM_SR.TACET_SR (R199). -/
def PWR_HBM_SR_TACET_SR : Fld := ⟨0x414, 4, 2, .rw, 0x1, 0, 1, 1, 0, 0, 1⟩
/-- PWR.LINK_SLEEP.HB_NS (R199). -/
def PWR_LINK_SLEEP_HB_NS : Fld := ⟨0x418, 0, 10, .rw, 0xFA, 0, 1, 1, 0, 0, 1⟩
/-- PVT.TJ.MAX (R201). -/
def PVT_TJ_MAX : Fld := ⟨0x100, 0, 16, .ro, 0x0, 0, 1, 1, 0, 0, 1⟩
/-- PVT.TJ.SENSOR (R201). -/
def PVT_TJ_SENSOR : Fld := ⟨0x100, 16, 6, .ro, 0x0, 0, 1, 1, 0, 0, 1⟩
/-- PVT.WARN.THRESH (R201). -/
def PVT_WARN_THRESH : Fld := ⟨0x104, 0, 16, .rw, 0x320, 0, 1, 1, 0, 0, 1⟩
/-- PVT.WARN.HYST (R201). -/
def PVT_WARN_HYST : Fld := ⟨0x104, 16, 8, .rw, 0x5, 0, 1, 1, 0, 0, 1⟩
/-- PVT.TRIP.THRESH (R201). -/
def PVT_TRIP_THRESH : Fld := ⟨0x108, 0, 16, .ro, 0x370, 0, 1, 1, 0, 0, 1⟩
/-- PVT.CORE.MV (R201). -/
def PVT_CORE_MV : Fld := ⟨0x10C, 0, 16, .ro, 0x0, 0, 1, 1, 0, 0, 1⟩
/-- PVT.CORE.CURRENT (R201). -/
def PVT_CORE_CURRENT : Fld := ⟨0x10C, 16, 16, .ro, 0x0, 0, 1, 1, 0, 0, 1⟩
/-- PVT.CORE_W.POWER (R201). -/
def PVT_CORE_W_POWER : Fld := ⟨0x110, 0, 16, .ro, 0x0, 0, 1, 1, 0, 0, 1⟩
/-- PVT.SENSOR_OK.OK (R201). -/
def PVT_SENSOR_OK_OK : Fld := ⟨0x114, 0, 32, .ro, 0xFFFFFFFF, 0, 1, 1, 0, 0, 1⟩
/-- PVT.SENSOR_OK_HI.OK (R201). -/
def PVT_SENSOR_OK_HI_OK : Fld := ⟨0x118, 0, 16, .ro, 0xFFFF, 0, 1, 1, 0, 0, 1⟩
/-- PVT.PVT_CTRL.CLEAR_SEEN (R201). -/
def PVT_PVT_CTRL_CLEAR_SEEN : Fld := ⟨0x11C, 0, 1, .wo, 0x0, 0, 1, 1, 0, 0, 1⟩
/-- PVT.MAX_SEEN.VALUE (R201). -/
def PVT_MAX_SEEN_VALUE : Fld := ⟨0x120, 0, 16, .ro, 0x0, 0, 1, 1, 0, 0, 1⟩
/-- PVT.MAX_SEEN.SENSOR (R201). -/
def PVT_MAX_SEEN_SENSOR : Fld := ⟨0x120, 16, 6, .ro, 0x0, 0, 1, 1, 0, 0, 1⟩
/-- PVT.HBM_WARN.THRESH (R201). -/
def PVT_HBM_WARN_THRESH : Fld := ⟨0x124, 0, 16, .rw, 0x2A8, 0, 1, 1, 0, 0, 1⟩
/-- PVT.TEMP.VALUE (R201). -/
def PVT_TEMP_VALUE : Fld := ⟨0x200, 0, 16, .ro, 0x0, 4, 48, 2, 16, 0x0, 1⟩
/-- PVT.HBM_TEMP.VALUE (R201). -/
def PVT_HBM_TEMP_VALUE : Fld := ⟨0x280, 0, 16, .ro, 0x0, 4, 8, 2, 16, 0x0, 1⟩
/-- TILE.SEQ_CTRL.GO (R228). -/
def TILE_SEQ_CTRL_GO : Fld := ⟨0x100, 0, 1, .wo, 0x0, 0, 1, 1, 0, 0, 1⟩
/-- TILE.SEQ_CTRL.ABORT (R228). -/
def TILE_SEQ_CTRL_ABORT : Fld := ⟨0x100, 1, 1, .wo, 0x0, 0, 1, 1, 0, 0, 1⟩
/-- TILE.SEQ_CTRL.START (R228). -/
def TILE_SEQ_CTRL_START : Fld := ⟨0x100, 5, 13, .wo, 0x0, 0, 1, 1, 0, 0, 1⟩
/-- TILE.SEQ_STATUS.STATE (R228). -/
def TILE_SEQ_STATUS_STATE : Fld := ⟨0x104, 0, 3, .ro, 0x0, 0, 1, 1, 0, 0, 1⟩
/-- TILE.SEQ_STATUS.BLOCK (R228). -/
def TILE_SEQ_STATUS_BLOCK : Fld := ⟨0x104, 3, 2, .ro, 0x0, 0, 1, 1, 0, 0, 1⟩
/-- TILE.SEQ_STATUS.CP (R228). -/
def TILE_SEQ_STATUS_CP : Fld := ⟨0x104, 5, 13, .ro, 0x0, 0, 1, 1, 0, 0, 1⟩
/-- TILE.SEQ_STATUS.IGNORED (R228). -/
def TILE_SEQ_STATUS_IGNORED : Fld := ⟨0x104, 24, 8, .ro, 0x0, 0, 1, 1, 0, 0, 1⟩
/-- TILE.SEQ_CFG.DEFAULT_TC (R228). -/
def TILE_SEQ_CFG_DEFAULT_TC : Fld := ⟨0x108, 0, 3, .rw, 0x0, 0, 1, 1, 0, 0, 1⟩
/-- TILE.SEQ_CFG.PROFILE (R228). -/
def TILE_SEQ_CFG_PROFILE : Fld := ⟨0x108, 4, 1, .rw, 0x0, 0, 1, 1, 0, 0, 1⟩
/-- TILE.WAIT_LIMIT.US (R228). -/
def TILE_WAIT_LIMIT_US : Fld := ⟨0x10C, 0, 24, .rw, 0x0, 0, 1, 1, 0, 0, 1⟩
/-- TILE.EXC.CODE (R228). -/
def TILE_EXC_CODE : Fld := ⟨0x110, 0, 8, .ro, 0x0, 0, 1, 1, 0, 0, 1⟩
/-- TILE.EXC.ENGINE (R228). -/
def TILE_EXC_ENGINE : Fld := ⟨0x110, 8, 3, .ro, 0x0, 0, 1, 1, 0, 0, 1⟩
/-- TILE.EXC.MORE (R228). -/
def TILE_EXC_MORE : Fld := ⟨0x110, 16, 8, .ro, 0x0, 0, 1, 1, 0, 0, 1⟩
/-- TILE.EXC_CP.CP (R228). -/
def TILE_EXC_CP_CP : Fld := ⟨0x114, 5, 13, .ro, 0x0, 0, 1, 1, 0, 0, 1⟩
/-- TILE.EXC_DETAIL.DETAIL (R228). -/
def TILE_EXC_DETAIL_DETAIL : Fld := ⟨0x118, 0, 32, .ro, 0x0, 0, 1, 1, 0, 0, 1⟩
/-- TILE.EXC_MET_LO.MET (R228). -/
def TILE_EXC_MET_LO_MET : Fld := ⟨0x11C, 0, 32, .ro, 0x0, 0, 1, 1, 0, 0, 1⟩
/-- TILE.EXC_MET_HI.MET (R228). -/
def TILE_EXC_MET_HI_MET : Fld := ⟨0x120, 0, 32, .ro, 0x0, 0, 1, 1, 0, 0, 1⟩
/-- TILE.ARITH_FLAGS.INVALID (R228). -/
def TILE_ARITH_FLAGS_INVALID : Fld := ⟨0x124, 0, 1, .w1c, 0x0, 0, 1, 1, 0, 0, 1⟩
/-- TILE.ARITH_FLAGS.OVERFLOW (R228). -/
def TILE_ARITH_FLAGS_OVERFLOW : Fld := ⟨0x124, 1, 1, .w1c, 0x0, 0, 1, 1, 0, 0, 1⟩
/-- TILE.ARITH_FLAGS.UNDERFLOW (R228). -/
def TILE_ARITH_FLAGS_UNDERFLOW : Fld := ⟨0x124, 2, 1, .w1c, 0x0, 0, 1, 1, 0, 0, 1⟩
/-- TILE.ARITH_FLAGS.INEXACT (R228). -/
def TILE_ARITH_FLAGS_INEXACT : Fld := ⟨0x124, 3, 1, .w1c, 0x0, 0, 1, 1, 0, 0, 1⟩
/-- TILE.ARITH_FLAGS.INT_SAT (R228). -/
def TILE_ARITH_FLAGS_INT_SAT : Fld := ⟨0x124, 4, 1, .w1c, 0x0, 0, 1, 1, 0, 0, 1⟩
/-- TILE.RNG_SEED_LO.SEED (R228). -/
def TILE_RNG_SEED_LO_SEED : Fld := ⟨0x128, 0, 32, .rw, 0x0, 0, 1, 1, 0, 0, 1⟩
/-- TILE.RNG_SEED_HI.SEED (R228). -/
def TILE_RNG_SEED_HI_SEED : Fld := ⟨0x12C, 0, 32, .rw, 0x0, 0, 1, 1, 0, 0, 1⟩
/-- TILE.SRAM_ECC.CE (R228). -/
def TILE_SRAM_ECC_CE : Fld := ⟨0x130, 0, 16, .ro, 0x0, 0, 1, 1, 0, 0, 1⟩
/-- TILE.SRAM_ECC.UE (R228). -/
def TILE_SRAM_ECC_UE : Fld := ⟨0x130, 16, 8, .ro, 0x0, 0, 1, 1, 0, 0, 1⟩
/-- TILE.SRAM_ECC.CLEAR (R228). -/
def TILE_SRAM_ECC_CLEAR : Fld := ⟨0x130, 31, 1, .wo, 0x0, 0, 1, 1, 0, 0, 1⟩
/-- TILE.PERF_CTRL.FREEZE (R228). -/
def TILE_PERF_CTRL_FREEZE : Fld := ⟨0x134, 0, 1, .rw, 0x0, 0, 1, 1, 0, 0, 1⟩
/-- TILE.PERF_CTRL.CLEAR (R228). -/
def TILE_PERF_CTRL_CLEAR : Fld := ⟨0x134, 1, 1, .wo, 0x0, 0, 1, 1, 0, 0, 1⟩
/-- TILE.C.VALUE (R228). -/
def TILE_C_VALUE : Fld := ⟨0x140, 0, 32, .rw, 0x0, 4, 8, 1, 0, 0x0, 1⟩
/-- TILE.LC.VALUE (R228). -/
def TILE_LC_VALUE : Fld := ⟨0x160, 0, 32, .rw, 0x0, 4, 4, 1, 0, 0x0, 1⟩
/-- TILE.S.VALUE (R228). -/
def TILE_S_VALUE : Fld := ⟨0x180, 0, 32, .rw, 0x0, 4, 32, 1, 0, 0x0, 1⟩
/-- TILE.PERF_COUNT_LO.COUNT (R228). -/
def TILE_PERF_COUNT_LO_COUNT : Fld := ⟨0x200, 0, 32, .ro, 0x0, 16, 8, 1, 0, 0x0, 1⟩
/-- TILE.PERF_COUNT_HI.COUNT (R228). -/
def TILE_PERF_COUNT_HI_COUNT : Fld := ⟨0x204, 0, 16, .ro, 0x0, 16, 8, 1, 0, 0x0, 1⟩
/-- TILE.PERF_COUNT_HI.WRAP_COUNT (R228). -/
def TILE_PERF_COUNT_HI_WRAP_COUNT : Fld := ⟨0x204, 16, 16, .ro, 0x0, 16, 8, 1, 0, 0x0, 1⟩
/-- TILE.PERF_WRAP.WRAPPED (R228). -/
def TILE_PERF_WRAP_WRAPPED : Fld := ⟨0x208, 0, 1, .w1c, 0x0, 16, 8, 1, 0, 0x0, 1⟩
/-- TILE.QUEUE_LIMIT.DMA_DEPTH (R229). -/
def TILE_QUEUE_LIMIT_DMA_DEPTH : Fld := ⟨0x400, 0, 4, .rw, 0x8, 0, 1, 1, 0, 0, 1⟩
/-- TILE.QUEUE_LIMIT.MXU_DEPTH (R229). -/
def TILE_QUEUE_LIMIT_MXU_DEPTH : Fld := ⟨0x400, 8, 4, .rw, 0x4, 0, 1, 1, 0, 0, 1⟩
/-- TILE.QUEUE_LIMIT.VXU_DEPTH (R229). -/
def TILE_QUEUE_LIMIT_VXU_DEPTH : Fld := ⟨0x400, 16, 4, .rw, 0x4, 0, 1, 1, 0, 0, 1⟩
/-- TILE.DMA_OUT.MAX_PKTS (R229). -/
def TILE_DMA_OUT_MAX_PKTS : Fld := ⟨0x404, 0, 6, .rw, 0x20, 0, 1, 1, 0, 0, 1⟩
/-- TILE.DMA_OUT.MAX_READS (R229). -/
def TILE_DMA_OUT_MAX_READS : Fld := ⟨0x404, 8, 6, .rw, 0x10, 0, 1, 1, 0, 0, 1⟩
/-- TILE.DMA_SPLIT.PAYLOAD (R229). -/
def TILE_DMA_SPLIT_PAYLOAD : Fld := ⟨0x408, 0, 2, .rw, 0x2, 0, 1, 1, 0, 0, 1⟩
/-- TILE.ARB.FETCH_FIRST (R229). -/
def TILE_ARB_FETCH_FIRST : Fld := ⟨0x40C, 0, 1, .rw, 0x0, 0, 1, 1, 0, 0, 1⟩
/-- TILE.ECC_CTRL.WRITEBACK (R229). -/
def TILE_ECC_CTRL_WRITEBACK : Fld := ⟨0x410, 0, 1, .rw, 0x1, 0, 1, 1, 0, 0, 1⟩
/-- TILE.INJECT.CE_NEXT (R229). -/
def TILE_INJECT_CE_NEXT : Fld := ⟨0x414, 0, 1, .wo, 0x0, 0, 1, 1, 0, 0, 1⟩
/-- TILE.INJECT.UE_NEXT (R229). -/
def TILE_INJECT_UE_NEXT : Fld := ⟨0x414, 1, 1, .wo, 0x0, 0, 1, 1, 0, 0, 1⟩
/-- MCU.MCU_CFG.PROFILE (R336). -/
def MCU_MCU_CFG_PROFILE : Fld := ⟨0x100, 0, 2, .rw, 0x0, 0, 1, 1, 0, 0, 1⟩
/-- MCU.MCU_CFG.AUTO_REPAIR (R336). -/
def MCU_MCU_CFG_AUTO_REPAIR : Fld := ⟨0x100, 2, 1, .rw, 0x1, 0, 1, 1, 0, 0, 1⟩
/-- MCU.MCU_CFG.WRITEBACK (R336). -/
def MCU_MCU_CFG_WRITEBACK : Fld := ⟨0x100, 3, 1, .rw, 0x1, 0, 1, 1, 0, 0, 1⟩
/-- MCU.MCU_CFG.LANE_THRESH (R336). -/
def MCU_MCU_CFG_LANE_THRESH : Fld := ⟨0x100, 8, 8, .rw, 0x10, 0, 1, 1, 0, 0, 1⟩
/-- MCU.PATROL.EN (R336). -/
def MCU_PATROL_EN : Fld := ⟨0x104, 0, 1, .rw, 0x1, 0, 1, 1, 0, 0, 1⟩
/-- MCU.PATROL.HOURS (R336). -/
def MCU_PATROL_HOURS : Fld := ⟨0x104, 8, 8, .rw, 0x18, 0, 1, 1, 0, 0, 1⟩
/-- MCU.STATUS.OFFLINE (R336). -/
def MCU_STATUS_OFFLINE : Fld := ⟨0x108, 0, 7, .ro, 0x40, 0, 1, 1, 0, 0, 1⟩
/-- MCU.STATUS.SELF_REFRESH (R336). -/
def MCU_STATUS_SELF_REFRESH : Fld := ⟨0x108, 7, 1, .ro, 0x0, 0, 1, 1, 0, 0, 1⟩
/-- MCU.STATUS.PAUSED (R336). -/
def MCU_STATUS_PAUSED : Fld := ⟨0x108, 8, 1, .ro, 0x0, 0, 1, 1, 0, 0, 1⟩
/-- MCU.STATUS.PAUSED_CH (R336). -/
def MCU_STATUS_PAUSED_CH : Fld := ⟨0x108, 9, 5, .ro, 0x0, 0, 1, 1, 0, 0, 1⟩
/-- MCU.STATUS.LANE_PENDING (R336). -/
def MCU_STATUS_LANE_PENDING : Fld := ⟨0x108, 14, 1, .ro, 0x0, 0, 1, 1, 0, 0, 1⟩
/-- MCU.ONLINE_LO.PC (R336). -/
def MCU_ONLINE_LO_PC : Fld := ⟨0x10C, 0, 32, .ro, 0x0, 0, 1, 1, 0, 0, 1⟩
/-- MCU.ONLINE_HI.PC (R336). -/
def MCU_ONLINE_HI_PC : Fld := ⟨0x110, 0, 32, .ro, 0x0, 0, 1, 1, 0, 0, 1⟩
/-- MCU.ECC_CE.COUNT (R336). -/
def MCU_ECC_CE_COUNT : Fld := ⟨0x114, 0, 32, .ro, 0x0, 0, 1, 1, 0, 0, 1⟩
/-- MCU.ECC_UE.UE (R336). -/
def MCU_ECC_UE_UE : Fld := ⟨0x118, 0, 16, .ro, 0x0, 0, 1, 1, 0, 0, 1⟩
/-- MCU.ECC_UE.POISON_READS (R336). -/
def MCU_ECC_UE_POISON_READS : Fld := ⟨0x118, 16, 16, .ro, 0x0, 0, 1, 1, 0, 0, 1⟩
/-- MCU.ERR_ADDR.LOCAL (R336). -/
def MCU_ERR_ADDR_LOCAL : Fld := ⟨0x11C, 0, 30, .ro, 0x0, 0, 1, 1, 0, 0, 1⟩
/-- MCU.ERR_ADDR.UE (R336). -/
def MCU_ERR_ADDR_UE : Fld := ⟨0x11C, 30, 1, .ro, 0x0, 0, 1, 1, 0, 0, 1⟩
/-- MCU.ERR_ADDR.VALID (R336). -/
def MCU_ERR_ADDR_VALID : Fld := ⟨0x11C, 31, 1, .ro, 0x0, 0, 1, 1, 0, 0, 1⟩
/-- MCU.ERR_PC.PC (R336). -/
def MCU_ERR_PC_PC : Fld := ⟨0x120, 0, 6, .ro, 0x0, 0, 1, 1, 0, 0, 1⟩
/-- MCU.ECC_CLR.CLEAR (R336). -/
def MCU_ECC_CLR_CLEAR : Fld := ⟨0x124, 0, 1, .wo, 0x0, 0, 1, 1, 0, 0, 1⟩
/-- MCU.LANE_REPAIR.REPAIRED (R336). -/
def MCU_LANE_REPAIR_REPAIRED : Fld := ⟨0x128, 0, 8, .ro, 0x0, 0, 1, 1, 0, 0, 1⟩
/-- MCU.LANE_REPAIR.SPARES_LEFT (R336). -/
def MCU_LANE_REPAIR_SPARES_LEFT : Fld := ⟨0x128, 8, 8, .ro, 0x40, 0, 1, 1, 0, 0, 1⟩
/-- MCU.LANE_REPAIR.CH_EXHAUSTED (R336). -/
def MCU_LANE_REPAIR_CH_EXHAUSTED : Fld := ⟨0x128, 16, 6, .ro, 0x0, 0, 1, 1, 0, 0, 1⟩
/-- MCU.PATROL_PROG.UNIT (R336). -/
def MCU_PATROL_PROG_UNIT : Fld := ⟨0x12C, 0, 16, .ro, 0x0, 0, 1, 1, 0, 0, 1⟩
/-- MCU.PATROL_PROG.PASSES (R336). -/
def MCU_PATROL_PROG_PASSES : Fld := ⟨0x12C, 16, 16, .ro, 0x0, 0, 1, 1, 0, 0, 1⟩
/-- MCU.CH_SPARE.LEFT (R336). -/
def MCU_CH_SPARE_LEFT : Fld := ⟨0x180, 0, 2, .ro, 0x2, 4, 32, 8, 4, 0x0, 1⟩
/-- MCU.CH_SPARE.USED (R336). -/
def MCU_CH_SPARE_USED : Fld := ⟨0x180, 2, 2, .ro, 0x0, 4, 32, 8, 4, 0x0, 1⟩
/-- MCU.PERF_COUNT_LO.COUNT (R336). -/
def MCU_PERF_COUNT_LO_COUNT : Fld := ⟨0x200, 0, 32, .ro, 0x0, 16, 3, 1, 0, 0x0, 1⟩
/-- MCU.PERF_COUNT_HI.COUNT (R336). -/
def MCU_PERF_COUNT_HI_COUNT : Fld := ⟨0x204, 0, 16, .ro, 0x0, 16, 3, 1, 0, 0x0, 1⟩
/-- MCU.PERF_COUNT_HI.WRAP_COUNT (R336). -/
def MCU_PERF_COUNT_HI_WRAP_COUNT : Fld := ⟨0x204, 16, 16, .ro, 0x0, 16, 3, 1, 0, 0x0, 1⟩
/-- MCU.PERF_WRAP.WRAPPED (R336). -/
def MCU_PERF_WRAP_WRAPPED : Fld := ⟨0x208, 0, 1, .w1c, 0x0, 16, 3, 1, 0, 0x0, 1⟩
/-- MCU.PAGE_POLICY.MODE (R337). -/
def MCU_PAGE_POLICY_MODE : Fld := ⟨0x400, 0, 2, .rw, 0x2, 0, 1, 1, 0, 0, 1⟩
/-- MCU.PAGE_POLICY.OPEN_LIMIT (R337). -/
def MCU_PAGE_POLICY_OPEN_LIMIT : Fld := ⟨0x400, 8, 8, .rw, 0x10, 0, 1, 1, 0, 0, 1⟩
/-- MCU.QUEUE.RD_DEPTH (R337). -/
def MCU_QUEUE_RD_DEPTH : Fld := ⟨0x404, 0, 8, .rw, 0x40, 0, 1, 1, 0, 0, 1⟩
/-- MCU.QUEUE.WR_DEPTH (R337). -/
def MCU_QUEUE_WR_DEPTH : Fld := ⟨0x404, 8, 8, .rw, 0x40, 0, 1, 1, 0, 0, 1⟩
/-- MCU.QUEUE.WR_HIGH (R337). -/
def MCU_QUEUE_WR_HIGH : Fld := ⟨0x404, 16, 8, .rw, 0x30, 0, 1, 1, 0, 0, 1⟩
/-- MCU.QUEUE.WR_LOW (R337). -/
def MCU_QUEUE_WR_LOW : Fld := ⟨0x404, 24, 8, .rw, 0x10, 0, 1, 1, 0, 0, 1⟩
/-- MCU.REFRESH.TREFI_NS (R337). -/
def MCU_REFRESH_TREFI_NS : Fld := ⟨0x408, 0, 16, .rw, 0xF3C, 0, 1, 1, 0, 0, 1⟩
/-- MCU.REFRESH.PER_BANK (R337). -/
def MCU_REFRESH_PER_BANK : Fld := ⟨0x408, 16, 1, .rw, 0x1, 0, 1, 1, 0, 0, 1⟩
/-- MCU.SCRUB_CFG.SHARE (R337). -/
def MCU_SCRUB_CFG_SHARE : Fld := ⟨0x40C, 0, 6, .rw, 0x4, 0, 1, 1, 0, 0, 1⟩
/-- MCU.SCRUB_CFG.PATROL_RATE (R337). -/
def MCU_SCRUB_CFG_PATROL_RATE : Fld := ⟨0x40C, 12, 20, .rw, 0x309, 0, 1, 1, 0, 0, 1⟩
/-- MCU.RETRAIN_CFG.PAUSE_MAX_US (R337). -/
def MCU_RETRAIN_CFG_PAUSE_MAX_US : Fld := ⟨0x410, 0, 16, .rw, 0x3E8, 0, 1, 1, 0, 0, 1⟩
/-- MCU.RETRAIN_CFG.VBLANK_WAIT_MS (R337). -/
def MCU_RETRAIN_CFG_VBLANK_WAIT_MS : Fld := ⟨0x410, 16, 8, .rw, 0x32, 0, 1, 1, 0, 0, 1⟩
/-- MCU.LANE_WIN.MS (R337). -/
def MCU_LANE_WIN_MS : Fld := ⟨0x414, 0, 16, .rw, 0x64, 0, 1, 1, 0, 0, 1⟩
/-- MCU.INJECT.CE_NEXT (R337). -/
def MCU_INJECT_CE_NEXT : Fld := ⟨0x418, 0, 1, .wo, 0x0, 0, 1, 1, 0, 0, 1⟩
/-- MCU.INJECT.UE_NEXT (R337). -/
def MCU_INJECT_UE_NEXT : Fld := ⟨0x418, 1, 1, .wo, 0x0, 0, 1, 1, 0, 0, 1⟩
/-- MCU.TRAIN_A.VREF (R337). -/
def MCU_TRAIN_A_VREF : Fld := ⟨0x500, 0, 8, .rw, 0x0, 8, 32, 1, 0, 0x0, 1⟩
/-- MCU.TRAIN_A.RD_DELAY (R337). -/
def MCU_TRAIN_A_RD_DELAY : Fld := ⟨0x500, 8, 8, .rw, 0x0, 8, 32, 1, 0, 0x0, 1⟩
/-- MCU.TRAIN_A.WR_DELAY (R337). -/
def MCU_TRAIN_A_WR_DELAY : Fld := ⟨0x500, 16, 8, .rw, 0x0, 8, 32, 1, 0, 0x0, 1⟩
/-- MCU.TRAIN_B.SPARE0_LANE (R337). -/
def MCU_TRAIN_B_SPARE0_LANE : Fld := ⟨0x504, 0, 6, .rw, 0x0, 8, 32, 1, 0, 0x0, 1⟩
/-- MCU.TRAIN_B.SPARE0_USED (R337). -/
def MCU_TRAIN_B_SPARE0_USED : Fld := ⟨0x504, 6, 1, .rw, 0x0, 8, 32, 1, 0, 0x0, 1⟩
/-- MCU.TRAIN_B.SPARE1_LANE (R337). -/
def MCU_TRAIN_B_SPARE1_LANE : Fld := ⟨0x504, 8, 6, .rw, 0x0, 8, 32, 1, 0, 0x0, 1⟩
/-- MCU.TRAIN_B.SPARE1_USED (R337). -/
def MCU_TRAIN_B_SPARE1_USED : Fld := ⟨0x504, 14, 1, .rw, 0x0, 8, 32, 1, 0, 0x0, 1⟩
/-- MEMQ.RES.DISPLAY_RES (R339). -/
def MEMQ_RES_DISPLAY_RES : Fld := ⟨0x100, 0, 6, .rw, 0x2, 0, 1, 1, 0, 0, 1⟩
/-- MEMQ.RES.CAMERA_RES (R339). -/
def MEMQ_RES_CAMERA_RES : Fld := ⟨0x100, 8, 6, .rw, 0x2, 0, 1, 1, 0, 0, 1⟩
/-- MEMQ.HOST.AGE_US (R339). -/
def MEMQ_HOST_AGE_US : Fld := ⟨0x104, 0, 8, .rw, 0x14, 0, 1, 1, 0, 0, 1⟩
/-- MEMQ.IMAP_LO.BLOCK (R339). -/
def MEMQ_IMAP_LO_BLOCK : Fld := ⟨0x108, 0, 32, .rw, 0x0, 0, 1, 1, 0, 0, 1⟩
/-- MEMQ.IMAP_HI.BLOCK (R339). -/
def MEMQ_IMAP_HI_BLOCK : Fld := ⟨0x10C, 0, 32, .rw, 0x0, 0, 1, 1, 0, 0, 1⟩
/-- MEMQ.IMAP_STATUS.REJECTED (R339). -/
def MEMQ_IMAP_STATUS_REJECTED : Fld := ⟨0x110, 0, 8, .ro, 0x0, 0, 1, 1, 0, 0, 1⟩
/-- MEMQ.OVER.DISPLAY (R339). -/
def MEMQ_OVER_DISPLAY : Fld := ⟨0x114, 0, 16, .ro, 0x0, 0, 1, 1, 0, 0, 1⟩
/-- MEMQ.OVER.CAMERA (R339). -/
def MEMQ_OVER_CAMERA : Fld := ⟨0x114, 16, 16, .ro, 0x0, 0, 1, 1, 0, 0, 1⟩
/-- MEMQ.STARVED.BLIT (R339). -/
def MEMQ_STARVED_BLIT : Fld := ⟨0x118, 0, 32, .ro, 0x0, 0, 1, 1, 0, 0, 1⟩
/-- MEMQ.PERF_COUNT_LO.COUNT (R339). -/
def MEMQ_PERF_COUNT_LO_COUNT : Fld := ⟨0x200, 0, 32, .ro, 0x0, 16, 7, 1, 0, 0x0, 1⟩
/-- MEMQ.PERF_COUNT_HI.COUNT (R339). -/
def MEMQ_PERF_COUNT_HI_COUNT : Fld := ⟨0x204, 0, 16, .ro, 0x0, 16, 7, 1, 0, 0x0, 1⟩
/-- MEMQ.PERF_COUNT_HI.WRAP_COUNT (R339). -/
def MEMQ_PERF_COUNT_HI_WRAP_COUNT : Fld := ⟨0x204, 16, 16, .ro, 0x0, 16, 7, 1, 0, 0x0, 1⟩
/-- MEMQ.PERF_WRAP.WRAPPED (R339). -/
def MEMQ_PERF_WRAP_WRAPPED : Fld := ⟨0x208, 0, 1, .w1c, 0x0, 16, 7, 1, 0, 0x0, 1⟩
/-- MEMQ.WINDOW.NS (R339). -/
def MEMQ_WINDOW_NS : Fld := ⟨0x400, 0, 16, .rw, 0x3E8, 0, 1, 1, 0, 0, 1⟩
/-- MEMQ.DEMOTE.DISPLAY_HOLD (R339). -/
def MEMQ_DEMOTE_DISPLAY_HOLD : Fld := ⟨0x404, 0, 1, .rw, 0x0, 0, 1, 1, 0, 0, 1⟩
/-- MEMQ.DEMOTE.CAMERA_HOLD (R339). -/
def MEMQ_DEMOTE_CAMERA_HOLD : Fld := ⟨0x404, 1, 1, .rw, 0x0, 0, 1, 1, 0, 0, 1⟩
/-- LX.CFG.SPLIT (R392). -/
def LX_CFG_SPLIT : Fld := ⟨0x100, 0, 2, .rw, 0x2, 0, 1, 1, 0, 0, 1⟩
/-- LX.CFG.AUTO_RESTRIPE (R392). -/
def LX_CFG_AUTO_RESTRIPE : Fld := ⟨0x100, 2, 1, .rw, 0x1, 0, 1, 1, 0, 0, 1⟩
/-- LX.CFG.AUTO_LANE_RETRAIN (R392). -/
def LX_CFG_AUTO_LANE_RETRAIN : Fld := ⟨0x100, 3, 1, .rw, 0x1, 0, 1, 1, 0, 0, 1⟩
/-- LX.CFG.REACH (R392). -/
def LX_CFG_REACH : Fld := ⟨0x100, 4, 1, .rw, 0x0, 0, 1, 1, 0, 0, 1⟩
/-- LX.CFG_STATUS.SPLIT_PENDING (R392). -/
def LX_CFG_STATUS_SPLIT_PENDING : Fld := ⟨0x104, 0, 1, .ro, 0x0, 0, 1, 1, 0, 0, 1⟩
/-- LX.CFG_STATUS.SPLIT_NOW (R392). -/
def LX_CFG_STATUS_SPLIT_NOW : Fld := ⟨0x104, 1, 2, .ro, 0x2, 0, 1, 1, 0, 0, 1⟩
/-- LX.LANE_CLR.CLEAR (R392). -/
def LX_LANE_CLR_CLEAR : Fld := ⟨0x108, 0, 1, .wo, 0x0, 0, 1, 1, 0, 0, 1⟩
/-- LX.PCTRL.EN (R392). -/
def LX_PCTRL_EN : Fld := ⟨0x140, 0, 1, .rw, 0x0, 0, 1, 1, 0, 0x40, 4⟩
/-- LX.PCTRL.BULK_TC (R392). -/
def LX_PCTRL_BULK_TC : Fld := ⟨0x140, 1, 3, .rw, 0x0, 0, 1, 1, 0, 0x40, 4⟩
/-- LX.PCTRL.FIBRE_M (R392). -/
def LX_PCTRL_FIBRE_M : Fld := ⟨0x140, 16, 16, .rw, 0x0, 0, 1, 1, 0, 0x40, 4⟩
/-- LX.PSTATUS.STATE (R392). -/
def LX_PSTATUS_STATE : Fld := ⟨0x144, 0, 3, .ro, 0x0, 0, 1, 1, 0, 0x40, 4⟩
/-- LX.PSTATUS.CAUSE (R392). -/
def LX_PSTATUS_CAUSE : Fld := ⟨0x144, 3, 4, .ro, 0x0, 0, 1, 1, 0, 0x40, 4⟩
/-- LX.PSTATUS.TC7_ONLY (R392). -/
def LX_PSTATUS_TC7_ONLY : Fld := ⟨0x144, 7, 1, .ro, 0x0, 0, 1, 1, 0, 0x40, 4⟩
/-- LX.PSTATUS.TX_LANES (R392). -/
def LX_PSTATUS_TX_LANES : Fld := ⟨0x144, 8, 6, .ro, 0x0, 0, 1, 1, 0, 0x40, 4⟩
/-- LX.PSTATUS.RX_LANES (R392). -/
def LX_PSTATUS_RX_LANES : Fld := ⟨0x144, 14, 6, .ro, 0x0, 0, 1, 1, 0, 0x40, 4⟩
/-- LX.PSTATUS.DEGRADED (R392). -/
def LX_PSTATUS_DEGRADED : Fld := ⟨0x144, 20, 1, .ro, 0x0, 0, 1, 1, 0, 0x40, 4⟩
/-- LX.PSTATUS.PARTNER_RESTED (R392). -/
def LX_PSTATUS_PARTNER_RESTED : Fld := ⟨0x144, 21, 1, .ro, 0x0, 0, 1, 1, 0, 0x40, 4⟩
/-- LX.PSTATUS.PARTNER_SLEEP (R392). -/
def LX_PSTATUS_PARTNER_SLEEP : Fld := ⟨0x144, 22, 1, .ro, 0x0, 0, 1, 1, 0, 0x40, 4⟩
/-- LX.PARTNER.CHIP (R392). -/
def LX_PARTNER_CHIP : Fld := ⟨0x148, 0, 13, .ro, 0x0, 0, 1, 1, 0, 0x40, 4⟩
/-- LX.PARTNER.PORT (R392). -/
def LX_PARTNER_PORT : Fld := ⟨0x148, 13, 5, .ro, 0x0, 0, 1, 1, 0, 0x40, 4⟩
/-- LX.PARTNER.VALID (R392). -/
def LX_PARTNER_VALID : Fld := ⟨0x148, 18, 1, .ro, 0x0, 0, 1, 1, 0, 0x40, 4⟩
/-- LX.PARTNER_PLAN.ID (R392). -/
def LX_PARTNER_PLAN_ID : Fld := ⟨0x14C, 0, 32, .ro, 0x0, 0, 1, 1, 0, 0x40, 4⟩
/-- LX.TX_MAP.LANES (R392). -/
def LX_TX_MAP_LANES : Fld := ⟨0x150, 0, 32, .ro, 0x0, 0, 1, 1, 0, 0x40, 4⟩
/-- LX.RX_MAP.LANES (R392). -/
def LX_RX_MAP_LANES : Fld := ⟨0x154, 0, 32, .ro, 0x0, 0, 1, 1, 0, 0x40, 4⟩
/-- LX.CW_CORR.COUNT (R392). -/
def LX_CW_CORR_COUNT : Fld := ⟨0x158, 0, 32, .ro, 0x0, 0, 1, 1, 0, 0x40, 4⟩
/-- LX.CW_UNCORR.COUNT (R392). -/
def LX_CW_UNCORR_COUNT : Fld := ⟨0x15C, 0, 32, .ro, 0x0, 0, 1, 1, 0, 0x40, 4⟩
/-- LX.COUNTS.REPLAYS (R392). -/
def LX_COUNTS_REPLAYS : Fld := ⟨0x160, 0, 16, .ro, 0x0, 0, 1, 1, 0, 0x40, 4⟩
/-- LX.COUNTS.DOWNS (R392). -/
def LX_COUNTS_DOWNS : Fld := ⟨0x160, 16, 16, .ro, 0x0, 0, 1, 1, 0, 0x40, 4⟩
/-- LX.LANE_COUNTS.DROPS (R392). -/
def LX_LANE_COUNTS_DROPS : Fld := ⟨0x164, 0, 16, .ro, 0x0, 0, 1, 1, 0, 0x40, 4⟩
/-- LX.LANE_COUNTS.ADDS (R392). -/
def LX_LANE_COUNTS_ADDS : Fld := ⟨0x164, 16, 16, .ro, 0x0, 0, 1, 1, 0, 0x40, 4⟩
/-- LX.UP_MET_LO.MET (R392). -/
def LX_UP_MET_LO_MET : Fld := ⟨0x168, 0, 32, .ro, 0x0, 0, 1, 1, 0, 0x40, 4⟩
/-- LX.UP_MET_HI.MET (R392). -/
def LX_UP_MET_HI_MET : Fld := ⟨0x16C, 0, 32, .ro, 0x0, 0, 1, 1, 0, 0x40, 4⟩
/-- LX.PCLEAR.CLEAR (R392). -/
def LX_PCLEAR_CLEAR : Fld := ⟨0x170, 0, 1, .wo, 0x0, 0, 1, 1, 0, 0x40, 4⟩
/-- LX.LANE.SYM_ERR (R392). -/
def LX_LANE_SYM_ERR : Fld := ⟨0x280, 0, 16, .ro, 0x0, 4, 32, 1, 0, 0x0, 1⟩
/-- LX.LANE.LOCK (R392). -/
def LX_LANE_LOCK : Fld := ⟨0x280, 16, 1, .ro, 0x0, 4, 32, 1, 0, 0x0, 1⟩
/-- LX.LANE.TX_USE (R392). -/
def LX_LANE_TX_USE : Fld := ⟨0x280, 17, 1, .ro, 0x0, 4, 32, 1, 0, 0x0, 1⟩
/-- LX.LANE.RX_USE (R392). -/
def LX_LANE_RX_USE : Fld := ⟨0x280, 18, 1, .ro, 0x0, 4, 32, 1, 0, 0x0, 1⟩
/-- LX.LANE.FAILING (R392). -/
def LX_LANE_FAILING : Fld := ⟨0x280, 19, 1, .ro, 0x0, 4, 32, 1, 0, 0x0, 1⟩
/-- LX.LANE.BAD (R392). -/
def LX_LANE_BAD : Fld := ⟨0x280, 20, 1, .ro, 0x0, 4, 32, 1, 0, 0x0, 1⟩
/-- LX.LANE.POL_INV (R392). -/
def LX_LANE_POL_INV : Fld := ⟨0x280, 21, 1, .ro, 0x0, 4, 32, 1, 0, 0x0, 1⟩
/-- LX.LANE.RETRAINS (R392). -/
def LX_LANE_RETRAINS : Fld := ⟨0x280, 24, 8, .ro, 0x0, 4, 32, 1, 0, 0x0, 1⟩
/-- LX.PERF_COUNT_LO.COUNT (R392). -/
def LX_PERF_COUNT_LO_COUNT : Fld := ⟨0x300, 0, 32, .ro, 0x0, 16, 8, 1, 0, 0x0, 1⟩
/-- LX.PERF_COUNT_HI.COUNT (R392). -/
def LX_PERF_COUNT_HI_COUNT : Fld := ⟨0x304, 0, 16, .ro, 0x0, 16, 8, 1, 0, 0x0, 1⟩
/-- LX.PERF_COUNT_HI.WRAP_COUNT (R392). -/
def LX_PERF_COUNT_HI_WRAP_COUNT : Fld := ⟨0x304, 16, 16, .ro, 0x0, 16, 8, 1, 0, 0x0, 1⟩
/-- LX.PERF_WRAP.WRAPPED (R392). -/
def LX_PERF_WRAP_WRAPPED : Fld := ⟨0x308, 0, 1, .w1c, 0x0, 16, 8, 1, 0, 0x0, 1⟩
/-- LX.CREDIT01.TC0 (R393). -/
def LX_CREDIT01_TC0 : Fld := ⟨0x400, 0, 16, .rw, 0x0, 0, 1, 1, 0, 0x40, 4⟩
/-- LX.CREDIT01.TC1 (R393). -/
def LX_CREDIT01_TC1 : Fld := ⟨0x400, 16, 16, .rw, 0x0, 0, 1, 1, 0, 0x40, 4⟩
/-- LX.CREDIT23.TC2 (R393). -/
def LX_CREDIT23_TC2 : Fld := ⟨0x404, 0, 16, .rw, 0x0, 0, 1, 1, 0, 0x40, 4⟩
/-- LX.CREDIT23.TC3 (R393). -/
def LX_CREDIT23_TC3 : Fld := ⟨0x404, 16, 16, .rw, 0x0, 0, 1, 1, 0, 0x40, 4⟩
/-- LX.CREDIT45.TC4 (R393). -/
def LX_CREDIT45_TC4 : Fld := ⟨0x408, 0, 16, .rw, 0x0, 0, 1, 1, 0, 0x40, 4⟩
/-- LX.CREDIT45.TC5 (R393). -/
def LX_CREDIT45_TC5 : Fld := ⟨0x408, 16, 16, .rw, 0x0, 0, 1, 1, 0, 0x40, 4⟩
/-- LX.CREDIT67.TC6 (R393). -/
def LX_CREDIT67_TC6 : Fld := ⟨0x40C, 0, 16, .rw, 0x0, 0, 1, 1, 0, 0x40, 4⟩
/-- LX.CREDIT67.TC7 (R393). -/
def LX_CREDIT67_TC7 : Fld := ⟨0x40C, 16, 16, .rw, 0x0, 0, 1, 1, 0, 0x40, 4⟩
/-- LX.LOSS.NS (R393). -/
def LX_LOSS_NS : Fld := ⟨0x410, 0, 10, .rw, 0x1F4, 0, 1, 1, 0, 0x40, 4⟩
/-- LX.ACK.EVERY_CW (R393). -/
def LX_ACK_EVERY_CW : Fld := ⟨0x414, 0, 8, .rw, 0x40, 0, 1, 1, 0, 0x40, 4⟩
/-- LX.ACK.MAX_10NS (R393). -/
def LX_ACK_MAX_10NS : Fld := ⟨0x414, 8, 8, .rw, 0xA, 0, 1, 1, 0, 0x40, 4⟩
/-- LX.REPLAY.MAX (R393). -/
def LX_REPLAY_MAX : Fld := ⟨0x418, 0, 4, .rw, 0x8, 0, 1, 1, 0, 0x40, 4⟩
/-- LX.REPLAY.NAK_WAIT_NS (R393). -/
def LX_REPLAY_NAK_WAIT_NS : Fld := ⟨0x418, 16, 16, .rw, 0x1A4, 0, 1, 1, 0, 0x40, 4⟩
/-- LX.LANE_ERR.THRESH (R393). -/
def LX_LANE_ERR_THRESH : Fld := ⟨0x41C, 0, 16, .rw, 0x1000, 0, 1, 1, 0, 0x40, 4⟩
/-- LX.LANE_ERR.WIN_US (R393). -/
def LX_LANE_ERR_WIN_US : Fld := ⟨0x41C, 16, 16, .rw, 0x3E8, 0, 1, 1, 0, 0x40, 4⟩
/-- LX.TX_EQ.PRE2 (R393). -/
def LX_TX_EQ_PRE2 : Fld := ⟨0x600, 0, 8, .rw, 0x0, 4, 32, 1, 0, 0x0, 1⟩
/-- LX.TX_EQ.PRE1 (R393). -/
def LX_TX_EQ_PRE1 : Fld := ⟨0x600, 8, 8, .rw, 0xFC, 4, 32, 1, 0, 0x0, 1⟩
/-- LX.TX_EQ.MAIN (R393). -/
def LX_TX_EQ_MAIN : Fld := ⟨0x600, 16, 8, .rw, 0x36, 4, 32, 1, 0, 0x0, 1⟩
/-- LX.TX_EQ.POST (R393). -/
def LX_TX_EQ_POST : Fld := ⟨0x600, 24, 8, .rw, 0xFB, 4, 32, 1, 0, 0x0, 1⟩
/-- LX.RX_CFG.CONT_ADAPT (R393). -/
def LX_RX_CFG_CONT_ADAPT : Fld := ⟨0x680, 0, 1, .rw, 0x1, 0, 1, 1, 0, 0, 1⟩
/-- LX.LOCK_CFG.LOSS_LOCK_NS (R393). -/
def LX_LOCK_CFG_LOSS_LOCK_NS : Fld := ⟨0x684, 0, 8, .rw, 0x32, 0, 1, 1, 0, 0, 1⟩
/-- TSP.TSP_CLR.CLEAR (R410). -/
def TSP_TSP_CLR_CLEAR : Fld := ⟨0x100, 0, 1, .wo, 0x0, 0, 1, 1, 0, 0, 1⟩
/-- TSP.CLASS.WEIGHT (R410). -/
def TSP_CLASS_WEIGHT : Fld := ⟨0x140, 0, 8, .rw, 0x1, 4, 6, 1, 0, 0x40, 4⟩
/-- TSP.CLASS.SHAPE_EN (R410). -/
def TSP_CLASS_SHAPE_EN : Fld := ⟨0x140, 8, 1, .rw, 0x0, 4, 6, 1, 0, 0x40, 4⟩
/-- TSP.CLASS.SHAPE_PKT (R410). -/
def TSP_CLASS_SHAPE_PKT : Fld := ⟨0x140, 9, 2, .rw, 0x2, 4, 6, 1, 0, 0x40, 4⟩
/-- TSP.CLASS.SHAPE_GBS (R410). -/
def TSP_CLASS_SHAPE_GBS : Fld := ⟨0x140, 12, 14, .rw, 0x0, 4, 6, 1, 0, 0x40, 4⟩
/-- TSP.PORT_CFG.MARK_THRESH (R410). -/
def TSP_PORT_CFG_MARK_THRESH : Fld := ⟨0x158, 0, 7, .rw, 0x4B, 0, 1, 1, 0, 0x40, 4⟩
/-- TSP.POL_DROPS.COUNT (R410). -/
def TSP_POL_DROPS_COUNT : Fld := ⟨0x15C, 0, 32, .ro, 0x0, 0, 1, 1, 0, 0x40, 4⟩
/-- TSP.POL_MARKS.COUNT (R410). -/
def TSP_POL_MARKS_COUNT : Fld := ⟨0x160, 0, 32, .ro, 0x0, 0, 1, 1, 0, 0x40, 4⟩
/-- TSP.POL_DELAYS.COUNT (R410). -/
def TSP_POL_DELAYS_COUNT : Fld := ⟨0x164, 0, 32, .ro, 0x0, 0, 1, 1, 0, 0x40, 4⟩
/-- TSP.MARK_DROPS.COUNT (R410). -/
def TSP_MARK_DROPS_COUNT : Fld := ⟨0x168, 0, 32, .ro, 0x0, 0, 1, 1, 0, 0x40, 4⟩
/-- TSP.Q_FULL.COUNT (R410). -/
def TSP_Q_FULL_COUNT : Fld := ⟨0x16C, 0, 32, .ro, 0x0, 0, 1, 1, 0, 0x40, 4⟩
/-- TSP.QMAX.PACKETS (R410). -/
def TSP_QMAX_PACKETS : Fld := ⟨0x170, 0, 12, .ro, 0x0, 0, 1, 1, 0, 0x40, 4⟩
/-- TSP.SHAPE_HELD.COUNT (R410). -/
def TSP_SHAPE_HELD_COUNT : Fld := ⟨0x174, 0, 32, .ro, 0x0, 0, 1, 1, 0, 0x40, 4⟩
/-- TSP.PCLEAR.CLEAR (R410). -/
def TSP_PCLEAR_CLEAR : Fld := ⟨0x178, 0, 1, .wo, 0x0, 0, 1, 1, 0, 0x40, 4⟩
/-- TSP.QOCC.PACKETS (R410). -/
def TSP_QOCC_PACKETS : Fld := ⟨0x17C, 0, 12, .ro, 0x0, 0, 1, 1, 0, 0x40, 4⟩
/-- TSP.POL_MATCH.TC_MASK (R410). -/
def TSP_POL_MATCH_TC_MASK : Fld := ⟨0x240, 0, 6, .rw, 0x0, 8, 16, 1, 0, 0x0, 1⟩
/-- TSP.POL_MATCH.SLICE_EN (R410). -/
def TSP_POL_MATCH_SLICE_EN : Fld := ⟨0x240, 6, 1, .rw, 0x0, 8, 16, 1, 0, 0x0, 1⟩
/-- TSP.POL_MATCH.EN (R410). -/
def TSP_POL_MATCH_EN : Fld := ⟨0x240, 7, 1, .rw, 0x0, 8, 16, 1, 0, 0x0, 1⟩
/-- TSP.POL_MATCH.ACTION (R410). -/
def TSP_POL_MATCH_ACTION : Fld := ⟨0x240, 8, 2, .rw, 0x0, 8, 16, 1, 0, 0x0, 1⟩
/-- TSP.POL_MATCH.SLICE (R410). -/
def TSP_POL_MATCH_SLICE : Fld := ⟨0x240, 16, 12, .rw, 0x0, 8, 16, 1, 0, 0x0, 1⟩
/-- TSP.POL_RATE.RATE (R410). -/
def TSP_POL_RATE_RATE : Fld := ⟨0x244, 0, 20, .rw, 0x0, 8, 16, 1, 0, 0x0, 1⟩
/-- TSP.POL_RATE.BURST (R410). -/
def TSP_POL_RATE_BURST : Fld := ⟨0x244, 20, 8, .rw, 0x1, 8, 16, 1, 0, 0x0, 1⟩
/-- TSP.SRATE.RATE (R411). -/
def TSP_SRATE_RATE : Fld := ⟨0x400, 0, 20, .rw, 0x0, 4, 6, 1, 0, 0x40, 4⟩
/-- TSP.SCAP.CAP (R411). -/
def TSP_SCAP_CAP : Fld := ⟨0x418, 0, 8, .rw, 0x4, 4, 6, 1, 0, 0x40, 4⟩
/-- TSP.SCAP.IDLE_CAP (R411). -/
def TSP_SCAP_IDLE_CAP : Fld := ⟨0x418, 8, 8, .rw, 0x0, 4, 6, 1, 0, 0x40, 4⟩
/-- TSP.QDEPTH.TC (R411). -/
def TSP_QDEPTH_TC : Fld := ⟨0x430, 0, 12, .rw, 0x0, 4, 8, 2, 16, 0x40, 4⟩
/-- TSP.QCFG.RESP_RSV (R411). -/
def TSP_QCFG_RESP_RSV : Fld := ⟨0x500, 0, 4, .rw, 0x8, 0, 1, 1, 0, 0, 1⟩
/-- RTE.CFG.SLALOM_EN (R449). -/
def RTE_CFG_SLALOM_EN : Fld := ⟨0x100, 0, 1, .rw, 0x1, 0, 1, 1, 0, 0, 1⟩
/-- RTE.CFG.PROFILE (R449). -/
def RTE_CFG_PROFILE : Fld := ⟨0x100, 1, 1, .rw, 0x0, 0, 1, 1, 0, 0, 1⟩
/-- RTE.STATUS.TRANSIT_ACTIVE (R449). -/
def RTE_STATUS_TRANSIT_ACTIVE : Fld := ⟨0x104, 0, 1, .ro, 0x0, 0, 1, 1, 0, 0, 1⟩
/-- RTE.STATUS.PLAN_MISMATCH (R449). -/
def RTE_STATUS_PLAN_MISMATCH : Fld := ⟨0x104, 1, 1, .ro, 0x0, 0, 1, 1, 0, 0, 1⟩
/-- RTE.STATUS.ALLOCATED (R449). -/
def RTE_STATUS_ALLOCATED : Fld := ⟨0x104, 8, 6, .ro, 0x0, 0, 1, 1, 0, 0, 1⟩
/-- RTE.STATUS.ACTIVE (R449). -/
def RTE_STATUS_ACTIVE : Fld := ⟨0x104, 16, 6, .ro, 0x0, 0, 1, 1, 0, 0, 1⟩
/-- RTE.CTX_ALLOC.SLICE (R449). -/
def RTE_CTX_ALLOC_SLICE : Fld := ⟨0x108, 0, 12, .wo, 0x0, 0, 1, 1, 0, 0, 1⟩
/-- RTE.CTX_ALLOC.FREE (R449). -/
def RTE_CTX_ALLOC_FREE : Fld := ⟨0x108, 16, 1, .wo, 0x0, 0, 1, 1, 0, 0, 1⟩
/-- RTE.TRANSIT.ACTIVE (R449). -/
def RTE_TRANSIT_ACTIVE : Fld := ⟨0x10C, 0, 1, .rw, 0x0, 0, 1, 1, 0, 0, 1⟩
/-- RTE.ALLOC_STATS.GRANTED (R449). -/
def RTE_ALLOC_STATS_GRANTED : Fld := ⟨0x110, 0, 16, .ro, 0x0, 0, 1, 1, 0, 0, 1⟩
/-- RTE.ALLOC_STATS.REFUSED (R449). -/
def RTE_ALLOC_STATS_REFUSED : Fld := ⟨0x110, 16, 16, .ro, 0x0, 0, 1, 1, 0, 0, 1⟩
/-- RTE.CTX.SLICE (R449). -/
def RTE_CTX_SLICE : Fld := ⟨0x120, 0, 12, .ro, 0x0, 4, 32, 1, 0, 0x0, 1⟩
/-- RTE.CTX.ALLOCATED (R449). -/
def RTE_CTX_ALLOCATED : Fld := ⟨0x120, 12, 1, .ro, 0x0, 4, 32, 1, 0, 0x0, 1⟩
/-- RTE.CTX.ACTIVE (R449). -/
def RTE_CTX_ACTIVE : Fld := ⟨0x120, 13, 1, .rw, 0x0, 4, 32, 1, 0, 0x0, 1⟩
/-- RTE.CTX.BOUND (R449). -/
def RTE_CTX_BOUND : Fld := ⟨0x120, 14, 1, .ro, 0x0, 4, 32, 1, 0, 0x0, 1⟩
/-- RTE.CTX.REACH_COUNT (R449). -/
def RTE_CTX_REACH_COUNT : Fld := ⟨0x120, 16, 14, .ro, 0x0, 4, 32, 1, 0, 0x0, 1⟩
/-- RTE.DROP_SLICE.COUNT (R449). -/
def RTE_DROP_SLICE_COUNT : Fld := ⟨0x1A0, 0, 32, .ro, 0x0, 0, 1, 1, 0, 0, 1⟩
/-- RTE.DROP_MALFORMED.COUNT (R449). -/
def RTE_DROP_MALFORMED_COUNT : Fld := ⟨0x1A4, 0, 32, .ro, 0x0, 0, 1, 1, 0, 0, 1⟩
/-- RTE.DROP_TC7_ONLY.COUNT (R449). -/
def RTE_DROP_TC7_ONLY_COUNT : Fld := ⟨0x1A8, 0, 32, .ro, 0x0, 0, 1, 1, 0, 0, 1⟩
/-- RTE.NOT_IN_SLICE.COUNT (R449). -/
def RTE_NOT_IN_SLICE_COUNT : Fld := ⟨0x1AC, 0, 32, .ro, 0x0, 0, 1, 1, 0, 0, 1⟩
/-- RTE.NO_ROUTE.COUNT (R449). -/
def RTE_NO_ROUTE_COUNT : Fld := ⟨0x1B0, 0, 32, .ro, 0x0, 0, 1, 1, 0, 0, 1⟩
/-- RTE.DETOURS.COUNT (R449). -/
def RTE_DETOURS_COUNT : Fld := ⟨0x1B4, 0, 32, .ro, 0x0, 0, 1, 1, 0, 0, 1⟩
/-- RTE.DETOUR_DROPS.COUNT (R449). -/
def RTE_DETOUR_DROPS_COUNT : Fld := ⟨0x1B8, 0, 32, .ro, 0x0, 0, 1, 1, 0, 0, 1⟩
/-- RTE.WIN_FAULTS.COUNT (R449). -/
def RTE_WIN_FAULTS_COUNT : Fld := ⟨0x1BC, 0, 32, .ro, 0x0, 0, 1, 1, 0, 0, 1⟩
/-- RTE.CNT_CLR.CLEAR (R449). -/
def RTE_CNT_CLR_CLEAR : Fld := ⟨0x1C0, 0, 1, .wo, 0x0, 0, 1, 1, 0, 0, 1⟩
/-- RTE.TIMEOUT.US (R449). -/
def RTE_TIMEOUT_US : Fld := ⟨0x200, 0, 20, .rw, 0x7D0, 4, 33, 1, 0, 0x0, 1⟩
/-- RTE.ZPEER.CHIP (R449). -/
def RTE_ZPEER_CHIP : Fld := ⟨0x300, 0, 13, .rw, 0x0, 4, 8, 1, 0, 0x0, 1⟩
/-- RTE.ZPEER.PORT (R449). -/
def RTE_ZPEER_PORT : Fld := ⟨0x300, 13, 5, .rw, 0x0, 4, 8, 1, 0, 0x0, 1⟩
/-- RTE.ZPEER.VALID (R449). -/
def RTE_ZPEER_VALID : Fld := ⟨0x300, 31, 1, .rw, 0x0, 4, 8, 1, 0, 0x0, 1⟩
/-- RTE.SPREAD.MODE (R450). -/
def RTE_SPREAD_MODE : Fld := ⟨0x400, 0, 2, .rw, 0x0, 0, 1, 1, 0, 0, 1⟩
/-- RTE.SETTLE.US (R450). -/
def RTE_SETTLE_US : Fld := ⟨0x404, 0, 16, .rw, 0x3E8, 0, 1, 1, 0, 0, 1⟩
/-- RTE.DETOUR.REDETOUR (R450). -/
def RTE_DETOUR_REDETOUR : Fld := ⟨0x408, 0, 1, .rw, 0x0, 0, 1, 1, 0, 0, 1⟩
/-- FAB.CFG.ELIGIBLE (R483). -/
def FAB_CFG_ELIGIBLE : Fld := ⟨0x100, 0, 1, .rw, 0x1, 0, 1, 1, 0, 0, 1⟩
/-- FAB.CFG.PRIORITY (R483). -/
def FAB_CFG_PRIORITY : Fld := ⟨0x100, 8, 8, .rw, 0x80, 0, 1, 1, 0, 0, 1⟩
/-- FAB.ROLE.MEMBER (R483). -/
def FAB_ROLE_MEMBER : Fld := ⟨0x104, 0, 1, .ro, 0x0, 0, 1, 1, 0, 0, 1⟩
/-- FAB.ROLE.SECTION_LEADER (R483). -/
def FAB_ROLE_SECTION_LEADER : Fld := ⟨0x104, 1, 1, .ro, 0x0, 0, 1, 1, 0, 0, 1⟩
/-- FAB.ROLE.CONDUCTOR (R483). -/
def FAB_ROLE_CONDUCTOR : Fld := ⟨0x104, 2, 1, .ro, 0x0, 0, 1, 1, 0, 0, 1⟩
/-- FAB.ROLE.DEPUTY (R483). -/
def FAB_ROLE_DEPUTY : Fld := ⟨0x104, 3, 1, .ro, 0x0, 0, 1, 1, 0, 0, 1⟩
/-- FAB.ROLE.ELECTING (R483). -/
def FAB_ROLE_ELECTING : Fld := ⟨0x104, 4, 1, .ro, 0x0, 0, 1, 1, 0, 0, 1⟩
/-- FAB.CONDUCTOR.CHIP (R483). -/
def FAB_CONDUCTOR_CHIP : Fld := ⟨0x108, 0, 13, .ro, 0x0, 0, 1, 1, 0, 0, 1⟩
/-- FAB.CONDUCTOR.VALID (R483). -/
def FAB_CONDUCTOR_VALID : Fld := ⟨0x108, 13, 1, .ro, 0x0, 0, 1, 1, 0, 0, 1⟩
/-- FAB.CONDUCTOR.DEPUTY (R483). -/
def FAB_CONDUCTOR_DEPUTY : Fld := ⟨0x108, 16, 13, .ro, 0x0, 0, 1, 1, 0, 0, 1⟩
/-- FAB.CONDUCTOR.DEPUTY_VALID (R483). -/
def FAB_CONDUCTOR_DEPUTY_VALID : Fld := ⟨0x108, 29, 1, .ro, 0x0, 0, 1, 1, 0, 0, 1⟩
/-- FAB.TERM.TERM (R483). -/
def FAB_TERM_TERM : Fld := ⟨0x10C, 0, 32, .ro, 0x0, 0, 1, 1, 0, 0, 1⟩
/-- FAB.SECTION.LEADER (R483). -/
def FAB_SECTION_LEADER : Fld := ⟨0x110, 0, 13, .ro, 0x0, 0, 1, 1, 0, 0, 1⟩
/-- FAB.SECTION.VALID (R483). -/
def FAB_SECTION_VALID : Fld := ⟨0x110, 13, 1, .ro, 0x0, 0, 1, 1, 0, 0, 1⟩
/-- FAB.TIMERS.BEAT_US (R483). -/
def FAB_TIMERS_BEAT_US : Fld := ⟨0x114, 0, 16, .rw, 0x3E8, 0, 1, 1, 0, 0, 1⟩
/-- FAB.TIMERS.LOSS_BEATS (R483). -/
def FAB_TIMERS_LOSS_BEATS : Fld := ⟨0x114, 16, 4, .rw, 0x5, 0, 1, 1, 0, 0, 1⟩
/-- FAB.TIMERS.ELECT_MS (R483). -/
def FAB_TIMERS_ELECT_MS : Fld := ⟨0x114, 20, 12, .rw, 0xC8, 0, 1, 1, 0, 0, 1⟩
/-- FAB.SW_NET.NET (R483). -/
def FAB_SW_NET_NET : Fld := ⟨0x118, 8, 24, .rw, 0x0, 0, 1, 1, 0, 0, 1⟩
/-- FAB.MGMT_IP.ADDR (R483). -/
def FAB_MGMT_IP_ADDR : Fld := ⟨0x11C, 0, 32, .rw, 0x0, 0, 1, 1, 0, 0, 1⟩
/-- FAB.SW_TIMING.ACK_MS (R483). -/
def FAB_SW_TIMING_ACK_MS : Fld := ⟨0x120, 0, 8, .rw, 0x14, 0, 1, 1, 0, 0, 1⟩
/-- FAB.SW_TIMING.SETTLE_MS (R483). -/
def FAB_SW_TIMING_SETTLE_MS : Fld := ⟨0x120, 8, 8, .rw, 0x64, 0, 1, 1, 0, 0, 1⟩
/-- FAB.SW_TIMING.TRIES (R483). -/
def FAB_SW_TIMING_TRIES : Fld := ⟨0x120, 16, 4, .rw, 0x3, 0, 1, 1, 0, 0, 1⟩
/-- FAB.SW_TIMING.RECIRCUIT_S (R483). -/
def FAB_SW_TIMING_RECIRCUIT_S : Fld := ⟨0x120, 20, 8, .rw, 0x1, 0, 1, 1, 0, 0, 1⟩
/-- FAB.ADMIT.PORTS (R483). -/
def FAB_ADMIT_PORTS : Fld := ⟨0x124, 0, 24, .rw, 0x0, 0, 1, 1, 0, 0, 1⟩
/-- FAB.MBX_CMD.CODE (R483). -/
def FAB_MBX_CMD_CODE : Fld := ⟨0x128, 0, 8, .wo, 0x0, 0, 1, 1, 0, 0, 1⟩
/-- FAB.MBX_CMD.TAG (R483). -/
def FAB_MBX_CMD_TAG : Fld := ⟨0x128, 16, 16, .wo, 0x0, 0, 1, 1, 0, 0, 1⟩
/-- FAB.MBX_ARG.ARG (R483). -/
def FAB_MBX_ARG_ARG : Fld := ⟨0x12C, 0, 32, .rw, 0x0, 4, 4, 1, 0, 0x0, 1⟩
/-- FAB.MBX_STATUS.STATE (R483). -/
def FAB_MBX_STATUS_STATE : Fld := ⟨0x13C, 0, 2, .ro, 0x0, 0, 1, 1, 0, 0, 1⟩
/-- FAB.MBX_STATUS.RESULT (R483). -/
def FAB_MBX_STATUS_RESULT : Fld := ⟨0x13C, 8, 8, .ro, 0x0, 0, 1, 1, 0, 0, 1⟩
/-- FAB.MBX_STATUS.TAG (R483). -/
def FAB_MBX_STATUS_TAG : Fld := ⟨0x13C, 16, 16, .ro, 0x0, 0, 1, 1, 0, 0, 1⟩
/-- FAB.MBX_DETAIL.DETAIL (R483). -/
def FAB_MBX_DETAIL_DETAIL : Fld := ⟨0x140, 0, 32, .ro, 0x0, 0, 1, 1, 0, 0, 1⟩
/-- FAB.MBX_MET_LO.MET (R483). -/
def FAB_MBX_MET_LO_MET : Fld := ⟨0x144, 0, 32, .ro, 0x0, 0, 1, 1, 0, 0, 1⟩
/-- FAB.MBX_MET_HI.MET (R483). -/
def FAB_MBX_MET_HI_MET : Fld := ⟨0x148, 0, 32, .ro, 0x0, 0, 1, 1, 0, 0, 1⟩
/-- FAB.COUNTS.STALE (R483). -/
def FAB_COUNTS_STALE : Fld := ⟨0x14C, 0, 16, .ro, 0x0, 0, 1, 1, 0, 0, 1⟩
/-- FAB.COUNTS.RELAY_DROPS (R483). -/
def FAB_COUNTS_RELAY_DROPS : Fld := ⟨0x14C, 16, 16, .ro, 0x0, 0, 1, 1, 0, 0, 1⟩
/-- FAB.COUNTS2.RESET_REFUSED (R483). -/
def FAB_COUNTS2_RESET_REFUSED : Fld := ⟨0x150, 0, 16, .ro, 0x0, 0, 1, 1, 0, 0, 1⟩
/-- FAB.COUNTS2.MBX_BUSY (R483). -/
def FAB_COUNTS2_MBX_BUSY : Fld := ⟨0x150, 16, 16, .ro, 0x0, 0, 1, 1, 0, 0, 1⟩
/-- FAB.ELECTIONS.ELECTIONS (R483). -/
def FAB_ELECTIONS_ELECTIONS : Fld := ⟨0x154, 0, 16, .ro, 0x0, 0, 1, 1, 0, 0, 1⟩
/-- FAB.ELECTIONS.SUCCESSIONS (R483). -/
def FAB_ELECTIONS_SUCCESSIONS : Fld := ⟨0x154, 16, 16, .ro, 0x0, 0, 1, 1, 0, 0, 1⟩
/-- FAB.LAST_RECOMPUTE.US (R483). -/
def FAB_LAST_RECOMPUTE_US : Fld := ⟨0x158, 0, 32, .ro, 0x0, 0, 1, 1, 0, 0, 1⟩
/-- FAB.REST_STATUS.ANSWER (R483). -/
def FAB_REST_STATUS_ANSWER : Fld := ⟨0x15C, 0, 2, .ro, 0x0, 0, 1, 1, 0, 0, 1⟩
/-- FAB.REST_STATUS.REASON (R483). -/
def FAB_REST_STATUS_REASON : Fld := ⟨0x15C, 8, 8, .ro, 0x0, 0, 1, 1, 0, 0, 1⟩
/-- FAB.CNT_CLR.CLEAR (R483). -/
def FAB_CNT_CLR_CLEAR : Fld := ⟨0x160, 0, 1, .wo, 0x0, 0, 1, 1, 0, 0, 1⟩
/-- MET.NOW_LO.MET (R509). -/
def MET_NOW_LO_MET : Fld := ⟨0x100, 0, 32, .ro, 0x0, 0, 1, 1, 0, 0, 1⟩
/-- MET.NOW_HI.MET (R509). -/
def MET_NOW_HI_MET : Fld := ⟨0x104, 0, 32, .ro, 0x0, 0, 1, 1, 0, 0, 1⟩
/-- MET.CFG.ROOT_EN (R509). -/
def MET_CFG_ROOT_EN : Fld := ⟨0x108, 0, 1, .rw, 0x1, 0, 1, 1, 0, 0, 1⟩
/-- MET.CFG.BEACON_US (R509). -/
def MET_CFG_BEACON_US : Fld := ⟨0x108, 8, 8, .rw, 0xA, 0, 1, 1, 0, 0, 1⟩
/-- MET.CFG.HOLDOVER_MAX_MS (R509). -/
def MET_CFG_HOLDOVER_MAX_MS : Fld := ⟨0x108, 16, 16, .rw, 0x3E8, 0, 1, 1, 0, 0, 1⟩
/-- MET.CFG2.ROOT_LOSS (R509). -/
def MET_CFG2_ROOT_LOSS : Fld := ⟨0x10C, 0, 4, .rw, 0x5, 0, 1, 1, 0, 0, 1⟩
/-- MET.CFG2.SLEW_LIMIT_US (R509). -/
def MET_CFG2_SLEW_LIMIT_US : Fld := ⟨0x10C, 8, 16, .rw, 0xA, 0, 1, 1, 0, 0, 1⟩
/-- MET.STATUS.STATE (R509). -/
def MET_STATUS_STATE : Fld := ⟨0x110, 0, 3, .ro, 0x0, 0, 1, 1, 0, 0, 1⟩
/-- MET.STATUS.SYNC (R509). -/
def MET_STATUS_SYNC : Fld := ⟨0x110, 3, 1, .ro, 0x0, 0, 1, 1, 0, 0, 1⟩
/-- MET.STATUS.DEPTH (R509). -/
def MET_STATUS_DEPTH : Fld := ⟨0x110, 4, 4, .ro, 0xF, 0, 1, 1, 0, 0, 1⟩
/-- MET.STATUS.SRC_PORT (R509). -/
def MET_STATUS_SRC_PORT : Fld := ⟨0x110, 8, 5, .ro, 0x1F, 0, 1, 1, 0, 0, 1⟩
/-- MET.STATUS.SLEWING (R509). -/
def MET_STATUS_SLEWING : Fld := ⟨0x110, 13, 1, .ro, 0x0, 0, 1, 1, 0, 0, 1⟩
/-- MET.STATUS.ROOT (R509). -/
def MET_STATUS_ROOT : Fld := ⟨0x110, 16, 13, .ro, 0x0, 0, 1, 1, 0, 0, 1⟩
/-- MET.OFFSET.PS (R509). -/
def MET_OFFSET_PS : Fld := ⟨0x114, 0, 32, .ro, 0x0, 0, 1, 1, 0, 0, 1⟩
/-- MET.RATE.PPB (R509). -/
def MET_RATE_PPB : Fld := ⟨0x118, 0, 32, .ro, 0x0, 0, 1, 1, 0, 0, 1⟩
/-- MET.ERR_BOUND.NS (R509). -/
def MET_ERR_BOUND_NS : Fld := ⟨0x11C, 0, 16, .ro, 0xFFFF, 0, 1, 1, 0, 0, 1⟩
/-- MET.COUNTS.STEPS (R509). -/
def MET_COUNTS_STEPS : Fld := ⟨0x120, 0, 16, .ro, 0x0, 0, 1, 1, 0, 0, 1⟩
/-- MET.COUNTS.FREEZES (R509). -/
def MET_COUNTS_FREEZES : Fld := ⟨0x120, 16, 16, .ro, 0x0, 0, 1, 1, 0, 0, 1⟩
/-- MET.COUNTS2.HOLDOVERS (R509). -/
def MET_COUNTS2_HOLDOVERS : Fld := ⟨0x124, 0, 16, .ro, 0x0, 0, 1, 1, 0, 0, 1⟩
/-- MET.COUNTS2.ROOT_CHANGES (R509). -/
def MET_COUNTS2_ROOT_CHANGES : Fld := ⟨0x124, 16, 16, .ro, 0x0, 0, 1, 1, 0, 0, 1⟩
/-- MET.CHANGE_MET_LO.MET (R509). -/
def MET_CHANGE_MET_LO_MET : Fld := ⟨0x128, 0, 32, .ro, 0x0, 0, 1, 1, 0, 0, 1⟩
/-- MET.CHANGE_MET_HI.MET (R509). -/
def MET_CHANGE_MET_HI_MET : Fld := ⟨0x12C, 0, 32, .ro, 0x0, 0, 1, 1, 0, 0, 1⟩
/-- MET.CNT_CLR.CLEAR (R509). -/
def MET_CNT_CLR_CLEAR : Fld := ⟨0x130, 0, 1, .wo, 0x0, 0, 1, 1, 0, 0, 1⟩
/-- MET.ASYM.ASYM_PS (R509). -/
def MET_ASYM_ASYM_PS : Fld := ⟨0x180, 0, 16, .rw, 0x0, 4, 24, 1, 0, 0x0, 1⟩
/-- MET.ASYM.RESID_DM (R509). -/
def MET_ASYM_RESID_DM : Fld := ⟨0x180, 16, 8, .rw, 0x0, 4, 24, 1, 0, 0x0, 1⟩
/-- SNP.SRC_EN.FIRE (R510). -/
def SNP_SRC_EN_FIRE : Fld := ⟨0x100, 0, 1, .rw, 0x1, 0, 1, 1, 0, 0, 1⟩
/-- SNP.SRC_EN.MET (R510). -/
def SNP_SRC_EN_MET : Fld := ⟨0x100, 1, 1, .rw, 0x1, 0, 1, 1, 0, 0, 1⟩
/-- SNP.SRC_EN.ERROR (R510). -/
def SNP_SRC_EN_ERROR : Fld := ⟨0x100, 2, 1, .rw, 0x0, 0, 1, 1, 0, 0, 1⟩
/-- SNP.SRC_EN.PIN (R510). -/
def SNP_SRC_EN_PIN : Fld := ⟨0x100, 3, 1, .rw, 0x0, 0, 1, 1, 0, 0, 1⟩
/-- SNP.SRC_EN.REMOTE (R510). -/
def SNP_SRC_EN_REMOTE : Fld := ⟨0x100, 4, 1, .rw, 0x1, 0, 1, 1, 0, 0, 1⟩
/-- SNP.SCOPE.FIRE (R510). -/
def SNP_SCOPE_FIRE : Fld := ⟨0x104, 0, 1, .rw, 0x0, 0, 1, 1, 0, 0, 1⟩
/-- SNP.SCOPE.MET (R510). -/
def SNP_SCOPE_MET : Fld := ⟨0x104, 1, 1, .rw, 0x0, 0, 1, 1, 0, 0, 1⟩
/-- SNP.SCOPE.ERROR (R510). -/
def SNP_SCOPE_ERROR : Fld := ⟨0x104, 2, 1, .rw, 0x0, 0, 1, 1, 0, 0, 1⟩
/-- SNP.SCOPE.PIN (R510). -/
def SNP_SCOPE_PIN : Fld := ⟨0x104, 3, 1, .rw, 0x0, 0, 1, 1, 0, 0, 1⟩
/-- SNP.ERR_CLASSES.CLASSES (R510). -/
def SNP_ERR_CLASSES_CLASSES : Fld := ⟨0x108, 0, 5, .rw, 0x10, 0, 1, 1, 0, 0, 1⟩
/-- SNP.ERR_CLASSES.FORCE_HOLD (R510). -/
def SNP_ERR_CLASSES_FORCE_HOLD : Fld := ⟨0x108, 8, 1, .rw, 0x0, 0, 1, 1, 0, 0, 1⟩
/-- SNP.ERR_CLASSES.SNAP_OUT_EN (R510). -/
def SNP_ERR_CLASSES_SNAP_OUT_EN : Fld := ⟨0x108, 9, 1, .rw, 0x1, 0, 1, 1, 0, 0, 1⟩
/-- SNP.LEAD.NS (R510). -/
def SNP_LEAD_NS : Fld := ⟨0x10C, 0, 24, .rw, 0x4E20, 0, 1, 1, 0, 0, 1⟩
/-- SNP.MIN_GAP.US (R510). -/
def SNP_MIN_GAP_US : Fld := ⟨0x110, 0, 20, .rw, 0x64, 0, 1, 1, 0, 0, 1⟩
/-- SNP.FIRE.FIRE (R510). -/
def SNP_FIRE_FIRE : Fld := ⟨0x114, 0, 1, .wo, 0x0, 0, 1, 1, 0, 0, 1⟩
/-- SNP.FIRE.RELEASE_ALL (R510). -/
def SNP_FIRE_RELEASE_ALL : Fld := ⟨0x114, 1, 1, .wo, 0x0, 0, 1, 1, 0, 0, 1⟩
/-- SNP.FIRE.RELEASE_MACHINE (R510). -/
def SNP_FIRE_RELEASE_MACHINE : Fld := ⟨0x114, 2, 1, .wo, 0x0, 0, 1, 1, 0, 0, 1⟩
/-- SNP.AT_MET_LO.MET (R510). -/
def SNP_AT_MET_LO_MET : Fld := ⟨0x118, 0, 32, .rw, 0x0, 0, 1, 1, 0, 0, 1⟩
/-- SNP.AT_MET_HI.MET (R510). -/
def SNP_AT_MET_HI_MET : Fld := ⟨0x11C, 0, 32, .rw, 0x0, 0, 1, 1, 0, 0, 1⟩
/-- SNP.AT_CTRL.ARM (R510). -/
def SNP_AT_CTRL_ARM : Fld := ⟨0x120, 0, 1, .rw, 0x0, 0, 1, 1, 0, 0, 1⟩
/-- SNP.AT_CTRL.PERIOD_US (R510). -/
def SNP_AT_CTRL_PERIOD_US : Fld := ⟨0x120, 8, 24, .rw, 0x0, 0, 1, 1, 0, 0, 1⟩
/-- SNP.SEQ.SEQ (R510). -/
def SNP_SEQ_SEQ : Fld := ⟨0x124, 0, 32, .ro, 0x0, 0, 1, 1, 0, 0, 1⟩
/-- SNP.LAST.SOURCES (R510). -/
def SNP_LAST_SOURCES : Fld := ⟨0x128, 0, 5, .ro, 0x0, 0, 1, 1, 0, 0, 1⟩
/-- SNP.LAST.LATE (R510). -/
def SNP_LAST_LATE : Fld := ⟨0x128, 5, 1, .ro, 0x0, 0, 1, 1, 0, 0, 1⟩
/-- SNP.LAST.ORIGIN (R510). -/
def SNP_LAST_ORIGIN : Fld := ⟨0x128, 16, 13, .ro, 0x0, 0, 1, 1, 0, 0, 1⟩
/-- SNP.LAST_T_LO.MET (R510). -/
def SNP_LAST_T_LO_MET : Fld := ⟨0x12C, 0, 32, .ro, 0x0, 0, 1, 1, 0, 0, 1⟩
/-- SNP.LAST_T_HI.MET (R510). -/
def SNP_LAST_T_HI_MET : Fld := ⟨0x130, 0, 32, .ro, 0x0, 0, 1, 1, 0, 0, 1⟩
/-- SNP.LAST_LATCH_LO.MET (R510). -/
def SNP_LAST_LATCH_LO_MET : Fld := ⟨0x134, 0, 32, .ro, 0x0, 0, 1, 1, 0, 0, 1⟩
/-- SNP.LAST_LATCH_HI.MET (R510). -/
def SNP_LAST_LATCH_HI_MET : Fld := ⟨0x138, 0, 32, .ro, 0x0, 0, 1, 1, 0, 0, 1⟩
/-- SNP.ORIGIN_SEQ.SEQ (R510). -/
def SNP_ORIGIN_SEQ_SEQ : Fld := ⟨0x13C, 0, 32, .ro, 0x0, 0, 1, 1, 0, 0, 1⟩
/-- SNP.PENDING.COUNT (R510). -/
def SNP_PENDING_COUNT : Fld := ⟨0x140, 0, 3, .ro, 0x0, 0, 1, 1, 0, 0, 1⟩
/-- SNP.EXCESS.COUNT (R510). -/
def SNP_EXCESS_COUNT : Fld := ⟨0x144, 0, 16, .ro, 0x0, 0, 1, 1, 0, 0, 1⟩
/-- SNP.PEND_FULL.COUNT (R510). -/
def SNP_PEND_FULL_COUNT : Fld := ⟨0x144, 16, 16, .ro, 0x0, 0, 1, 1, 0, 0, 1⟩
/-- SNP.LATE_COUNT.COUNT (R510). -/
def SNP_LATE_COUNT_COUNT : Fld := ⟨0x148, 0, 16, .ro, 0x0, 0, 1, 1, 0, 0, 1⟩
/-- SNP.SEQ_OUT.SEQ (R510). -/
def SNP_SEQ_OUT_SEQ : Fld := ⟨0x148, 16, 16, .ro, 0x0, 0, 1, 1, 0, 0, 1⟩
/-- SNP.CNT_CLR.CLEAR (R510). -/
def SNP_CNT_CLR_CLEAR : Fld := ⟨0x14C, 0, 1, .wo, 0x0, 0, 1, 1, 0, 0, 1⟩
/-- SNP.HELD_PAGES.COUNT (R510). -/
def SNP_HELD_PAGES_COUNT : Fld := ⟨0x150, 0, 12, .ro, 0x0, 0, 1, 1, 0, 0, 1⟩
/-- DH.TIMING_H.ACTIVE (R541). -/
def DH_TIMING_H_ACTIVE : Fld := ⟨0x100, 0, 16, .rw, 0x0, 0, 1, 1, 0, 0, 1⟩
/-- DH.TIMING_H.TOTAL (R541). -/
def DH_TIMING_H_TOTAL : Fld := ⟨0x100, 16, 16, .rw, 0x0, 0, 1, 1, 0, 0, 1⟩
/-- DH.TIMING_H2.SYNC (R541). -/
def DH_TIMING_H2_SYNC : Fld := ⟨0x104, 0, 16, .rw, 0x0, 0, 1, 1, 0, 0, 1⟩
/-- DH.TIMING_H2.BACK (R541). -/
def DH_TIMING_H2_BACK : Fld := ⟨0x104, 16, 16, .rw, 0x0, 0, 1, 1, 0, 0, 1⟩
/-- DH.TIMING_V.ACTIVE (R541). -/
def DH_TIMING_V_ACTIVE : Fld := ⟨0x108, 0, 16, .rw, 0x0, 0, 1, 1, 0, 0, 1⟩
/-- DH.TIMING_V.TOTAL (R541). -/
def DH_TIMING_V_TOTAL : Fld := ⟨0x108, 16, 16, .rw, 0x0, 0, 1, 1, 0, 0, 1⟩
/-- DH.TIMING_V2.SYNC (R541). -/
def DH_TIMING_V2_SYNC : Fld := ⟨0x10C, 0, 16, .rw, 0x0, 0, 1, 1, 0, 0, 1⟩
/-- DH.TIMING_V2.BACK (R541). -/
def DH_TIMING_V2_BACK : Fld := ⟨0x10C, 16, 16, .rw, 0x0, 0, 1, 1, 0, 0, 1⟩
/-- DH.SYNC_POL.HPOL (R541). -/
def DH_SYNC_POL_HPOL : Fld := ⟨0x110, 0, 1, .rw, 0x0, 0, 1, 1, 0, 0, 1⟩
/-- DH.SYNC_POL.VPOL (R541). -/
def DH_SYNC_POL_VPOL : Fld := ⟨0x110, 1, 1, .rw, 0x0, 0, 1, 1, 0, 0, 1⟩
/-- DH.PIXCLK.HZ (R541). -/
def DH_PIXCLK_HZ : Fld := ⟨0x114, 0, 32, .rw, 0x0, 0, 1, 1, 0, 0, 1⟩
/-- DH.FETCH.LEAD (R541). -/
def DH_FETCH_LEAD : Fld := ⟨0x118, 0, 4, .rw, 0x3, 0, 1, 1, 0, 0, 1⟩
/-- DH.FETCH.PLAN_LAYERS (R541). -/
def DH_FETCH_PLAN_LAYERS : Fld := ⟨0x118, 8, 4, .rw, 0x2, 0, 1, 1, 0, 0, 1⟩
/-- DH.FETCH.PLAN_BPP (R541). -/
def DH_FETCH_PLAN_BPP : Fld := ⟨0x118, 12, 2, .rw, 0x1, 0, 1, 1, 0, 0, 1⟩
/-- DH.BG.R (R541). -/
def DH_BG_R : Fld := ⟨0x11C, 0, 10, .rw, 0x0, 0, 1, 1, 0, 0, 1⟩
/-- DH.BG.G (R541). -/
def DH_BG_G : Fld := ⟨0x11C, 10, 10, .rw, 0x0, 0, 1, 1, 0, 0, 1⟩
/-- DH.BG.B (R541). -/
def DH_BG_B : Fld := ⟨0x11C, 20, 10, .rw, 0x0, 0, 1, 1, 0, 0, 1⟩
/-- DH.GENLOCK.SOURCE (R541). -/
def DH_GENLOCK_SOURCE : Fld := ⟨0x120, 0, 2, .rw, 0x0, 0, 1, 1, 0, 0, 1⟩
/-- DH.GENLOCK.EDGE (R541). -/
def DH_GENLOCK_EDGE : Fld := ⟨0x120, 2, 1, .rw, 0x0, 0, 1, 1, 0, 0, 1⟩
/-- DH.GENLOCK.RATIO (R541). -/
def DH_GENLOCK_RATIO : Fld := ⟨0x120, 3, 3, .rw, 0x1, 0, 1, 1, 0, 0, 1⟩
/-- DH.GENLOCK.JUMP_EN (R541). -/
def DH_GENLOCK_JUMP_EN : Fld := ⟨0x120, 6, 1, .rw, 0x1, 0, 1, 1, 0, 0, 1⟩
/-- DH.GENLOCK.LOCK_TOL_NS (R541). -/
def DH_GENLOCK_LOCK_TOL_NS : Fld := ⟨0x120, 16, 16, .rw, 0x32, 0, 1, 1, 0, 0, 1⟩
/-- DH.GL_OFFSET.NS (R541). -/
def DH_GL_OFFSET_NS : Fld := ⟨0x124, 0, 32, .rw, 0x0, 0, 1, 1, 0, 0, 1⟩
/-- DH.GL_PERIOD.PERIOD (R541). -/
def DH_GL_PERIOD_PERIOD : Fld := ⟨0x128, 0, 32, .rw, 0x0, 0, 1, 1, 0, 0, 1⟩
/-- DH.GL_T0_LO.MET (R541). -/
def DH_GL_T0_LO_MET : Fld := ⟨0x12C, 0, 32, .rw, 0x0, 0, 1, 1, 0, 0, 1⟩
/-- DH.GL_T0_HI.MET (R541). -/
def DH_GL_T0_HI_MET : Fld := ⟨0x130, 0, 32, .rw, 0x0, 0, 1, 1, 0, 0, 1⟩
/-- DH.HEADOK.ARM (R541). -/
def DH_HEADOK_ARM : Fld := ⟨0x134, 0, 1, .mgmt, 0x0, 0, 1, 1, 0, 0, 1⟩
/-- DH.HEADOK.LATCH (R541). -/
def DH_HEADOK_LATCH : Fld := ⟨0x134, 1, 1, .mgmt, 0x0, 0, 1, 1, 0, 0, 1⟩
/-- DH.HEADOK.LOCK_REQ (R541). -/
def DH_HEADOK_LOCK_REQ : Fld := ⟨0x134, 2, 1, .mgmt, 0x0, 0, 1, 1, 0, 0, 1⟩
/-- DH.HEADOK.REARM (R541). -/
def DH_HEADOK_REARM : Fld := ⟨0x134, 3, 1, .womgmt, 0x0, 0, 1, 1, 0, 0, 1⟩
/-- DH.HEADOK.FORCE_RELEASE (R541). -/
def DH_HEADOK_FORCE_RELEASE : Fld := ⟨0x134, 4, 1, .mgmt, 0x0, 0, 1, 1, 0, 0, 1⟩
/-- DH.HEADOK.RECOVER (R541). -/
def DH_HEADOK_RECOVER : Fld := ⟨0x134, 8, 4, .mgmt, 0x2, 0, 1, 1, 0, 0, 1⟩
/-- DH.STATUS.STATE (R541). -/
def DH_STATUS_STATE : Fld := ⟨0x138, 0, 2, .ro, 0x0, 0, 1, 1, 0, 0, 1⟩
/-- DH.STATUS.MODE_PENDING (R541). -/
def DH_STATUS_MODE_PENDING : Fld := ⟨0x138, 2, 1, .ro, 0x0, 0, 1, 1, 0, 0, 1⟩
/-- DH.STATUS.IN_VBLANK (R541). -/
def DH_STATUS_IN_VBLANK : Fld := ⟨0x138, 3, 1, .ro, 0x0, 0, 1, 1, 0, 0, 1⟩
/-- DH.STATUS.HEADOK_ON (R541). -/
def DH_STATUS_HEADOK_ON : Fld := ⟨0x138, 4, 1, .ro, 0x0, 0, 1, 1, 0, 0, 1⟩
/-- DH.STATUS.LATCHED (R541). -/
def DH_STATUS_LATCHED : Fld := ⟨0x138, 5, 1, .ro, 0x0, 0, 1, 1, 0, 0, 1⟩
/-- DH.STATUS.REL_CAUSE (R541). -/
def DH_STATUS_REL_CAUSE : Fld := ⟨0x138, 8, 6, .ro, 0x1, 0, 1, 1, 0, 0, 1⟩
/-- DH.POS.LINE (R541). -/
def DH_POS_LINE : Fld := ⟨0x13C, 0, 16, .ro, 0x0, 0, 1, 1, 0, 0, 1⟩
/-- DH.POS.PIXEL (R541). -/
def DH_POS_PIXEL : Fld := ⟨0x13C, 16, 16, .ro, 0x0, 0, 1, 1, 0, 0, 1⟩
/-- DH.FRAME_COUNT.COUNT (R541). -/
def DH_FRAME_COUNT_COUNT : Fld := ⟨0x140, 0, 32, .ro, 0x0, 0, 1, 1, 0, 0, 1⟩
/-- DH.FRAME_MET_LO.MET (R541). -/
def DH_FRAME_MET_LO_MET : Fld := ⟨0x144, 0, 32, .ro, 0x0, 0, 1, 1, 0, 0, 1⟩
/-- DH.FRAME_MET_HI.MET (R541). -/
def DH_FRAME_MET_HI_MET : Fld := ⟨0x148, 0, 32, .ro, 0x0, 0, 1, 1, 0, 0, 1⟩
/-- DH.LATE.LINES (R541). -/
def DH_LATE_LINES : Fld := ⟨0x14C, 0, 32, .ro, 0x0, 0, 1, 1, 0, 0, 1⟩
/-- DH.UNDERRUN.LINES (R541). -/
def DH_UNDERRUN_LINES : Fld := ⟨0x150, 0, 32, .ro, 0x0, 0, 1, 1, 0, 0, 1⟩
/-- DH.BAD_FRAMES.FRAMES (R541). -/
def DH_BAD_FRAMES_FRAMES : Fld := ⟨0x154, 0, 16, .ro, 0x0, 0, 1, 1, 0, 0, 1⟩
/-- DH.BAD_FRAMES.RELEASES (R541). -/
def DH_BAD_FRAMES_RELEASES : Fld := ⟨0x154, 16, 16, .ro, 0x0, 0, 1, 1, 0, 0, 1⟩
/-- DH.GL_STATUS.STATE (R541). -/
def DH_GL_STATUS_STATE : Fld := ⟨0x158, 0, 3, .ro, 0x0, 0, 1, 1, 0, 0, 1⟩
/-- DH.GL_STATUS.RANGE (R541). -/
def DH_GL_STATUS_RANGE : Fld := ⟨0x158, 3, 1, .ro, 0x0, 0, 1, 1, 0, 0, 1⟩
/-- DH.GL_PHASE.NS (R541). -/
def DH_GL_PHASE_NS : Fld := ⟨0x15C, 0, 32, .ro, 0x0, 0, 1, 1, 0, 0, 1⟩
/-- DH.GL_PULL.PPB (R541). -/
def DH_GL_PULL_PPB : Fld := ⟨0x160, 0, 32, .ro, 0x0, 0, 1, 1, 0, 0, 1⟩
/-- DH.GL_COUNTS.SHORT (R541). -/
def DH_GL_COUNTS_SHORT : Fld := ⟨0x164, 0, 8, .ro, 0x0, 0, 1, 1, 0, 0, 1⟩
/-- DH.GL_COUNTS.MISSING (R541). -/
def DH_GL_COUNTS_MISSING : Fld := ⟨0x164, 8, 8, .ro, 0x0, 0, 1, 1, 0, 0, 1⟩
/-- DH.GL_COUNTS.RANGE (R541). -/
def DH_GL_COUNTS_RANGE : Fld := ⟨0x164, 16, 8, .ro, 0x0, 0, 1, 1, 0, 0, 1⟩
/-- DH.GL_COUNTS.JUMPS (R541). -/
def DH_GL_COUNTS_JUMPS : Fld := ⟨0x164, 24, 8, .ro, 0x0, 0, 1, 1, 0, 0, 1⟩
/-- DH.GL_MET_LO.MET (R541). -/
def DH_GL_MET_LO_MET : Fld := ⟨0x168, 0, 32, .ro, 0x0, 0, 1, 1, 0, 0, 1⟩
/-- DH.GL_MET_HI.MET (R541). -/
def DH_GL_MET_HI_MET : Fld := ⟨0x16C, 0, 32, .ro, 0x0, 0, 1, 1, 0, 0, 1⟩
/-- DH.START_FAIL.CAUSE (R541). -/
def DH_START_FAIL_CAUSE : Fld := ⟨0x170, 0, 2, .ro, 0x0, 0, 1, 1, 0, 0, 1⟩
/-- DH.CNT_CLR.CLEAR (R541). -/
def DH_CNT_CLR_CLEAR : Fld := ⟨0x174, 0, 1, .wo, 0x0, 0, 1, 1, 0, 0, 1⟩
/-- DH.PLL_A.MUL_INT (R542). -/
def DH_PLL_A_MUL_INT : Fld := ⟨0x400, 0, 12, .rw, 0x0, 0, 1, 1, 0, 0, 1⟩
/-- DH.PLL_A.PRE_DIV (R542). -/
def DH_PLL_A_PRE_DIV : Fld := ⟨0x400, 16, 4, .rw, 0x0, 0, 1, 1, 0, 0, 1⟩
/-- DH.PLL_A.POST_DIV (R542). -/
def DH_PLL_A_POST_DIV : Fld := ⟨0x400, 24, 4, .rw, 0x0, 0, 1, 1, 0, 0, 1⟩
/-- DH.PLL_B.MUL_FRAC (R542). -/
def DH_PLL_B_MUL_FRAC : Fld := ⟨0x404, 0, 32, .rw, 0x0, 0, 1, 1, 0, 0, 1⟩
/-- DH.GL_LOOP.GAIN (R542). -/
def DH_GL_LOOP_GAIN : Fld := ⟨0x408, 0, 8, .rw, 0xC0, 0, 1, 1, 0, 0, 1⟩
/-- DH.GL_LOOP.PULL_PPM (R542). -/
def DH_GL_LOOP_PULL_PPM : Fld := ⟨0x408, 8, 16, .rw, 0x3E8, 0, 1, 1, 0, 0, 1⟩
/-- DH.GL_LIMITS.MIN_PCT (R542). -/
def DH_GL_LIMITS_MIN_PCT : Fld := ⟨0x40C, 0, 8, .rw, 0x5A, 0, 1, 1, 0, 0, 1⟩
/-- DH.GL_LIMITS.MISS (R542). -/
def DH_GL_LIMITS_MISS : Fld := ⟨0x40C, 8, 4, .rw, 0x3, 0, 1, 1, 0, 0, 1⟩
/-- DH.GL_LIMITS.RANGE_PPM (R542). -/
def DH_GL_LIMITS_RANGE_PPM : Fld := ⟨0x40C, 16, 16, .rw, 0x7D0, 0, 1, 1, 0, 0, 1⟩
/-- DH.GL_JUMP.THRESH_US (R542). -/
def DH_GL_JUMP_THRESH_US : Fld := ⟨0x410, 0, 16, .rw, 0x64, 0, 1, 1, 0, 0, 1⟩
/-- DH.LS.RESERVE (R542). -/
def DH_LS_RESERVE : Fld := ⟨0x414, 0, 9, .rw, 0x0, 0, 1, 1, 0, 0, 1⟩
/-- DH.FETCH_X.OUTSTANDING (R542). -/
def DH_FETCH_X_OUTSTANDING : Fld := ⟨0x418, 0, 8, .rw, 0x40, 0, 1, 1, 0, 0, 1⟩
/-- DPTX.LINK_CFG.MAX_RATE (R544). -/
def DPTX_LINK_CFG_MAX_RATE : Fld := ⟨0x100, 0, 3, .rw, 0x6, 0, 1, 1, 0, 0, 1⟩
/-- DPTX.LINK_CFG.MAX_LANES (R544). -/
def DPTX_LINK_CFG_MAX_LANES : Fld := ⟨0x100, 4, 2, .rw, 0x2, 0, 1, 1, 0, 0, 1⟩
/-- DPTX.LINK_CFG.UHBR_EN (R544). -/
def DPTX_LINK_CFG_UHBR_EN : Fld := ⟨0x100, 8, 1, .rw, 0x1, 0, 1, 1, 0, 0, 1⟩
/-- DPTX.LINK_CFG.FALLBACK_EN (R544). -/
def DPTX_LINK_CFG_FALLBACK_EN : Fld := ⟨0x100, 9, 1, .rw, 0x1, 0, 1, 1, 0, 0, 1⟩
/-- DPTX.OUT_FMT.COLOUR (R544). -/
def DPTX_OUT_FMT_COLOUR : Fld := ⟨0x104, 0, 2, .rw, 0x0, 0, 1, 1, 0, 0, 1⟩
/-- DPTX.OUT_FMT.BPC (R544). -/
def DPTX_OUT_FMT_BPC : Fld := ⟨0x104, 2, 2, .rw, 0x1, 0, 1, 1, 0, 0, 1⟩
/-- DPTX.OUT_FMT.DSC_EN (R544). -/
def DPTX_OUT_FMT_DSC_EN : Fld := ⟨0x104, 4, 1, .rw, 0x0, 0, 1, 1, 0, 0, 1⟩
/-- DPTX.OUT_FMT.DSC_BPP (R544). -/
def DPTX_OUT_FMT_DSC_BPP : Fld := ⟨0x104, 5, 9, .rw, 0xC0, 0, 1, 1, 0, 0, 1⟩
/-- DPTX.OUT_FMT.DSC_SLICES (R544). -/
def DPTX_OUT_FMT_DSC_SLICES : Fld := ⟨0x104, 16, 2, .rw, 0x1, 0, 1, 1, 0, 0, 1⟩
/-- DPTX.HPD.LEVEL (R544). -/
def DPTX_HPD_LEVEL : Fld := ⟨0x108, 0, 1, .ro, 0x0, 0, 1, 1, 0, 0, 1⟩
/-- DPTX.HPD.SINK (R544). -/
def DPTX_HPD_SINK : Fld := ⟨0x108, 1, 1, .ro, 0x0, 0, 1, 1, 0, 0, 1⟩
/-- DPTX.LINK_STATUS.STATE (R544). -/
def DPTX_LINK_STATUS_STATE : Fld := ⟨0x10C, 0, 3, .ro, 0x0, 0, 1, 1, 0, 0, 1⟩
/-- DPTX.LINK_STATUS.RATE (R544). -/
def DPTX_LINK_STATUS_RATE : Fld := ⟨0x10C, 4, 3, .ro, 0x0, 0, 1, 1, 0, 0, 1⟩
/-- DPTX.LINK_STATUS.LANES (R544). -/
def DPTX_LINK_STATUS_LANES : Fld := ⟨0x10C, 8, 2, .ro, 0x0, 0, 1, 1, 0, 0, 1⟩
/-- DPTX.LINK_STATUS.UHBR (R544). -/
def DPTX_LINK_STATUS_UHBR : Fld := ⟨0x10C, 10, 1, .ro, 0x0, 0, 1, 1, 0, 0, 1⟩
/-- DPTX.LINK_STATUS.DSC (R544). -/
def DPTX_LINK_STATUS_DSC : Fld := ⟨0x10C, 11, 1, .ro, 0x0, 0, 1, 1, 0, 0, 1⟩
/-- DPTX.LINK_STATUS.CAUSE (R544). -/
def DPTX_LINK_STATUS_CAUSE : Fld := ⟨0x10C, 12, 4, .ro, 0x0, 0, 1, 1, 0, 0, 1⟩
/-- DPTX.RETRAIN.REQ (R544). -/
def DPTX_RETRAIN_REQ : Fld := ⟨0x110, 0, 1, .wo, 0x0, 0, 1, 1, 0, 0, 1⟩
/-- DPTX.AUX_CMD.REQ (R544). -/
def DPTX_AUX_CMD_REQ : Fld := ⟨0x114, 0, 2, .wo, 0x0, 0, 1, 1, 0, 0, 1⟩
/-- DPTX.AUX_CMD.ADDR (R544). -/
def DPTX_AUX_CMD_ADDR : Fld := ⟨0x114, 2, 20, .wo, 0x0, 0, 1, 1, 0, 0, 1⟩
/-- DPTX.AUX_CMD.LEN_M1 (R544). -/
def DPTX_AUX_CMD_LEN_M1 : Fld := ⟨0x114, 22, 5, .wo, 0x0, 0, 1, 1, 0, 0, 1⟩
/-- DPTX.AUX_DATA.DATA (R544). -/
def DPTX_AUX_DATA_DATA : Fld := ⟨0x118, 0, 32, .rw, 0x0, 4, 4, 1, 0, 0x0, 1⟩
/-- DPTX.AUX_STATUS.BUSY (R544). -/
def DPTX_AUX_STATUS_BUSY : Fld := ⟨0x128, 0, 1, .ro, 0x0, 0, 1, 1, 0, 0, 1⟩
/-- DPTX.AUX_STATUS.REPLY (R544). -/
def DPTX_AUX_STATUS_REPLY : Fld := ⟨0x128, 1, 3, .ro, 0x0, 0, 1, 1, 0, 0, 1⟩
/-- DPTX.AUX_STATUS.DONE (R544). -/
def DPTX_AUX_STATUS_DONE : Fld := ⟨0x128, 4, 5, .ro, 0x0, 0, 1, 1, 0, 0, 1⟩
/-- DPTX.COUNTS.TRAINS (R544). -/
def DPTX_COUNTS_TRAINS : Fld := ⟨0x12C, 0, 8, .ro, 0x0, 0, 1, 1, 0, 0, 1⟩
/-- DPTX.COUNTS.LOSSES (R544). -/
def DPTX_COUNTS_LOSSES : Fld := ⟨0x12C, 8, 8, .ro, 0x0, 0, 1, 1, 0, 0, 1⟩
/-- DPTX.COUNTS.HPD_IRQS (R544). -/
def DPTX_COUNTS_HPD_IRQS : Fld := ⟨0x12C, 16, 8, .ro, 0x0, 0, 1, 1, 0, 0, 1⟩
/-- DPTX.COUNTS.HPD_SHORT (R544). -/
def DPTX_COUNTS_HPD_SHORT : Fld := ⟨0x12C, 24, 8, .ro, 0x0, 0, 1, 1, 0, 0, 1⟩
/-- DPTX.COUNTS2.UNPLUGS (R544). -/
def DPTX_COUNTS2_UNPLUGS : Fld := ⟨0x130, 0, 8, .ro, 0x0, 0, 1, 1, 0, 0, 1⟩
/-- DPTX.COUNTS2.TRAIN_FAILS (R544). -/
def DPTX_COUNTS2_TRAIN_FAILS : Fld := ⟨0x130, 8, 8, .ro, 0x0, 0, 1, 1, 0, 0, 1⟩
/-- DPTX.COUNTS2.AUX_TIMEOUTS (R544). -/
def DPTX_COUNTS2_AUX_TIMEOUTS : Fld := ⟨0x130, 16, 8, .ro, 0x0, 0, 1, 1, 0, 0, 1⟩
/-- DPTX.CNT_CLR.CLEAR (R544). -/
def DPTX_CNT_CLR_CLEAR : Fld := ⟨0x134, 0, 1, .wo, 0x0, 0, 1, 1, 0, 0, 1⟩
/-- DPTX.VALID_MET_LO.MET (R544). -/
def DPTX_VALID_MET_LO_MET : Fld := ⟨0x138, 0, 32, .ro, 0x0, 0, 1, 1, 0, 0, 1⟩
/-- DPTX.VALID_MET_HI.MET (R544). -/
def DPTX_VALID_MET_HI_MET : Fld := ⟨0x13C, 0, 32, .ro, 0x0, 0, 1, 1, 0, 0, 1⟩
/-- LAYER.STATE.COND (R584). -/
def LAYER_STATE_COND : Fld := ⟨0x100, 0, 2, .ro, 0x0, 0, 1, 1, 0, 0, 1⟩
/-- LAYER.STATE.HEAD (R584). -/
def LAYER_STATE_HEAD : Fld := ⟨0x100, 2, 2, .ro, 0x0, 0, 1, 1, 0, 0, 1⟩
/-- LAYER.STATE.Z (R584). -/
def LAYER_STATE_Z : Fld := ⟨0x100, 4, 4, .ro, 0x0, 0, 1, 1, 0, 0, 1⟩
/-- LAYER.STATE.FMT (R584). -/
def LAYER_STATE_FMT : Fld := ⟨0x100, 8, 4, .ro, 0x0, 0, 1, 1, 0, 0, 1⟩
/-- LAYER.STATE.ALPHA (R584). -/
def LAYER_STATE_ALPHA : Fld := ⟨0x100, 12, 2, .ro, 0x0, 0, 1, 1, 0, 0, 1⟩
/-- LAYER.STATE.PLANE_ALPHA (R584). -/
def LAYER_STATE_PLANE_ALPHA : Fld := ⟨0x100, 16, 8, .ro, 0x0, 0, 1, 1, 0, 0, 1⟩
/-- LAYER.STATE.ICSC_EN (R584). -/
def LAYER_STATE_ICSC_EN : Fld := ⟨0x100, 24, 1, .ro, 0x0, 0, 1, 1, 0, 0, 1⟩
/-- LAYER.BASE_LO.BASE (R584). -/
def LAYER_BASE_LO_BASE : Fld := ⟨0x104, 0, 32, .ro, 0x0, 0, 1, 1, 0, 0, 1⟩
/-- LAYER.BASE_HI.BASE (R584). -/
def LAYER_BASE_HI_BASE : Fld := ⟨0x108, 0, 32, .ro, 0x0, 0, 1, 1, 0, 0, 1⟩
/-- LAYER.STRIDE.BYTES (R584). -/
def LAYER_STRIDE_BYTES : Fld := ⟨0x10C, 0, 18, .ro, 0x0, 0, 1, 1, 0, 0, 1⟩
/-- LAYER.SRC_XY.X (R584). -/
def LAYER_SRC_XY_X : Fld := ⟨0x110, 0, 16, .ro, 0x0, 0, 1, 1, 0, 0, 1⟩
/-- LAYER.SRC_XY.Y (R584). -/
def LAYER_SRC_XY_Y : Fld := ⟨0x110, 16, 16, .ro, 0x0, 0, 1, 1, 0, 0, 1⟩
/-- LAYER.SRC_WH.W (R584). -/
def LAYER_SRC_WH_W : Fld := ⟨0x114, 0, 16, .ro, 0x0, 0, 1, 1, 0, 0, 1⟩
/-- LAYER.SRC_WH.H (R584). -/
def LAYER_SRC_WH_H : Fld := ⟨0x114, 16, 16, .ro, 0x0, 0, 1, 1, 0, 0, 1⟩
/-- LAYER.DST_XY.X (R584). -/
def LAYER_DST_XY_X : Fld := ⟨0x118, 0, 16, .ro, 0x0, 0, 1, 1, 0, 0, 1⟩
/-- LAYER.DST_XY.Y (R584). -/
def LAYER_DST_XY_Y : Fld := ⟨0x118, 16, 16, .ro, 0x0, 0, 1, 1, 0, 0, 1⟩
/-- LAYER.DST_WH.W (R584). -/
def LAYER_DST_WH_W : Fld := ⟨0x11C, 0, 16, .ro, 0x0, 0, 1, 1, 0, 0, 1⟩
/-- LAYER.DST_WH.H (R584). -/
def LAYER_DST_WH_H : Fld := ⟨0x11C, 16, 16, .ro, 0x0, 0, 1, 1, 0, 0, 1⟩
/-- LAYER.STEP_X.STEP (R584). -/
def LAYER_STEP_X_STEP : Fld := ⟨0x120, 0, 32, .ro, 0x0, 0, 1, 1, 0, 0, 1⟩
/-- LAYER.STEP_Y.STEP (R584). -/
def LAYER_STEP_Y_STEP : Fld := ⟨0x124, 0, 32, .ro, 0x0, 0, 1, 1, 0, 0, 1⟩
/-- LAYER.ICSC.VALUE (R584). -/
def LAYER_ICSC_VALUE : Fld := ⟨0x128, 0, 16, .ro, 0x0, 4, 12, 2, 16, 0x0, 1⟩
/-- LAYER.FRAMES_SHOWN.COUNT (R584). -/
def LAYER_FRAMES_SHOWN_COUNT : Fld := ⟨0x140, 0, 32, .ro, 0x0, 0, 1, 1, 0, 0, 1⟩
/-- LAYER.GRANT_MET_LO.MET (R584). -/
def LAYER_GRANT_MET_LO_MET : Fld := ⟨0x144, 0, 32, .ro, 0x0, 0, 1, 1, 0, 0, 1⟩
/-- LAYER.GRANT_MET_HI.MET (R584). -/
def LAYER_GRANT_MET_HI_MET : Fld := ⟨0x148, 0, 32, .ro, 0x0, 0, 1, 1, 0, 0, 1⟩
/-- PROT.CTRL.SHOW (R584). -/
def PROT_CTRL_SHOW : Fld := ⟨0x100, 0, 1, .staged, 0x0, 0, 1, 1, 0, 0, 1⟩
/-- PROT.CTRL.FMT (R584). -/
def PROT_CTRL_FMT : Fld := ⟨0x100, 1, 2, .staged, 0x0, 0, 1, 1, 0, 0, 1⟩
/-- PROT.CTRL.PREMULT (R584). -/
def PROT_CTRL_PREMULT : Fld := ⟨0x100, 3, 1, .staged, 0x0, 0, 1, 1, 0, 0, 1⟩
/-- PROT.CTRL.REP_X (R584). -/
def PROT_CTRL_REP_X : Fld := ⟨0x100, 4, 2, .staged, 0x0, 0, 1, 1, 0, 0, 1⟩
/-- PROT.CTRL.REP_Y (R584). -/
def PROT_CTRL_REP_Y : Fld := ⟨0x100, 6, 2, .staged, 0x0, 0, 1, 1, 0, 0, 1⟩
/-- PROT.POS.X (R584). -/
def PROT_POS_X : Fld := ⟨0x104, 0, 16, .staged, 0x0, 0, 1, 1, 0, 0, 1⟩
/-- PROT.POS.Y (R584). -/
def PROT_POS_Y : Fld := ⟨0x104, 16, 16, .staged, 0x0, 0, 1, 1, 0, 0, 1⟩
/-- PROT.SIZE.W (R584). -/
def PROT_SIZE_W : Fld := ⟨0x108, 0, 16, .staged, 0x0, 0, 1, 1, 0, 0, 1⟩
/-- PROT.SIZE.H (R584). -/
def PROT_SIZE_H : Fld := ⟨0x108, 16, 16, .staged, 0x0, 0, 1, 1, 0, 0, 1⟩
/-- PROT.OFFSET.OFFSET (R584). -/
def PROT_OFFSET_OFFSET : Fld := ⟨0x10C, 4, 18, .staged, 0x0, 0, 1, 1, 0, 0, 1⟩
/-- PROT.STRIDE.STRIDE (R584). -/
def PROT_STRIDE_STRIDE : Fld := ⟨0x110, 4, 14, .staged, 0x0, 0, 1, 1, 0, 0, 1⟩
/-- PROT.APPLY.APPLY (R584). -/
def PROT_APPLY_APPLY : Fld := ⟨0x114, 0, 1, .wo, 0x0, 0, 1, 1, 0, 0, 1⟩
/-- PROT.WIN_ADDR.ADDR (R584). -/
def PROT_WIN_ADDR_ADDR : Fld := ⟨0x118, 2, 20, .rw, 0x0, 0, 1, 1, 0, 0, 1⟩
/-- PROT.WIN_DATA.DATA (R584). -/
def PROT_WIN_DATA_DATA : Fld := ⟨0x11C, 0, 32, .wo, 0x0, 0, 1, 1, 0, 0, 1⟩
/-- PROT.LOAD_SRC_LO.SRC (R584). -/
def PROT_LOAD_SRC_LO_SRC : Fld := ⟨0x120, 8, 24, .rw, 0x0, 0, 1, 1, 0, 0, 1⟩
/-- PROT.LOAD_SRC_HI.SRC (R584). -/
def PROT_LOAD_SRC_HI_SRC : Fld := ⟨0x124, 0, 11, .rw, 0x0, 0, 1, 1, 0, 0, 1⟩
/-- PROT.LOAD_DST.DST (R584). -/
def PROT_LOAD_DST_DST : Fld := ⟨0x128, 8, 14, .rw, 0x0, 0, 1, 1, 0, 0, 1⟩
/-- PROT.LOAD_LEN.LEN (R584). -/
def PROT_LOAD_LEN_LEN : Fld := ⟨0x12C, 8, 15, .rw, 0x0, 0, 1, 1, 0, 0, 1⟩
/-- PROT.LOAD_CTRL.START (R584). -/
def PROT_LOAD_CTRL_START : Fld := ⟨0x130, 0, 1, .wo, 0x0, 0, 1, 1, 0, 0, 1⟩
/-- PROT.STATUS.APPLY_PENDING (R584). -/
def PROT_STATUS_APPLY_PENDING : Fld := ⟨0x134, 0, 1, .ro, 0x0, 0, 1, 1, 0, 0, 1⟩
/-- PROT.STATUS.SHOWN (R584). -/
def PROT_STATUS_SHOWN : Fld := ⟨0x134, 1, 1, .ro, 0x0, 0, 1, 1, 0, 0, 1⟩
/-- PROT.STATUS.BUSY (R584). -/
def PROT_STATUS_BUSY : Fld := ⟨0x134, 2, 1, .ro, 0x0, 0, 1, 1, 0, 0, 1⟩
/-- PROT.STATUS.ERROR (R584). -/
def PROT_STATUS_ERROR : Fld := ⟨0x134, 3, 1, .ro, 0x0, 0, 1, 1, 0, 0, 1⟩
/-- PROT.STATUS.BAD_APPLY (R584). -/
def PROT_STATUS_BAD_APPLY : Fld := ⟨0x134, 4, 1, .ro, 0x0, 0, 1, 1, 0, 0, 1⟩
/-- SIG.CTRL.POLICY (R585). -/
def SIG_CTRL_POLICY : Fld := ⟨0x100, 0, 2, .staged, 0x1, 0, 1, 1, 0, 0, 1⟩
/-- SIG.CTRL.MISS_N (R585). -/
def SIG_CTRL_MISS_N : Fld := ⟨0x100, 4, 4, .staged, 0x1, 0, 1, 1, 0, 0, 1⟩
/-- SIG.APPLY.APPLY (R585). -/
def SIG_APPLY_APPLY : Fld := ⟨0x104, 0, 1, .wo, 0x0, 0, 1, 1, 0, 0, 1⟩
/-- SIG.STATUS.MISMATCH (R585). -/
def SIG_STATUS_MISMATCH : Fld := ⟨0x108, 0, 1, .ro, 0x0, 0, 1, 1, 0, 0, 1⟩
/-- SIG.STATUS.APPLY_PENDING (R585). -/
def SIG_STATUS_APPLY_PENDING : Fld := ⟨0x108, 1, 1, .ro, 0x0, 0, 1, 1, 0, 0, 1⟩
/-- SIG.STATUS.BAD_APPLY (R585). -/
def SIG_STATUS_BAD_APPLY : Fld := ⟨0x108, 2, 1, .ro, 0x0, 0, 1, 1, 0, 0, 1⟩
/-- SIG.STATUS.CHECKING (R585). -/
def SIG_STATUS_CHECKING : Fld := ⟨0x108, 3, 1, .ro, 0x0, 0, 1, 1, 0, 0, 1⟩
/-- SIG.MATCH.MATCH (R585). -/
def SIG_MATCH_MATCH : Fld := ⟨0x10C, 0, 16, .ro, 0x0, 0, 1, 1, 0, 0, 1⟩
/-- SIG.MATCH.CHECKED (R585). -/
def SIG_MATCH_CHECKED : Fld := ⟨0x10C, 16, 16, .ro, 0x0, 0, 1, 1, 0, 0, 1⟩
/-- SIG.MISMATCH_FRAMES.COUNT (R585). -/
def SIG_MISMATCH_FRAMES_COUNT : Fld := ⟨0x110, 0, 32, .ro, 0x0, 0, 1, 1, 0, 0, 1⟩
/-- SIG.FIRST_MET_LO.MET (R585). -/
def SIG_FIRST_MET_LO_MET : Fld := ⟨0x114, 0, 32, .ro, 0x0, 0, 1, 1, 0, 0, 1⟩
/-- SIG.FIRST_MET_HI.MET (R585). -/
def SIG_FIRST_MET_HI_MET : Fld := ⟨0x118, 0, 32, .ro, 0x0, 0, 1, 1, 0, 0, 1⟩
/-- SIG.CNT_CLR.CLEAR (R585). -/
def SIG_CNT_CLR_CLEAR : Fld := ⟨0x11C, 0, 1, .wo, 0x0, 0, 1, 1, 0, 0, 1⟩
/-- SIG.REF.CRC (R585). -/
def SIG_REF_CRC : Fld := ⟨0x200, 0, 32, .staged, 0x0, 4, 16, 1, 0, 0x0, 1⟩
/-- SIG.RXY.X (R585). -/
def SIG_RXY_X : Fld := ⟨0x240, 0, 16, .staged, 0x0, 4, 16, 1, 0, 0x0, 1⟩
/-- SIG.RXY.Y (R585). -/
def SIG_RXY_Y : Fld := ⟨0x240, 16, 16, .staged, 0x0, 4, 16, 1, 0, 0x0, 1⟩
/-- SIG.RWH.W (R585). -/
def SIG_RWH_W : Fld := ⟨0x280, 0, 16, .staged, 0x0, 4, 16, 1, 0, 0x0, 1⟩
/-- SIG.RWH.H (R585). -/
def SIG_RWH_H : Fld := ⟨0x280, 16, 16, .staged, 0x0, 4, 16, 1, 0, 0x0, 1⟩
/-- SIG.RCTRL.EN (R585). -/
def SIG_RCTRL_EN : Fld := ⟨0x2C0, 0, 16, .staged, 0x0, 0, 1, 1, 0, 0, 1⟩
/-- SIG.RCTRL.LEARN (R585). -/
def SIG_RCTRL_LEARN : Fld := ⟨0x2C0, 16, 16, .staged, 0x0, 0, 1, 1, 0, 0, 1⟩
/-- SIG.LAST_CRC.CRC (R585). -/
def SIG_LAST_CRC_CRC : Fld := ⟨0x300, 0, 32, .ro, 0x0, 4, 16, 1, 0, 0x0, 1⟩
/-- SIG.CRC_INIT.INIT (R586). -/
def SIG_CRC_INIT_INIT : Fld := ⟨0x400, 0, 32, .rw, 0xFFFFFFFF, 0, 1, 1, 0, 0, 1⟩
/-- SIG.CRC_XOROUT.XOROUT (R586). -/
def SIG_CRC_XOROUT_XOROUT : Fld := ⟨0x404, 0, 32, .rw, 0xFFFFFFFF, 0, 1, 1, 0, 0, 1⟩
/-- SIG.CHAN_MASK.MASK (R586). -/
def SIG_CHAN_MASK_MASK : Fld := ⟨0x408, 0, 3, .rw, 0x0, 0, 1, 1, 0, 0, 1⟩
/-- CMT.ADDR_LO.ADDR (R587). -/
def CMT_ADDR_LO_ADDR : Fld := ⟨0x100, 6, 26, .rw, 0x0, 0, 1, 1, 0, 0x20, 4⟩
/-- CMT.ADDR_HI.ADDR (R587). -/
def CMT_ADDR_HI_ADDR : Fld := ⟨0x104, 0, 11, .rw, 0x0, 0, 1, 1, 0, 0x20, 4⟩
/-- CMT.CMD.GO (R587). -/
def CMT_CMD_GO : Fld := ⟨0x108, 0, 1, .wo, 0x0, 0, 1, 1, 0, 0x20, 4⟩
/-- CMT.CMD.CANCEL (R587). -/
def CMT_CMD_CANCEL : Fld := ⟨0x108, 1, 1, .wo, 0x0, 0, 1, 1, 0, 0x20, 4⟩
/-- CMT.CMD.TAG (R587). -/
def CMT_CMD_TAG : Fld := ⟨0x108, 16, 16, .wo, 0x0, 0, 1, 1, 0, 0x20, 4⟩
/-- CMT.STATUS.STATE (R587). -/
def CMT_STATUS_STATE : Fld := ⟨0x10C, 0, 2, .ro, 0x0, 0, 1, 1, 0, 0x20, 4⟩
/-- CMT.STATUS.RESULT (R587). -/
def CMT_STATUS_RESULT : Fld := ⟨0x10C, 4, 4, .ro, 0x0, 0, 1, 1, 0, 0x20, 4⟩
/-- CMT.STATUS.WAITED (R587). -/
def CMT_STATUS_WAITED : Fld := ⟨0x10C, 8, 8, .ro, 0x0, 0, 1, 1, 0, 0x20, 4⟩
/-- CMT.STATUS.TAG (R587). -/
def CMT_STATUS_TAG : Fld := ⟨0x10C, 16, 16, .ro, 0x0, 0, 1, 1, 0, 0x20, 4⟩
/-- CMT.DETAIL.DETAIL (R587). -/
def CMT_DETAIL_DETAIL : Fld := ⟨0x110, 0, 24, .ro, 0x0, 0, 1, 1, 0, 0x20, 4⟩
/-- CMT.APPLIED.COUNT (R587). -/
def CMT_APPLIED_COUNT : Fld := ⟨0x114, 0, 32, .ro, 0x0, 0, 1, 1, 0, 0x20, 4⟩
/-- CMT.APPLY_FRAME.FRAME (R587). -/
def CMT_APPLY_FRAME_FRAME : Fld := ⟨0x118, 0, 32, .ro, 0x0, 0, 1, 1, 0, 0x20, 4⟩
/-- CMT.COUNTS.TIMEOUTS (R587). -/
def CMT_COUNTS_TIMEOUTS : Fld := ⟨0x11C, 0, 16, .ro, 0x0, 0, 1, 1, 0, 0x20, 4⟩
/-- CMT.COUNTS.REFUSALS (R587). -/
def CMT_COUNTS_REFUSALS : Fld := ⟨0x11C, 16, 16, .ro, 0x0, 0, 1, 1, 0, 0x20, 4⟩
/-- CMT.FENCE_ALLOC.SLOT (R587). -/
def CMT_FENCE_ALLOC_SLOT : Fld := ⟨0x180, 0, 6, .wo, 0x0, 0, 1, 1, 0, 0, 1⟩
/-- CMT.FENCE_ALLOC.ANY (R587). -/
def CMT_FENCE_ALLOC_ANY : Fld := ⟨0x180, 6, 1, .wo, 0x0, 0, 1, 1, 0, 0, 1⟩
/-- CMT.FENCE_ALLOC.FREE (R587). -/
def CMT_FENCE_ALLOC_FREE : Fld := ⟨0x180, 8, 1, .wo, 0x0, 0, 1, 1, 0, 0, 1⟩
/-- CMT.FENCE_COUNTS.DENIED (R587). -/
def CMT_FENCE_COUNTS_DENIED : Fld := ⟨0x184, 0, 16, .ro, 0x0, 0, 1, 1, 0, 0, 1⟩
/-- CMT.FENCE_COUNTS.REFUSED (R587). -/
def CMT_FENCE_COUNTS_REFUSED : Fld := ⟨0x184, 16, 16, .ro, 0x0, 0, 1, 1, 0, 0, 1⟩
/-- CMT.FENCE_SIGNALS.COUNT (R587). -/
def CMT_FENCE_SIGNALS_COUNT : Fld := ⟨0x188, 0, 32, .ro, 0x0, 0, 1, 1, 0, 0, 1⟩
/-- CMT.CNT_CLR.CLEAR (R587). -/
def CMT_CNT_CLR_CLEAR : Fld := ⟨0x18C, 0, 1, .wo, 0x0, 0, 1, 1, 0, 0, 1⟩
/-- CMT.POOL_VID.HEAD (R587). -/
def CMT_POOL_VID_HEAD : Fld := ⟨0x190, 0, 3, .ro, 0x0, 4, 8, 8, 4, 0x0, 1⟩
/-- CMT.POOL_VID.HELD (R587). -/
def CMT_POOL_VID_HELD : Fld := ⟨0x190, 3, 1, .ro, 0x0, 4, 8, 8, 4, 0x0, 1⟩
/-- CMT.POOL_GFX.HEAD (R587). -/
def CMT_POOL_GFX_HEAD : Fld := ⟨0x194, 0, 3, .ro, 0x0, 4, 16, 8, 4, 0x0, 1⟩
/-- CMT.POOL_GFX.HELD (R587). -/
def CMT_POOL_GFX_HELD : Fld := ⟨0x194, 3, 1, .ro, 0x0, 4, 16, 8, 4, 0x0, 1⟩
/-- CMT.FENCE.VALUE (R587). -/
def CMT_FENCE_VALUE : Fld := ⟨0x200, 0, 32, .rw, 0x0, 4, 64, 1, 0, 0x0, 1⟩
/-- CMT.FENCE_OWNER.HOLDER (R587). -/
def CMT_FENCE_OWNER_HOLDER : Fld := ⟨0x300, 0, 6, .ro, 0x0, 4, 64, 4, 8, 0x0, 1⟩
/-- CMT.FENCE_OWNER.HELD (R587). -/
def CMT_FENCE_OWNER_HELD : Fld := ⟨0x300, 7, 1, .ro, 0x0, 4, 64, 4, 8, 0x0, 1⟩
/-- CMT.OCSC_NOW.VALUE (R587). -/
def CMT_OCSC_NOW_VALUE : Fld := ⟨0x340, 0, 16, .ro, 0x0, 4, 48, 2, 16, 0x0, 1⟩
/-- CMT.CUTOFF.LINES (R588). -/
def CMT_CUTOFF_LINES : Fld := ⟨0x400, 0, 8, .rw, 0x1, 4, 4, 1, 0, 0x0, 1⟩
/-- CMT.RECORD.TIMEOUT_US (R588). -/
def CMT_RECORD_TIMEOUT_US : Fld := ⟨0x410, 0, 16, .rw, 0x32, 0, 1, 1, 0, 0, 1⟩
/-- BLT.CTRL.OP (R605). -/
def BLT_CTRL_OP : Fld := ⟨0x100, 0, 2, .rw, 0x0, 0, 1, 1, 0, 0, 1⟩
/-- BLT.CTRL.Y_DIR (R605). -/
def BLT_CTRL_Y_DIR : Fld := ⟨0x100, 2, 1, .rw, 0x0, 0, 1, 1, 0, 0, 1⟩
/-- BLT.CTRL.CSC_EN (R605). -/
def BLT_CTRL_CSC_EN : Fld := ⟨0x100, 3, 1, .rw, 0x0, 0, 1, 1, 0, 0, 1⟩
/-- BLT.CTRL.ALPHA (R605). -/
def BLT_CTRL_ALPHA : Fld := ⟨0x100, 4, 2, .rw, 0x0, 0, 1, 1, 0, 0, 1⟩
/-- BLT.CTRL.SRC_FMT (R605). -/
def BLT_CTRL_SRC_FMT : Fld := ⟨0x100, 8, 4, .rw, 0x0, 0, 1, 1, 0, 0, 1⟩
/-- BLT.CTRL.DST_FMT (R605). -/
def BLT_CTRL_DST_FMT : Fld := ⟨0x100, 12, 4, .rw, 0x0, 0, 1, 1, 0, 0, 1⟩
/-- BLT.CTRL.PLANE_ALPHA (R605). -/
def BLT_CTRL_PLANE_ALPHA : Fld := ⟨0x100, 24, 8, .rw, 0x0, 0, 1, 1, 0, 0, 1⟩
/-- BLT.SRC_LO.SRC (R605). -/
def BLT_SRC_LO_SRC : Fld := ⟨0x104, 0, 32, .rw, 0x0, 0, 1, 1, 0, 0, 1⟩
/-- BLT.SRC_HI.SRC (R605). -/
def BLT_SRC_HI_SRC : Fld := ⟨0x108, 0, 11, .rw, 0x0, 0, 1, 1, 0, 0, 1⟩
/-- BLT.SRC_STRIDE.BYTES (R605). -/
def BLT_SRC_STRIDE_BYTES : Fld := ⟨0x10C, 0, 18, .rw, 0x0, 0, 1, 1, 0, 0, 1⟩
/-- BLT.DST_LO.DST (R605). -/
def BLT_DST_LO_DST : Fld := ⟨0x110, 0, 32, .rw, 0x0, 0, 1, 1, 0, 0, 1⟩
/-- BLT.DST_HI.DST (R605). -/
def BLT_DST_HI_DST : Fld := ⟨0x114, 0, 11, .rw, 0x0, 0, 1, 1, 0, 0, 1⟩
/-- BLT.DST_STRIDE.BYTES (R605). -/
def BLT_DST_STRIDE_BYTES : Fld := ⟨0x118, 0, 18, .rw, 0x0, 0, 1, 1, 0, 0, 1⟩
/-- BLT.SIZE.W (R605). -/
def BLT_SIZE_W : Fld := ⟨0x11C, 0, 16, .rw, 0x0, 0, 1, 1, 0, 0, 1⟩
/-- BLT.SIZE.H (R605). -/
def BLT_SIZE_H : Fld := ⟨0x11C, 16, 16, .rw, 0x0, 0, 1, 1, 0, 0, 1⟩
/-- BLT.FILL_LO.PIXEL (R605). -/
def BLT_FILL_LO_PIXEL : Fld := ⟨0x120, 0, 32, .rw, 0x0, 0, 1, 1, 0, 0, 1⟩
/-- BLT.FILL_HI.PIXEL (R605). -/
def BLT_FILL_HI_PIXEL : Fld := ⟨0x124, 0, 32, .rw, 0x0, 0, 1, 1, 0, 0, 1⟩
/-- BLT.CSC.VALUE (R605). -/
def BLT_CSC_VALUE : Fld := ⟨0x128, 0, 16, .rw, 0x0, 4, 12, 2, 16, 0x0, 1⟩
/-- BLT.WATERMARK.WM_LINE (R605). -/
def BLT_WATERMARK_WM_LINE : Fld := ⟨0x140, 0, 16, .rw, 0x0, 0, 1, 1, 0, 0, 1⟩
/-- BLT.WATERMARK.WM_EVERY (R605). -/
def BLT_WATERMARK_WM_EVERY : Fld := ⟨0x140, 16, 16, .rw, 0x0, 0, 1, 1, 0, 0, 1⟩
/-- BLT.SIGNAL_LO.DESC (R605). -/
def BLT_SIGNAL_LO_DESC : Fld := ⟨0x144, 0, 32, .rw, 0x0, 0, 1, 1, 0, 0, 1⟩
/-- BLT.SIGNAL_HI.DESC (R605). -/
def BLT_SIGNAL_HI_DESC : Fld := ⟨0x148, 0, 32, .rw, 0x0, 0, 1, 1, 0, 0, 1⟩
/-- BLT.SIG_CTRL.EN (R605). -/
def BLT_SIG_CTRL_EN : Fld := ⟨0x14C, 0, 1, .rw, 0x0, 0, 1, 1, 0, 0, 1⟩
/-- BLT.OUT.OUTSTANDING (R605). -/
def BLT_OUT_OUTSTANDING : Fld := ⟨0x150, 0, 7, .rw, 0x20, 0, 1, 1, 0, 0, 1⟩
/-- BLT.STATUS.LAST_WM (R605). -/
def BLT_STATUS_LAST_WM : Fld := ⟨0x154, 0, 16, .ro, 0x0, 0, 1, 1, 0, 0, 1⟩
/-- BLT.COUNTS.DONE (R605). -/
def BLT_COUNTS_DONE : Fld := ⟨0x158, 0, 16, .ro, 0x0, 0, 1, 1, 0, 0, 1⟩
/-- BLT.COUNTS.FAILED (R605). -/
def BLT_COUNTS_FAILED : Fld := ⟨0x158, 16, 16, .ro, 0x0, 0, 1, 1, 0, 0, 1⟩
/-- BLT.START_MET_LO.MET (R605). -/
def BLT_START_MET_LO_MET : Fld := ⟨0x15C, 0, 32, .ro, 0x0, 0, 1, 1, 0, 0, 1⟩
/-- BLT.START_MET_HI.MET (R605). -/
def BLT_START_MET_HI_MET : Fld := ⟨0x160, 0, 32, .ro, 0x0, 0, 1, 1, 0, 0, 1⟩
/-- BLT.END_MET_LO.MET (R605). -/
def BLT_END_MET_LO_MET : Fld := ⟨0x164, 0, 32, .ro, 0x0, 0, 1, 1, 0, 0, 1⟩
/-- BLT.END_MET_HI.MET (R605). -/
def BLT_END_MET_HI_MET : Fld := ⟨0x168, 0, 32, .ro, 0x0, 0, 1, 1, 0, 0, 1⟩
/-- BLT.CNT_CLR.CLEAR (R605). -/
def BLT_CNT_CLR_CLEAR : Fld := ⟨0x16C, 0, 1, .wo, 0x0, 0, 1, 1, 0, 0, 1⟩
/-- CSI.CFG.LANES (R631). -/
def CSI_CFG_LANES : Fld := ⟨0x100, 0, 2, .rw, 0x2, 0, 1, 1, 0, 0, 1⟩
/-- CSI.CFG.VC (R631). -/
def CSI_CFG_VC : Fld := ⟨0x100, 2, 4, .rw, 0x0, 0, 1, 1, 0, 0, 1⟩
/-- CSI.CFG.DT (R631). -/
def CSI_CFG_DT : Fld := ⟨0x100, 8, 6, .rw, 0x2C, 0, 1, 1, 0, 0, 1⟩
/-- CSI.CFG.EMB_EN (R631). -/
def CSI_CFG_EMB_EN : Fld := ⟨0x100, 14, 1, .rw, 0x0, 0, 1, 1, 0, 0, 1⟩
/-- CSI.CFG.RATE_MBPS (R631). -/
def CSI_CFG_RATE_MBPS : Fld := ⟨0x100, 16, 16, .rw, 0x9C4, 0, 1, 1, 0, 0, 1⟩
/-- CSI.GEOM.WIDTH (R631). -/
def CSI_GEOM_WIDTH : Fld := ⟨0x104, 0, 16, .rw, 0x0, 0, 1, 1, 0, 0, 1⟩
/-- CSI.GEOM.HEIGHT (R631). -/
def CSI_GEOM_HEIGHT : Fld := ⟨0x104, 16, 16, .rw, 0x0, 0, 1, 1, 0, 0, 1⟩
/-- CSI.LANE_MAP.MAP (R631). -/
def CSI_LANE_MAP_MAP : Fld := ⟨0x108, 0, 8, .rw, 0xE4, 0, 1, 1, 0, 0, 1⟩
/-- CSI.LANE_MAP.POL_INV (R631). -/
def CSI_LANE_MAP_POL_INV : Fld := ⟨0x108, 8, 4, .rw, 0x0, 0, 1, 1, 0, 0, 1⟩
/-- CSI.STATUS.IN_FRAME (R631). -/
def CSI_STATUS_IN_FRAME : Fld := ⟨0x10C, 0, 1, .ro, 0x0, 0, 1, 1, 0, 0, 1⟩
/-- CSI.STATUS.LANE_SYNC (R631). -/
def CSI_STATUS_LANE_SYNC : Fld := ⟨0x10C, 1, 4, .ro, 0x0, 0, 1, 1, 0, 0, 1⟩
/-- CSI.STATUS.CLK_ACTIVE (R631). -/
def CSI_STATUS_CLK_ACTIVE : Fld := ⟨0x10C, 5, 1, .ro, 0x0, 0, 1, 1, 0, 0, 1⟩
/-- CSI.FRAME_NUM.NUM (R631). -/
def CSI_FRAME_NUM_NUM : Fld := ⟨0x110, 0, 16, .ro, 0x0, 0, 1, 1, 0, 0, 1⟩
/-- CSI.COUNTS.LANE_ERR (R631). -/
def CSI_COUNTS_LANE_ERR : Fld := ⟨0x114, 0, 8, .ro, 0x0, 0, 1, 1, 0, 0, 1⟩
/-- CSI.COUNTS.ECC_CORR (R631). -/
def CSI_COUNTS_ECC_CORR : Fld := ⟨0x114, 8, 8, .ro, 0x0, 0, 1, 1, 0, 0, 1⟩
/-- CSI.COUNTS.ECC_UNCORR (R631). -/
def CSI_COUNTS_ECC_UNCORR : Fld := ⟨0x114, 16, 8, .ro, 0x0, 0, 1, 1, 0, 0, 1⟩
/-- CSI.COUNTS.CRC_ERR (R631). -/
def CSI_COUNTS_CRC_ERR : Fld := ⟨0x114, 24, 8, .ro, 0x0, 0, 1, 1, 0, 0, 1⟩
/-- CSI.COUNTS2.LEN_ERR (R631). -/
def CSI_COUNTS2_LEN_ERR : Fld := ⟨0x118, 0, 8, .ro, 0x0, 0, 1, 1, 0, 0, 1⟩
/-- CSI.COUNTS2.OTHER_VC (R631). -/
def CSI_COUNTS2_OTHER_VC : Fld := ⟨0x118, 8, 8, .ro, 0x0, 0, 1, 1, 0, 0, 1⟩
/-- CSI.COUNTS2.OTHER_DT (R631). -/
def CSI_COUNTS2_OTHER_DT : Fld := ⟨0x118, 16, 8, .ro, 0x0, 0, 1, 1, 0, 0, 1⟩
/-- CSI.COUNTS2.FE_MISSING (R631). -/
def CSI_COUNTS2_FE_MISSING : Fld := ⟨0x118, 24, 8, .ro, 0x0, 0, 1, 1, 0, 0, 1⟩
/-- CSI.LINES_LAST.LINES (R631). -/
def CSI_LINES_LAST_LINES : Fld := ⟨0x11C, 0, 16, .ro, 0x0, 0, 1, 1, 0, 0, 1⟩
/-- CSI.FS_MET_LO.MET (R631). -/
def CSI_FS_MET_LO_MET : Fld := ⟨0x120, 0, 32, .ro, 0x0, 0, 1, 1, 0, 0, 1⟩
/-- CSI.FS_MET_HI.MET (R631). -/
def CSI_FS_MET_HI_MET : Fld := ⟨0x124, 0, 32, .ro, 0x0, 0, 1, 1, 0, 0, 1⟩
/-- CSI.CNT_CLR.CLEAR (R631). -/
def CSI_CNT_CLR_CLEAR : Fld := ⟨0x128, 0, 1, .wo, 0x0, 0, 1, 1, 0, 0, 1⟩
/-- ISP.APPLY.APPLY (R632). -/
def ISP_APPLY_APPLY : Fld := ⟨0x100, 0, 1, .wo, 0x0, 0, 1, 1, 0, 0, 1⟩
/-- ISP.STATUS.STATE (R632). -/
def ISP_STATUS_STATE : Fld := ⟨0x104, 0, 3, .ro, 0x0, 0, 1, 1, 0, 0, 1⟩
/-- ISP.STATUS.APPLY_PENDING (R632). -/
def ISP_STATUS_APPLY_PENDING : Fld := ⟨0x104, 3, 1, .ro, 0x0, 0, 1, 1, 0, 0, 1⟩
/-- ISP.STATUS.BAD_APPLY (R632). -/
def ISP_STATUS_BAD_APPLY : Fld := ⟨0x104, 4, 1, .ro, 0x0, 0, 1, 1, 0, 0, 1⟩
/-- ISP.STATUS.BAD_CAUSE (R632). -/
def ISP_STATUS_BAD_CAUSE : Fld := ⟨0x104, 16, 12, .ro, 0x0, 0, 1, 1, 0, 0, 1⟩
/-- ISP.SEQ.SEQ (R632). -/
def ISP_SEQ_SEQ : Fld := ⟨0x108, 0, 32, .ro, 0x0, 0, 1, 1, 0, 0, 1⟩
/-- ISP.LAST_FLAGS.FLAGS (R632). -/
def ISP_LAST_FLAGS_FLAGS : Fld := ⟨0x10C, 0, 16, .ro, 0x0, 0, 1, 1, 0, 0, 1⟩
/-- ISP.DONE_MET_LO.MET (R632). -/
def ISP_DONE_MET_LO_MET : Fld := ⟨0x110, 0, 32, .ro, 0x0, 0, 1, 1, 0, 0, 1⟩
/-- ISP.DONE_MET_HI.MET (R632). -/
def ISP_DONE_MET_HI_MET : Fld := ⟨0x114, 0, 32, .ro, 0x0, 0, 1, 1, 0, 0, 1⟩
/-- ISP.COUNTS.CORRUPT (R632). -/
def ISP_COUNTS_CORRUPT : Fld := ⟨0x120, 0, 16, .ro, 0x0, 0, 1, 1, 0, 0, 1⟩
/-- ISP.COUNTS.OVERFLOW (R632). -/
def ISP_COUNTS_OVERFLOW : Fld := ⟨0x120, 16, 16, .ro, 0x0, 0, 1, 1, 0, 0, 1⟩
/-- ISP.COUNTS2.WRITE_ERR (R632). -/
def ISP_COUNTS2_WRITE_ERR : Fld := ⟨0x124, 0, 16, .ro, 0x0, 0, 1, 1, 0, 0, 1⟩
/-- ISP.COUNTS2.SIG_ERR (R632). -/
def ISP_COUNTS2_SIG_ERR : Fld := ⟨0x124, 16, 16, .ro, 0x0, 0, 1, 1, 0, 0, 1⟩
/-- ISP.CNT_CLR.CLEAR (R632). -/
def ISP_CNT_CLR_CLEAR : Fld := ⟨0x128, 0, 1, .wo, 0x0, 0, 1, 1, 0, 0, 1⟩
/-- ISP.CFG.CFA (R632). -/
def ISP_CFG_CFA : Fld := ⟨0x130, 0, 3, .staged, 0x0, 0, 1, 1, 0, 0, 1⟩
/-- ISP.CFG.NR_LEVEL (R632). -/
def ISP_CFG_NR_LEVEL : Fld := ⟨0x130, 3, 2, .staged, 0x1, 0, 1, 1, 0, 0, 1⟩
/-- ISP.CFG.TNR_EN (R632). -/
def ISP_CFG_TNR_EN : Fld := ⟨0x130, 5, 1, .staged, 0x1, 0, 1, 1, 0, 0, 1⟩
/-- ISP.CFG.GAMMA (R632). -/
def ISP_CFG_GAMMA : Fld := ⟨0x130, 6, 1, .staged, 0x0, 0, 1, 1, 0, 0, 1⟩
/-- ISP.CFG.TC (R632). -/
def ISP_CFG_TC : Fld := ⟨0x130, 8, 3, .staged, 0x3, 0, 1, 1, 0, 0, 1⟩
/-- ISP.CFG.CORRUPT_SIG (R632). -/
def ISP_CFG_CORRUPT_SIG : Fld := ⟨0x130, 11, 1, .staged, 0x1, 0, 1, 1, 0, 0, 1⟩
/-- ISP.BLACK.LEVEL (R632). -/
def ISP_BLACK_LEVEL : Fld := ⟨0x134, 0, 16, .staged, 0x0, 0, 1, 1, 0, 0, 1⟩
/-- ISP.WB.GAIN (R632). -/
def ISP_WB_GAIN : Fld := ⟨0x138, 0, 16, .staged, 0x1000, 4, 4, 2, 16, 0x0, 1⟩
/-- ISP.CCM.VALUE (R632). -/
def ISP_CCM_VALUE : Fld := ⟨0x140, 0, 16, .staged, 0x0, 4, 12, 2, 16, 0x0, 1⟩
/-- ISP.TNR_BASE_LO.TNR_BASE (R632). -/
def ISP_TNR_BASE_LO_TNR_BASE : Fld := ⟨0x158, 0, 32, .staged, 0x0, 0, 1, 1, 0, 0, 1⟩
/-- ISP.TNR_BASE_HI.TNR_BASE (R632). -/
def ISP_TNR_BASE_HI_TNR_BASE : Fld := ⟨0x15C, 0, 24, .staged, 0x0, 0, 1, 1, 0, 0, 1⟩
/-- ISP.STATS_ADDR_LO.STATS_ADDR (R632). -/
def ISP_STATS_ADDR_LO_STATS_ADDR : Fld := ⟨0x160, 0, 32, .staged, 0x0, 0, 1, 1, 0, 0, 1⟩
/-- ISP.STATS_ADDR_HI.STATS_ADDR (R632). -/
def ISP_STATS_ADDR_HI_STATS_ADDR : Fld := ⟨0x164, 0, 24, .staged, 0x0, 0, 1, 1, 0, 0, 1⟩
/-- ISP.RECORD_ADDR_LO.RECORD_ADDR (R632). -/
def ISP_RECORD_ADDR_LO_RECORD_ADDR : Fld := ⟨0x168, 0, 32, .staged, 0x0, 0, 1, 1, 0, 0, 1⟩
/-- ISP.RECORD_ADDR_HI.RECORD_ADDR (R632). -/
def ISP_RECORD_ADDR_HI_RECORD_ADDR : Fld := ⟨0x16C, 0, 24, .staged, 0x0, 0, 1, 1, 0, 0, 1⟩
/-- ISP.EMB_ADDR_LO.EMB_ADDR (R632). -/
def ISP_EMB_ADDR_LO_EMB_ADDR : Fld := ⟨0x170, 0, 32, .staged, 0x0, 0, 1, 1, 0, 0, 1⟩
/-- ISP.EMB_ADDR_HI.EMB_ADDR (R632). -/
def ISP_EMB_ADDR_HI_EMB_ADDR : Fld := ⟨0x174, 0, 24, .staged, 0x0, 0, 1, 1, 0, 0, 1⟩
/-- ISP.EMB_MAX.BYTES (R632). -/
def ISP_EMB_MAX_BYTES : Fld := ⟨0x178, 8, 9, .staged, 0x0, 0, 1, 1, 0, 0, 1⟩
/-- ISP.CTRL.EN (R632). -/
def ISP_CTRL_EN : Fld := ⟨0x180, 0, 1, .staged, 0x0, 0, 1, 1, 0, 0x40, 3⟩
/-- ISP.CTRL.FMT (R632). -/
def ISP_CTRL_FMT : Fld := ⟨0x180, 4, 4, .staged, 0x0, 0, 1, 1, 0, 0x40, 3⟩
/-- ISP.CTRL.FMT_HI (R632). -/
def ISP_CTRL_FMT_HI : Fld := ⟨0x180, 8, 1, .staged, 0x0, 0, 1, 1, 0, 0x40, 3⟩
/-- ISP.CTRL.NBUF (R632). -/
def ISP_CTRL_NBUF : Fld := ⟨0x180, 12, 4, .staged, 0x1, 0, 1, 1, 0, 0x40, 3⟩
/-- ISP.CTRL.SIG_EN (R632). -/
def ISP_CTRL_SIG_EN : Fld := ⟨0x180, 16, 1, .staged, 0x0, 0, 1, 1, 0, 0x40, 3⟩
/-- ISP.CTRL.CHANNELS (R632). -/
def ISP_CTRL_CHANNELS : Fld := ⟨0x180, 17, 1, .staged, 0x0, 0, 1, 1, 0, 0x40, 3⟩
/-- ISP.BASE_LO.BASE (R632). -/
def ISP_BASE_LO_BASE : Fld := ⟨0x184, 0, 32, .staged, 0x0, 0, 1, 1, 0, 0x40, 3⟩
/-- ISP.BASE_HI.BASE (R632). -/
def ISP_BASE_HI_BASE : Fld := ⟨0x188, 0, 24, .staged, 0x0, 0, 1, 1, 0, 0x40, 3⟩
/-- ISP.STRIDE.BYTES (R632). -/
def ISP_STRIDE_BYTES : Fld := ⟨0x18C, 0, 18, .staged, 0x0, 0, 1, 1, 0, 0x40, 3⟩
/-- ISP.BUF_STEP.BYTES (R632). -/
def ISP_BUF_STEP_BYTES : Fld := ⟨0x190, 0, 32, .staged, 0x0, 0, 1, 1, 0, 0x40, 3⟩
/-- ISP.CROP_XY.X (R632). -/
def ISP_CROP_XY_X : Fld := ⟨0x194, 0, 16, .staged, 0x0, 0, 1, 1, 0, 0x40, 3⟩
/-- ISP.CROP_XY.Y (R632). -/
def ISP_CROP_XY_Y : Fld := ⟨0x194, 16, 16, .staged, 0x0, 0, 1, 1, 0, 0x40, 3⟩
/-- ISP.CROP_WH.W (R632). -/
def ISP_CROP_WH_W : Fld := ⟨0x198, 0, 16, .staged, 0x0, 0, 1, 1, 0, 0x40, 3⟩
/-- ISP.CROP_WH.H (R632). -/
def ISP_CROP_WH_H : Fld := ⟨0x198, 16, 16, .staged, 0x0, 0, 1, 1, 0, 0x40, 3⟩
/-- ISP.OUT_WH.W (R632). -/
def ISP_OUT_WH_W : Fld := ⟨0x19C, 0, 16, .staged, 0x0, 0, 1, 1, 0, 0x40, 3⟩
/-- ISP.OUT_WH.H (R632). -/
def ISP_OUT_WH_H : Fld := ⟨0x19C, 16, 16, .staged, 0x0, 0, 1, 1, 0, 0x40, 3⟩
/-- ISP.OUT_WH.FX (R632). -/
def ISP_OUT_WH_FX : Fld := ⟨0x19C, 0, 8, .staged, 0x0, 0, 1, 1, 0, 0x40, 3⟩
/-- ISP.OUT_WH.FY (R632). -/
def ISP_OUT_WH_FY : Fld := ⟨0x19C, 8, 8, .staged, 0x0, 0, 1, 1, 0, 0x40, 3⟩
/-- ISP.SIGNAL_LO.DESC (R632). -/
def ISP_SIGNAL_LO_DESC : Fld := ⟨0x1A0, 0, 32, .staged, 0x0, 0, 1, 1, 0, 0x40, 3⟩
/-- ISP.SIGNAL_HI.DESC (R632). -/
def ISP_SIGNAL_HI_DESC : Fld := ⟨0x1A4, 0, 32, .staged, 0x0, 0, 1, 1, 0, 0x40, 3⟩
/-- ISP.SCALE.FP32 (R632). -/
def ISP_SCALE_FP32 : Fld := ⟨0x1A8, 0, 32, .staged, 0x3F800000, 0, 1, 1, 0, 0x40, 3⟩
/-- ISP.OFFSET.FP32 (R632). -/
def ISP_OFFSET_FP32 : Fld := ⟨0x1AC, 0, 32, .staged, 0x0, 0, 1, 1, 0, 0x40, 3⟩
/-- ISP.PLANE_STEP.BYTES (R632). -/
def ISP_PLANE_STEP_BYTES : Fld := ⟨0x1B0, 0, 32, .staged, 0x0, 0, 1, 1, 0, 0x40, 3⟩
/-- ISP.TRIG.SRC (R632). -/
def ISP_TRIG_SRC : Fld := ⟨0x280, 0, 2, .mgmt, 0x0, 0, 1, 1, 0, 0, 1⟩
/-- ISP.TRIG.HEAD (R632). -/
def ISP_TRIG_HEAD : Fld := ⟨0x280, 2, 2, .mgmt, 0x0, 0, 1, 1, 0, 0, 1⟩
/-- ISP.TRIG.WIDTH_US (R632). -/
def ISP_TRIG_WIDTH_US : Fld := ⟨0x280, 16, 16, .mgmt, 0xA, 0, 1, 1, 0, 0, 1⟩
/-- ISP.TRIG_PERIOD.PERIOD (R632). -/
def ISP_TRIG_PERIOD_PERIOD : Fld := ⟨0x284, 0, 32, .mgmt, 0x0, 0, 1, 1, 0, 0, 1⟩
/-- ISP.TRIG_T0_LO.MET (R632). -/
def ISP_TRIG_T0_LO_MET : Fld := ⟨0x288, 0, 32, .mgmt, 0x0, 0, 1, 1, 0, 0, 1⟩
/-- ISP.TRIG_T0_HI.MET (R632). -/
def ISP_TRIG_T0_HI_MET : Fld := ⟨0x28C, 0, 32, .mgmt, 0x0, 0, 1, 1, 0, 0, 1⟩
/-- ISP.TRIG_OFFSET.NS (R632). -/
def ISP_TRIG_OFFSET_NS : Fld := ⟨0x290, 0, 30, .mgmt, 0x0, 0, 1, 1, 0, 0, 1⟩
/-- ISP.SNR_W.W1 (R633). -/
def ISP_SNR_W_W1 : Fld := ⟨0x400, 0, 8, .rw, 0x0, 0, 1, 1, 0, 0, 1⟩
/-- ISP.SNR_W.W2 (R633). -/
def ISP_SNR_W_W2 : Fld := ⟨0x400, 8, 8, .rw, 0x0, 0, 1, 1, 0, 0, 1⟩
/-- ISP.SNR_W.RANGE (R633). -/
def ISP_SNR_W_RANGE : Fld := ⟨0x400, 16, 16, .rw, 0x0, 0, 1, 1, 0, 0, 1⟩
/-- ISP.TNR.STRENGTH (R633). -/
def ISP_TNR_STRENGTH : Fld := ⟨0x404, 0, 8, .rw, 0x0, 0, 1, 1, 0, 0, 1⟩
/-- ISP.TNR.MOTION (R633). -/
def ISP_TNR_MOTION : Fld := ⟨0x404, 16, 16, .rw, 0x0, 0, 1, 1, 0, 0, 1⟩
/-- ISP.TONE.VALUE (R633). -/
def ISP_TONE_VALUE : Fld := ⟨0x410, 0, 16, .rw, 0x0, 4, 65, 2, 16, 0x0, 1⟩
/-- ISP.OCSC_DISP.VALUE (R633). -/
def ISP_OCSC_DISP_VALUE : Fld := ⟨0x4A0, 0, 16, .rw, 0x0, 4, 12, 2, 16, 0x0, 1⟩
/-- ISP.OCSC_CODE.VALUE (R633). -/
def ISP_OCSC_CODE_VALUE : Fld := ⟨0x4C0, 0, 16, .rw, 0x0, 4, 12, 2, 16, 0x0, 1⟩
/-- ISP.OUT.OUTSTANDING (R633). -/
def ISP_OUT_OUTSTANDING : Fld := ⟨0x4E0, 0, 7, .rw, 0x20, 0, 1, 1, 0, 0, 1⟩
/-- HIF.LINK_STATUS.SPEED (R665). -/
def HIF_LINK_STATUS_SPEED : Fld := ⟨0x100, 0, 2, .ro, 0x0, 0, 1, 1, 0, 0, 1⟩
/-- HIF.LINK_STATUS.FLIT (R665). -/
def HIF_LINK_STATUS_FLIT : Fld := ⟨0x100, 2, 1, .ro, 0x0, 0, 1, 1, 0, 0, 1⟩
/-- HIF.LINK_STATUS.DL_ACTIVE (R665). -/
def HIF_LINK_STATUS_DL_ACTIVE : Fld := ⟨0x100, 3, 1, .ro, 0x0, 0, 1, 1, 0, 0, 1⟩
/-- HIF.LINK_STATUS.NUM_VFS (R665). -/
def HIF_LINK_STATUS_NUM_VFS : Fld := ⟨0x100, 8, 8, .ro, 0x0, 0, 1, 1, 0, 0, 1⟩
/-- HIF.LINK_CFG.MAX_SPEED (R665). -/
def HIF_LINK_CFG_MAX_SPEED : Fld := ⟨0x104, 0, 2, .rwl, 0x3, 0, 1, 1, 0, 0, 1⟩
/-- HIF.IRQ_CTRL.PF_MGMT (R665). -/
def HIF_IRQ_CTRL_PF_MGMT : Fld := ⟨0x108, 0, 1, .rw, 0x1, 0, 1, 1, 0, 0, 1⟩
/-- HIF.COUNTS.LINK_DOWNS (R665). -/
def HIF_COUNTS_LINK_DOWNS : Fld := ⟨0x10C, 0, 16, .ro, 0x0, 0, 1, 1, 0, 0, 1⟩
/-- HIF.COUNTS.TRAIN_FAILS (R665). -/
def HIF_COUNTS_TRAIN_FAILS : Fld := ⟨0x10C, 16, 16, .ro, 0x0, 0, 1, 1, 0, 0, 1⟩
/-- HIF.COUNTS2.UR_SENT (R665). -/
def HIF_COUNTS2_UR_SENT : Fld := ⟨0x110, 0, 16, .ro, 0x0, 0, 1, 1, 0, 0, 1⟩
/-- HIF.COUNTS2.CA_SENT (R665). -/
def HIF_COUNTS2_CA_SENT : Fld := ⟨0x110, 16, 16, .ro, 0x0, 0, 1, 1, 0, 0, 1⟩
/-- HIF.COUNTS3.POSTED_DROPS (R665). -/
def HIF_COUNTS3_POSTED_DROPS : Fld := ⟨0x114, 0, 16, .ro, 0x0, 0, 1, 1, 0, 0, 1⟩
/-- HIF.COUNTS3.HOST_FAULTS (R665). -/
def HIF_COUNTS3_HOST_FAULTS : Fld := ⟨0x114, 16, 16, .ro, 0x0, 0, 1, 1, 0, 0, 1⟩
/-- HIF.CNT_CLR.CLEAR (R665). -/
def HIF_CNT_CLR_CLEAR : Fld := ⟨0x118, 0, 1, .wo, 0x0, 0, 1, 1, 0, 0, 1⟩
/-- HIF.DOWN_MET_LO.MET (R665). -/
def HIF_DOWN_MET_LO_MET : Fld := ⟨0x11C, 0, 32, .ro, 0x0, 0, 1, 1, 0, 0, 1⟩
/-- HIF.DOWN_MET_HI.MET (R665). -/
def HIF_DOWN_MET_HI_MET : Fld := ⟨0x120, 0, 32, .ro, 0x0, 0, 1, 1, 0, 0, 1⟩
/-- HIF.ST_BASE_LO.BASE (R665). -/
def HIF_ST_BASE_LO_BASE : Fld := ⟨0x140, 12, 20, .rw, 0x0, 0, 1, 1, 0, 0x20, 3⟩
/-- HIF.ST_BASE_HI.BASE (R665). -/
def HIF_ST_BASE_HI_BASE : Fld := ⟨0x144, 0, 32, .rw, 0x0, 0, 1, 1, 0, 0x20, 3⟩
/-- HIF.ST_CTRL.EN (R665). -/
def HIF_ST_CTRL_EN : Fld := ⟨0x148, 0, 1, .rw, 0x0, 0, 1, 1, 0, 0x20, 3⟩
/-- HIF.ST_CTRL.POLICY (R665). -/
def HIF_ST_CTRL_POLICY : Fld := ⟨0x148, 1, 1, .rw, 0x1, 0, 1, 1, 0, 0x20, 3⟩
/-- HIF.ST_CTRL.VECTOR (R665). -/
def HIF_ST_CTRL_VECTOR : Fld := ⟨0x148, 2, 8, .rw, 0x0, 0, 1, 1, 0, 0x20, 3⟩
/-- HIF.ST_CTRL.IRQ_EN (R665). -/
def HIF_ST_CTRL_IRQ_EN : Fld := ⟨0x148, 10, 1, .rw, 0x0, 0, 1, 1, 0, 0x20, 3⟩
/-- HIF.ST_CTRL.FLUSH_MS (R665). -/
def HIF_ST_CTRL_FLUSH_MS : Fld := ⟨0x148, 16, 8, .rw, 0xA, 0, 1, 1, 0, 0x20, 3⟩
/-- HIF.ST_CTRL.PERIOD_MS (R665). -/
def HIF_ST_CTRL_PERIOD_MS : Fld := ⟨0x148, 24, 8, .rw, 0x64, 0, 1, 1, 0, 0x20, 3⟩
/-- HIF.ST_RING.N (R665). -/
def HIF_ST_RING_N : Fld := ⟨0x14C, 0, 12, .rw, 0x10, 0, 1, 1, 0, 0x20, 3⟩
/-- HIF.ST_RING.HEAD (R665). -/
def HIF_ST_RING_HEAD : Fld := ⟨0x14C, 16, 12, .rw, 0x0, 0, 1, 1, 0, 0x20, 3⟩
/-- HIF.ST_TAIL.TAIL (R665). -/
def HIF_ST_TAIL_TAIL : Fld := ⟨0x150, 0, 12, .ro, 0x0, 0, 1, 1, 0, 0x20, 3⟩
/-- HIF.ST_TADDR_LO.ADDR (R665). -/
def HIF_ST_TADDR_LO_ADDR : Fld := ⟨0x154, 3, 29, .rw, 0x0, 0, 1, 1, 0, 0x20, 3⟩
/-- HIF.ST_TADDR_HI.ADDR (R665). -/
def HIF_ST_TADDR_HI_ADDR : Fld := ⟨0x158, 0, 32, .rw, 0x0, 0, 1, 1, 0, 0x20, 3⟩
/-- HIF.ST_COUNTS.DROPPED (R665). -/
def HIF_ST_COUNTS_DROPPED : Fld := ⟨0x15C, 0, 16, .ro, 0x0, 0, 1, 1, 0, 0x20, 3⟩
/-- HIF.ST_COUNTS.LOST (R665). -/
def HIF_ST_COUNTS_LOST : Fld := ⟨0x15C, 16, 16, .ro, 0x0, 0, 1, 1, 0, 0x20, 3⟩
/-- PART.CFG.SCRUB_SHARE (R684). -/
def PART_CFG_SCRUB_SHARE : Fld := ⟨0x100, 8, 6, .rw, 0x8, 0, 1, 1, 0, 0, 1⟩
/-- PART.CREATE.P (R684). -/
def PART_CREATE_P : Fld := ⟨0x104, 0, 5, .wo, 0x0, 0, 1, 1, 0, 0, 1⟩
/-- PART.ASSIGN.KIND (R684). -/
def PART_ASSIGN_KIND : Fld := ⟨0x108, 0, 4, .wo, 0x0, 0, 1, 1, 0, 0, 1⟩
/-- PART.ASSIGN.P (R684). -/
def PART_ASSIGN_P : Fld := ⟨0x108, 4, 5, .wo, 0x0, 0, 1, 1, 0, 0, 1⟩
/-- PART.ASSIGN_IDX.FIRST (R684). -/
def PART_ASSIGN_IDX_FIRST : Fld := ⟨0x10C, 0, 12, .rw, 0x0, 0, 1, 1, 0, 0, 1⟩
/-- PART.ASSIGN_IDX.COUNT (R684). -/
def PART_ASSIGN_IDX_COUNT : Fld := ⟨0x10C, 16, 12, .rw, 0x0, 0, 1, 1, 0, 0, 1⟩
/-- PART.ASSIGN_STATUS.RESULT (R684). -/
def PART_ASSIGN_STATUS_RESULT : Fld := ⟨0x110, 0, 4, .ro, 0x0, 0, 1, 1, 0, 0, 1⟩
/-- PART.ASSIGN_STATUS.INDEX (R684). -/
def PART_ASSIGN_STATUS_INDEX : Fld := ⟨0x110, 16, 12, .ro, 0x0, 0, 1, 1, 0, 0, 1⟩
/-- PART.QUERY.KIND (R684). -/
def PART_QUERY_KIND : Fld := ⟨0x114, 0, 4, .rw, 0x0, 0, 1, 1, 0, 0, 1⟩
/-- PART.QUERY.INDEX (R684). -/
def PART_QUERY_INDEX : Fld := ⟨0x114, 16, 12, .rw, 0x0, 0, 1, 1, 0, 0, 1⟩
/-- PART.QUERY_OWNER.OWNER (R684). -/
def PART_QUERY_OWNER_OWNER : Fld := ⟨0x118, 0, 6, .ro, 0x3F, 0, 1, 1, 0, 0, 1⟩
/-- PART.P_STATE.STATE (R684). -/
def PART_P_STATE_STATE : Fld := ⟨0x140, 0, 3, .ro, 0x0, 8, 32, 1, 0, 0x0, 1⟩
/-- PART.P_STATE.CTX (R684). -/
def PART_P_STATE_CTX : Fld := ⟨0x140, 4, 5, .ro, 0x0, 8, 32, 1, 0, 0x0, 1⟩
/-- PART.P_STATE.CTX_VALID (R684). -/
def PART_P_STATE_CTX_VALID : Fld := ⟨0x140, 9, 1, .ro, 0x0, 8, 32, 1, 0, 0x0, 1⟩
/-- PART.P_STATE.VF (R684). -/
def PART_P_STATE_VF : Fld := ⟨0x140, 10, 5, .ro, 0x0, 8, 32, 1, 0, 0x0, 1⟩
/-- PART.P_STATE.VF_VALID (R684). -/
def PART_P_STATE_VF_VALID : Fld := ⟨0x140, 15, 1, .ro, 0x0, 8, 32, 1, 0, 0x0, 1⟩
/-- PART.P_STATE.HEADS (R684). -/
def PART_P_STATE_HEADS : Fld := ⟨0x140, 16, 4, .ro, 0x0, 8, 32, 1, 0, 0x0, 1⟩
/-- PART.P_STATE.PIPES (R684). -/
def PART_P_STATE_PIPES : Fld := ⟨0x140, 20, 4, .ro, 0x0, 8, 32, 1, 0, 0x0, 1⟩
/-- PART.P_STATE.BLT (R684). -/
def PART_P_STATE_BLT : Fld := ⟨0x140, 24, 1, .ro, 0x0, 8, 32, 1, 0, 0x0, 1⟩
/-- PART.P_COUNT.TILES (R684). -/
def PART_P_COUNT_TILES : Fld := ⟨0x144, 0, 12, .ro, 0x0, 8, 32, 1, 0, 0x0, 1⟩
/-- PART.P_COUNT.GRANULES (R684). -/
def PART_P_COUNT_GRANULES : Fld := ⟨0x144, 16, 10, .ro, 0x0, 8, 32, 1, 0, 0x0, 1⟩
/-- PART.DENY.COUNT (R684). -/
def PART_DENY_COUNT : Fld := ⟨0x240, 0, 32, .ro, 0x0, 4, 32, 1, 0, 0x0, 1⟩
/-- PART.DRAIN_DROPS.COUNT (R684). -/
def PART_DRAIN_DROPS_COUNT : Fld := ⟨0x2C0, 0, 32, .ro, 0x0, 0, 1, 1, 0, 0, 1⟩
/-- PART.FENCE_CAUSE.EVENT (R684). -/
def PART_FENCE_CAUSE_EVENT : Fld := ⟨0x300, 0, 16, .ro, 0x0, 4, 32, 1, 0, 0x0, 1⟩
/-- PART.DENY_LOG.REQUESTER (R684). -/
def PART_DENY_LOG_REQUESTER : Fld := ⟨0x380, 0, 6, .ro, 0x0, 0, 1, 1, 0, 0, 1⟩
/-- PART.DENY_LOG.SRC_CHIP (R684). -/
def PART_DENY_LOG_SRC_CHIP : Fld := ⟨0x380, 6, 13, .ro, 0x0, 0, 1, 1, 0, 0, 1⟩
/-- PART.DENY_LOG.TARGET (R684). -/
def PART_DENY_LOG_TARGET : Fld := ⟨0x380, 20, 3, .ro, 0x0, 0, 1, 1, 0, 0, 1⟩
/-- PART.DENY_LOG.VALID (R684). -/
def PART_DENY_LOG_VALID : Fld := ⟨0x380, 31, 1, .ro, 0x0, 0, 1, 1, 0, 0, 1⟩
/-- PART.DENY_OFF_LO.OFFSET (R684). -/
def PART_DENY_OFF_LO_OFFSET : Fld := ⟨0x384, 0, 32, .ro, 0x0, 0, 1, 1, 0, 0, 1⟩
/-- PART.DENY_OFF_HI.OFFSET (R684). -/
def PART_DENY_OFF_HI_OFFSET : Fld := ⟨0x388, 0, 11, .ro, 0x0, 0, 1, 1, 0, 0, 1⟩
/-- PART.DENY_MET_LO.MET (R684). -/
def PART_DENY_MET_LO_MET : Fld := ⟨0x38C, 0, 32, .ro, 0x0, 0, 1, 1, 0, 0, 1⟩
/-- PART.DENY_MET_HI.MET (R684). -/
def PART_DENY_MET_HI_MET : Fld := ⟨0x390, 0, 32, .ro, 0x0, 0, 1, 1, 0, 0, 1⟩
/-- PART.CNT_CLR.CLEAR (R684). -/
def PART_CNT_CLR_CLEAR : Fld := ⟨0x394, 0, 1, .wo, 0x0, 0, 1, 1, 0, 0, 1⟩
/-- ERR.CLASS_COUNT.COUNT (R700). -/
def ERR_CLASS_COUNT_COUNT : Fld := ⟨0x100, 0, 32, .ro, 0x0, 4, 5, 1, 0, 0x0, 1⟩
/-- ERR.UNMAPPED.COUNT (R700). -/
def ERR_UNMAPPED_COUNT : Fld := ⟨0x114, 0, 32, .ro, 0x0, 0, 1, 1, 0, 0, 1⟩
/-- ERR.STRAY_RESP.COUNT (R700). -/
def ERR_STRAY_RESP_COUNT : Fld := ⟨0x118, 0, 32, .ro, 0x0, 0, 1, 1, 0, 0, 1⟩
/-- ERR.POISON_A.TILE (R700). -/
def ERR_POISON_A_TILE : Fld := ⟨0x11C, 0, 16, .ro, 0x0, 0, 1, 1, 0, 0, 1⟩
/-- ERR.POISON_A.HOST (R700). -/
def ERR_POISON_A_HOST : Fld := ⟨0x11C, 16, 16, .ro, 0x0, 0, 1, 1, 0, 0, 1⟩
/-- ERR.POISON_B.DISPLAY (R700). -/
def ERR_POISON_B_DISPLAY : Fld := ⟨0x120, 0, 16, .ro, 0x0, 0, 1, 1, 0, 0, 1⟩
/-- ERR.POISON_B.CAMERA (R700). -/
def ERR_POISON_B_CAMERA : Fld := ⟨0x120, 16, 16, .ro, 0x0, 0, 1, 1, 0, 0, 1⟩
/-- ERR.POISON_C.BLT_CMT (R700). -/
def ERR_POISON_C_BLT_CMT : Fld := ⟨0x124, 0, 16, .ro, 0x0, 0, 1, 1, 0, 0, 1⟩
/-- ERR.POISON_C.MGC (R700). -/
def ERR_POISON_C_MGC : Fld := ⟨0x124, 16, 16, .ro, 0x0, 0, 1, 1, 0, 0, 1⟩
/-- ERR.LAST_UNMAPPED.REQUESTER (R700). -/
def ERR_LAST_UNMAPPED_REQUESTER : Fld := ⟨0x128, 0, 6, .ro, 0x0, 0, 1, 1, 0, 0, 1⟩
/-- ERR.LAST_UNMAPPED.SRC_CHIP (R700). -/
def ERR_LAST_UNMAPPED_SRC_CHIP : Fld := ⟨0x128, 6, 13, .ro, 0x0, 0, 1, 1, 0, 0, 1⟩
/-- ERR.LAST_UNMAPPED.VALID (R700). -/
def ERR_LAST_UNMAPPED_VALID : Fld := ⟨0x128, 31, 1, .ro, 0x0, 0, 1, 1, 0, 0, 1⟩
/-- ERR.LAST_UNMAPPED_OFF_LO.OFFSET (R700). -/
def ERR_LAST_UNMAPPED_OFF_LO_OFFSET : Fld := ⟨0x12C, 0, 32, .ro, 0x0, 0, 1, 1, 0, 0, 1⟩
/-- ERR.LAST_UNMAPPED_OFF_HI.OFFSET (R700). -/
def ERR_LAST_UNMAPPED_OFF_HI_OFFSET : Fld := ⟨0x130, 0, 11, .ro, 0x0, 0, 1, 1, 0, 0, 1⟩
/-- ERR.FIRST.CODE (R700). -/
def ERR_FIRST_CODE : Fld := ⟨0x134, 0, 16, .ro, 0x0, 0, 1, 1, 0, 0, 1⟩
/-- ERR.FIRST.VALID (R700). -/
def ERR_FIRST_VALID : Fld := ⟨0x134, 31, 1, .ro, 0x0, 0, 1, 1, 0, 0, 1⟩
/-- ERR.FIRST_MET_LO.MET (R700). -/
def ERR_FIRST_MET_LO_MET : Fld := ⟨0x138, 0, 32, .ro, 0x0, 0, 1, 1, 0, 0, 1⟩
/-- ERR.FIRST_MET_HI.MET (R700). -/
def ERR_FIRST_MET_HI_MET : Fld := ⟨0x13C, 0, 32, .ro, 0x0, 0, 1, 1, 0, 0, 1⟩
/-- ERR.INJECT.CODE (R700). -/
def ERR_INJECT_CODE : Fld := ⟨0x140, 0, 16, .wo, 0x0, 0, 1, 1, 0, 0, 1⟩
/-- ERR.INJECT.DATA (R700). -/
def ERR_INJECT_DATA : Fld := ⟨0x140, 16, 16, .wo, 0x0, 0, 1, 1, 0, 0, 1⟩
/-- ERR.CNT_CLR.CLEAR (R700). -/
def ERR_CNT_CLR_CLEAR : Fld := ⟨0x144, 0, 1, .wo, 0x0, 0, 1, 1, 0, 0, 1⟩
/-- EVL.CFG.POL0 (R703). -/
def EVL_CFG_POL0 : Fld := ⟨0x100, 0, 1, .rw, 0x0, 0, 1, 1, 0, 0, 1⟩
/-- EVL.CFG.POL1 (R703). -/
def EVL_CFG_POL1 : Fld := ⟨0x100, 1, 1, .rw, 0x1, 0, 1, 1, 0, 0, 1⟩
/-- EVL.CFG.MASK0 (R703). -/
def EVL_CFG_MASK0 : Fld := ⟨0x100, 4, 5, .rw, 0x1F, 0, 1, 1, 0, 0, 1⟩
/-- EVL.CFG.MASK1 (R703). -/
def EVL_CFG_MASK1 : Fld := ⟨0x100, 12, 5, .rw, 0x1C, 0, 1, 1, 0, 0, 1⟩
/-- EVL.SEQ_NEXT.SEQ (R703). -/
def EVL_SEQ_NEXT_SEQ : Fld := ⟨0x104, 0, 32, .ro, 0x0, 0, 1, 1, 0, 0, 1⟩
/-- EVL.LOG_STATUS.COUNT (R703). -/
def EVL_LOG_STATUS_COUNT : Fld := ⟨0x110, 0, 13, .ro, 0x0, 0, 1, 1, 0, 0x10, 2⟩
/-- EVL.LOG_STATUS.FIRST (R703). -/
def EVL_LOG_STATUS_FIRST : Fld := ⟨0x110, 16, 12, .ro, 0x0, 0, 1, 1, 0, 0x10, 2⟩
/-- EVL.LOG_STATUS.FULL (R703). -/
def EVL_LOG_STATUS_FULL : Fld := ⟨0x110, 31, 1, .ro, 0x0, 0, 1, 1, 0, 0x10, 2⟩
/-- EVL.LOG_OLDEST_SEQ.SEQ (R703). -/
def EVL_LOG_OLDEST_SEQ_SEQ : Fld := ⟨0x114, 0, 32, .ro, 0x0, 0, 1, 1, 0, 0x10, 2⟩
/-- EVL.LOG_LOST.COUNT (R703). -/
def EVL_LOG_LOST_COUNT : Fld := ⟨0x118, 0, 32, .ro, 0x0, 0, 1, 1, 0, 0x10, 2⟩
/-- EVL.LOG_CTL.RELEASE (R703). -/
def EVL_LOG_CTL_RELEASE : Fld := ⟨0x11C, 0, 13, .wo, 0x0, 0, 1, 1, 0, 0x10, 2⟩
/-- EVL.LOG_CTL.CLEAR (R703). -/
def EVL_LOG_CTL_CLEAR : Fld := ⟨0x11C, 16, 1, .wo, 0x0, 0, 1, 1, 0, 0x10, 2⟩
/-- EVL.SRC_LOST.COUNT (R703). -/
def EVL_SRC_LOST_COUNT : Fld := ⟨0x130, 0, 32, .ro, 0x0, 0, 1, 1, 0, 0, 1⟩
/-- EVL.RD_SEL.POS (R703). -/
def EVL_RD_SEL_POS : Fld := ⟨0x134, 0, 12, .wo, 0x0, 0, 1, 1, 0, 0, 1⟩
/-- EVL.RD_SEL.LOG (R703). -/
def EVL_RD_SEL_LOG : Fld := ⟨0x134, 12, 1, .wo, 0x0, 0, 1, 1, 0, 0, 1⟩
/-- EVL.RD_STATUS.VALID (R703). -/
def EVL_RD_STATUS_VALID : Fld := ⟨0x138, 0, 1, .ro, 0x0, 0, 1, 1, 0, 0, 1⟩
/-- EVL.ENTRY.WORD (R703). -/
def EVL_ENTRY_WORD : Fld := ⟨0x140, 0, 32, .ro, 0x0, 4, 7, 1, 0, 0x0, 1⟩
/-- DPTX.TX_LEVEL.SWING (R544). -/
def DPTX_TX_LEVEL_SWING : Fld := ⟨0x400, 0, 2, .rw, 0x0, 4, 4, 1, 0, 0x0, 1⟩
/-- DPTX.TX_LEVEL.PREEMPH (R544). -/
def DPTX_TX_LEVEL_PREEMPH : Fld := ⟨0x400, 2, 2, .rw, 0x0, 4, 4, 1, 0, 0x0, 1⟩
/-- DPTX.TX_LEVEL.FFE_PRESET (R544). -/
def DPTX_TX_LEVEL_FFE_PRESET : Fld := ⟨0x400, 4, 4, .rw, 0x0, 4, 4, 1, 0, 0x0, 1⟩
/-- DPTX.TRAIN.TIMEOUT_MS (R544). -/
def DPTX_TRAIN_TIMEOUT_MS : Fld := ⟨0x410, 0, 8, .rw, 0x14, 0, 1, 1, 0, 0, 1⟩
/-- DPTX.TRAIN.RETRY_S (R544). -/
def DPTX_TRAIN_RETRY_S : Fld := ⟨0x410, 8, 8, .rw, 0x1, 0, 1, 1, 0, 0, 1⟩
/-- DPTX.AUX.TIMEOUT_US (R544). -/
def DPTX_AUX_TIMEOUT_US : Fld := ⟨0x414, 0, 16, .rw, 0xC80, 0, 1, 1, 0, 0, 1⟩
/-- DPTX.AUX.DEFER_MAX (R544). -/
def DPTX_AUX_DEFER_MAX : Fld := ⟨0x414, 16, 4, .rw, 0x7, 0, 1, 1, 0, 0, 1⟩
/-- DPTX.HPDX.IRQ_MIN_US (R544). -/
def DPTX_HPDX_IRQ_MIN_US : Fld := ⟨0x418, 0, 10, .rw, 0xFA, 0, 1, 1, 0, 0, 1⟩
/-- DPTX.HPDX.UNPLUG_MS (R544). -/
def DPTX_HPDX_UNPLUG_MS : Fld := ⟨0x418, 12, 8, .rw, 0x2, 0, 1, 1, 0, 0, 1⟩
/-- DPTX.HPDX.SETTLE_MS (R544). -/
def DPTX_HPDX_SETTLE_MS : Fld := ⟨0x418, 20, 12, .rw, 0x64, 0, 1, 1, 0, 0, 1⟩
/-- DPTX.DSC_RC.VALUE (R544). -/
def DPTX_DSC_RC_VALUE : Fld := ⟨0x420, 0, 32, .rw, 0x0, 4, 8, 1, 0, 0x0, 1⟩
/-- FN.FN_ID.FUNC (R645). -/
def FN_FN_ID_FUNC : Fld := ⟨0x000, 0, 6, .ro, 0x0, 0, 1, 1, 0, 0, 1⟩
/-- FN.FN_ID.REQUESTER (R645). -/
def FN_FN_ID_REQUESTER : Fld := ⟨0x000, 8, 6, .ro, 0x0, 0, 1, 1, 0, 0, 1⟩
/-- FN.FN_ID.BOUND (R645). -/
def FN_FN_ID_BOUND : Fld := ⟨0x000, 14, 1, .ro, 0x0, 0, 1, 1, 0, 0, 1⟩
/-- FN.FN_CFG.TC (R645). -/
def FN_FN_CFG_TC : Fld := ⟨0x004, 0, 3, .rw, 0x1, 0, 1, 1, 0, 0, 1⟩
/-- FN.FN_COUNTS.AP_FAULTS (R645). -/
def FN_FN_COUNTS_AP_FAULTS : Fld := ⟨0x00C, 0, 16, .ro, 0x0, 0, 1, 1, 0, 0, 1⟩
/-- FN.FN_COUNTS.BAD_WRITES (R645). -/
def FN_FN_COUNTS_BAD_WRITES : Fld := ⟨0x00C, 16, 16, .ro, 0x0, 0, 1, 1, 0, 0, 1⟩
/-- FN.FN_CLR.CLEAR (R645). -/
def FN_FN_CLR_CLEAR : Fld := ⟨0x010, 0, 1, .wo, 0x0, 0, 1, 1, 0, 0, 1⟩
/-- FN.PEND_MAP.PAGES (R645). -/
def FN_PEND_MAP_PAGES : Fld := ⟨0x040, 0, 32, .ro, 0x0, 4, 112, 1, 0, 0x0, 1⟩
/-- FN.MOD.US (R645). -/
def FN_MOD_US : Fld := ⟨0x400, 0, 8, .rw, 0x0, 4, 256, 4, 8, 0x0, 1⟩
/-- FN.AP_LO.VALID (R645). -/
def FN_AP_LO_VALID : Fld := ⟨0x500, 0, 1, .rw, 0x0, 8, 4, 1, 0, 0x0, 1⟩
/-- FN.AP_LO.ORDERED (R645). -/
def FN_AP_LO_ORDERED : Fld := ⟨0x500, 1, 1, .rw, 0x0, 8, 4, 1, 0, 0x0, 1⟩
/-- FN.AP_LO.BASE (R645). -/
def FN_AP_LO_BASE : Fld := ⟨0x500, 28, 4, .rw, 0x0, 8, 4, 1, 0, 0x0, 1⟩
/-- FN.AP_HI.BASE (R645). -/
def FN_AP_HI_BASE : Fld := ⟨0x504, 0, 24, .rw, 0x0, 8, 4, 1, 0, 0x0, 1⟩
/-- HQ.SQ_LO.BASE (R645). -/
def HQ_SQ_LO_BASE : Fld := ⟨0x100, 6, 26, .rw, 0x0, 0, 1, 1, 0, 0x18, 32⟩
/-- HQ.SQ_HI.BASE (R645). -/
def HQ_SQ_HI_BASE : Fld := ⟨0x104, 0, 32, .rw, 0x0, 0, 1, 1, 0, 0x18, 32⟩
/-- HQ.CQ_LO.BASE (R645). -/
def HQ_CQ_LO_BASE : Fld := ⟨0x108, 4, 28, .rw, 0x0, 0, 1, 1, 0, 0x18, 32⟩
/-- HQ.CQ_HI.BASE (R645). -/
def HQ_CQ_HI_BASE : Fld := ⟨0x10C, 0, 32, .rw, 0x0, 0, 1, 1, 0, 0x18, 32⟩
/-- HQ.QCFG.EN (R645). -/
def HQ_QCFG_EN : Fld := ⟨0x110, 0, 1, .rw, 0x0, 0, 1, 1, 0, 0x18, 32⟩
/-- HQ.QCFG.DEPTH_LOG2 (R645). -/
def HQ_QCFG_DEPTH_LOG2 : Fld := ⟨0x110, 1, 4, .rw, 0x4, 0, 1, 1, 0, 0x18, 32⟩
/-- HQ.QCFG.VECTOR (R645). -/
def HQ_QCFG_VECTOR : Fld := ⟨0x110, 8, 8, .rw, 0x0, 0, 1, 1, 0, 0x18, 32⟩
/-- HQ.QCFG.IRQ_EN (R645). -/
def HQ_QCFG_IRQ_EN : Fld := ⟨0x110, 16, 1, .rw, 0x0, 0, 1, 1, 0, 0x18, 32⟩
/-- HQ.QCFG.FUNC (R645). -/
def HQ_QCFG_FUNC : Fld := ⟨0x110, 17, 6, .mgmt, 0x3F, 0, 1, 1, 0, 0x18, 32⟩
/-- HQ.QCFG.LOCAL (R645). -/
def HQ_QCFG_LOCAL : Fld := ⟨0x110, 23, 3, .mgmt, 0x0, 0, 1, 1, 0, 0x18, 32⟩
/-- HQ.QCFG.INFLIGHT (R645). -/
def HQ_QCFG_INFLIGHT : Fld := ⟨0x110, 26, 3, .rw, 0x3, 0, 1, 1, 0, 0x18, 32⟩
/-- HQ.QCFG.STATE (R645). -/
def HQ_QCFG_STATE : Fld := ⟨0x110, 29, 3, .ro, 0x0, 0, 1, 1, 0, 0x18, 32⟩
/-- HQ.QSTATUS.CLAIMED (R645). -/
def HQ_QSTATUS_CLAIMED : Fld := ⟨0x114, 0, 16, .ro, 0x0, 0, 1, 1, 0, 0x18, 32⟩
/-- HQ.QSTATUS.COMPLETED (R645). -/
def HQ_QSTATUS_COMPLETED : Fld := ⟨0x114, 16, 16, .ro, 0x0, 0, 1, 1, 0, 0x18, 32⟩
/-- BOOT.RECORD.ACTIVE_SLOT (R169). -/
def BOOT_RECORD_ACTIVE_SLOT : Fld := ⟨0x100, 0, 1, .ro, 0x0, 0, 1, 1, 0, 0, 1⟩
/-- BOOT.RECORD.STATE (R169). -/
def BOOT_RECORD_STATE : Fld := ⟨0x100, 1, 2, .ro, 0x0, 0, 1, 1, 0, 0, 1⟩
/-- BOOT.RECORD.TRIALS (R169). -/
def BOOT_RECORD_TRIALS : Fld := ⟨0x100, 3, 2, .ro, 0x0, 0, 1, 1, 0, 0, 1⟩
/-- BOOT.RECORD.COPY0_OK (R169). -/
def BOOT_RECORD_COPY0_OK : Fld := ⟨0x100, 5, 1, .ro, 0x0, 0, 1, 1, 0, 0, 1⟩
/-- BOOT.RECORD.COPY1_OK (R169). -/
def BOOT_RECORD_COPY1_OK : Fld := ⟨0x100, 6, 1, .ro, 0x0, 0, 1, 1, 0, 0, 1⟩
/-- BOOT.RECORD.FALLBACK (R169). -/
def BOOT_RECORD_FALLBACK : Fld := ⟨0x100, 7, 1, .ro, 0x0, 0, 1, 1, 0, 0, 1⟩
/-- BOOT.RECORD.REVERTED (R169). -/
def BOOT_RECORD_REVERTED : Fld := ⟨0x100, 8, 1, .ro, 0x0, 0, 1, 1, 0, 0, 1⟩
/-- BOOT.RECORD.RUNNING_SLOT (R169). -/
def BOOT_RECORD_RUNNING_SLOT : Fld := ⟨0x100, 9, 1, .ro, 0x0, 0, 1, 1, 0, 0, 1⟩
/-- BOOT.RECORD_SEQ.SEQ (R169). -/
def BOOT_RECORD_SEQ_SEQ : Fld := ⟨0x104, 0, 32, .ro, 0x0, 0, 1, 1, 0, 0, 1⟩
/-- BOOT.SLOT_STATE.A (R169). -/
def BOOT_SLOT_STATE_A : Fld := ⟨0x108, 0, 2, .ro, 0x0, 0, 1, 1, 0, 0, 1⟩
/-- BOOT.SLOT_STATE.B (R169). -/
def BOOT_SLOT_STATE_B : Fld := ⟨0x108, 2, 2, .ro, 0x0, 0, 1, 1, 0, 0, 1⟩
/-- BOOT.VERSION_A.VERSION (R169). -/
def BOOT_VERSION_A_VERSION : Fld := ⟨0x10C, 0, 32, .ro, 0x0, 0, 1, 1, 0, 0, 1⟩
/-- BOOT.VERSION_B.VERSION (R169). -/
def BOOT_VERSION_B_VERSION : Fld := ⟨0x110, 0, 32, .ro, 0x0, 0, 1, 1, 0, 0, 1⟩
/-- BOOT.SVN.FUSED (R169). -/
def BOOT_SVN_FUSED : Fld := ⟨0x114, 0, 8, .ro, 0x0, 0, 1, 1, 0, 0, 1⟩
/-- BOOT.SVN.SVN_A (R169). -/
def BOOT_SVN_SVN_A : Fld := ⟨0x114, 8, 8, .ro, 0x0, 0, 1, 1, 0, 0, 1⟩
/-- BOOT.SVN.SVN_B (R169). -/
def BOOT_SVN_SVN_B : Fld := ⟨0x114, 16, 8, .ro, 0x0, 0, 1, 1, 0, 0, 1⟩
/-- BOOT.RUNNING.VERSION (R169). -/
def BOOT_RUNNING_VERSION : Fld := ⟨0x118, 0, 32, .ro, 0x0, 0, 1, 1, 0, 0, 1⟩
/-- FLASH.DEV_INFO.MFR (R169). -/
def FLASH_DEV_INFO_MFR : Fld := ⟨0x100, 0, 8, .ro, 0x0, 4, 2, 1, 0, 0x0, 1⟩
/-- FLASH.DEV_INFO.SIZE_LOG2 (R169). -/
def FLASH_DEV_INFO_SIZE_LOG2 : Fld := ⟨0x100, 8, 8, .ro, 0x0, 4, 2, 1, 0, 0x0, 1⟩
/-- FLASH.DEV_INFO.PRESENT (R169). -/
def FLASH_DEV_INFO_PRESENT : Fld := ⟨0x100, 16, 1, .ro, 0x0, 4, 2, 1, 0, 0x0, 1⟩
/-- FLASH.DEV_INFO.USABLE (R169). -/
def FLASH_DEV_INFO_USABLE : Fld := ⟨0x100, 17, 1, .ro, 0x0, 4, 2, 1, 0, 0x0, 1⟩
/-- FLASH.FLASH_ERR.READ (R169). -/
def FLASH_FLASH_ERR_READ : Fld := ⟨0x108, 0, 8, .ro, 0x0, 0, 1, 1, 0, 0, 1⟩
/-- FLASH.FLASH_ERR.PROG (R169). -/
def FLASH_FLASH_ERR_PROG : Fld := ⟨0x108, 8, 8, .ro, 0x0, 0, 1, 1, 0, 0, 1⟩
/-- FLASH.FLASH_ERR.ERASE (R169). -/
def FLASH_FLASH_ERR_ERASE : Fld := ⟨0x108, 16, 8, .ro, 0x0, 0, 1, 1, 0, 0, 1⟩
/-- FLASH.WIN_CTRL.PUSH (R169). -/
def FLASH_WIN_CTRL_PUSH : Fld := ⟨0x110, 0, 1, .wo, 0x0, 0, 1, 1, 0, 0, 1⟩
/-- FLASH.WIN_CTRL.BUSY (R169). -/
def FLASH_WIN_CTRL_BUSY : Fld := ⟨0x110, 1, 1, .ro, 0x0, 0, 1, 1, 0, 0, 1⟩
/-- FLASH.WIN_CTRL.OVERRUN (R169). -/
def FLASH_WIN_CTRL_OVERRUN : Fld := ⟨0x110, 8, 8, .ro, 0x0, 0, 1, 1, 0, 0, 1⟩
/-- FLASH.WIN.DATA (R169). -/
def FLASH_WIN_DATA : Fld := ⟨0x200, 0, 32, .rw, 0x0, 4, 64, 1, 0, 0x0, 1⟩
/-- LIC.ACTIVE.FEATURES (R169). -/
def LIC_ACTIVE_FEATURES : Fld := ⟨0x100, 0, 5, .ro, 0x0, 0, 1, 1, 0, 0, 1⟩
/-- LIC.ACTIVE.VARIANT (R169). -/
def LIC_ACTIVE_VARIANT : Fld := ⟨0x100, 5, 2, .ro, 0x0, 0, 1, 1, 0, 0, 1⟩
/-- LIC.ACTIVE.VALID (R169). -/
def LIC_ACTIVE_VALID : Fld := ⟨0x100, 7, 1, .ro, 0x0, 0, 1, 1, 0, 0, 1⟩
/-- LIC.STORED.FEATURES (R169). -/
def LIC_STORED_FEATURES : Fld := ⟨0x108, 0, 5, .ro, 0x0, 0, 1, 1, 0, 0, 1⟩
/-- LIC.STORED.VARIANT (R169). -/
def LIC_STORED_VARIANT : Fld := ⟨0x108, 5, 2, .ro, 0x0, 0, 1, 1, 0, 0, 1⟩
/-- LIC.STORED.VALID (R169). -/
def LIC_STORED_VALID : Fld := ⟨0x108, 7, 1, .ro, 0x0, 0, 1, 1, 0, 0, 1⟩
/-- LIC.ACTIVE_LSN.LSN (R169). -/
def LIC_ACTIVE_LSN_LSN : Fld := ⟨0x104, 0, 32, .ro, 0x0, 0, 1, 1, 0, 0, 1⟩
/-- LIC.STORED_LSN.LSN (R169). -/
def LIC_STORED_LSN_LSN : Fld := ⟨0x10C, 0, 32, .ro, 0x0, 0, 1, 1, 0, 0, 1⟩
/-- LIC.PENDING.REBOOT_NEEDED (R169). -/
def LIC_PENDING_REBOOT_NEEDED : Fld := ⟨0x110, 0, 1, .ro, 0x0, 0, 1, 1, 0, 0, 1⟩
/-- LIC.COPY_STATE.COPY0 (R169). -/
def LIC_COPY_STATE_COPY0 : Fld := ⟨0x114, 0, 2, .ro, 0x0, 0, 1, 1, 0, 0, 1⟩
/-- LIC.COPY_STATE.COPY1 (R169). -/
def LIC_COPY_STATE_COPY1 : Fld := ⟨0x114, 2, 2, .ro, 0x0, 0, 1, 1, 0, 0, 1⟩
/-- LIC.WIN.DATA (R169). -/
def LIC_WIN_DATA : Fld := ⟨0x200, 0, 32, .rw, 0x0, 4, 128, 1, 0, 0x0, 1⟩
end F

/-- The fields of a PACE page. -/
def fieldsPACE : List Fld :=
  [F.PACE_TB_NOW_VALUE, F.PACE_TB_NOW_STALE, F.PACE_TB_GUAR_VALUE, F.PACE_TB_GUAR_OPP, F.PACE_TB_GUAR_TRANSITION, F.PACE_TB_MAX_SEEN_VALUE, F.PACE_TB_MAX_SEEN_CLUSTER, F.PACE_TB_MIN_SEEN_VALUE, F.PACE_TB_WARN_THRESH, F.PACE_PACE_CTRL_CLEAR_SEEN, F.PACE_PACE_CTRL_WINDOW, F.PACE_SLOWEST_CLUSTER, F.PACE_OVER_COUNT_COUNT, F.PACE_CLUSTER_TB_VALUE]

/-- The fields of a HDR page. -/
def fieldsHDR : List Fld :=
  [F.HDR_PAGE_ID_LAYOUT, F.HDR_PAGE_ID_INSTANCE, F.HDR_PAGE_ID_TYPE, F.HDR_PAGE_CAPS_AVAILABLE, F.HDR_PAGE_CAPS_CAPS, F.HDR_PAGE_CTRL_ENABLE, F.HDR_PAGE_CTRL_EXPERT_EN, F.HDR_PAGE_CTRL_QUIESCE, F.HDR_PAGE_STATUS_ENABLED, F.HDR_PAGE_STATUS_QUIESCED, F.HDR_PAGE_STATUS_CUSTOM, F.HDR_PAGE_STATUS_LOCKED, F.HDR_PAGE_STATUS_FAULTED, F.HDR_PAGE_STATUS_SNAP_HELD, F.HDR_PAGE_STATUS_LOP_ACTIVE, F.HDR_PAGE_STATUS_IRQ_ACTIVE, F.HDR_PAGE_STATUS_BLOCK, F.HDR_IRQ_RAW_RAW, F.HDR_IRQ_ENABLE_ENABLE, F.HDR_IRQ_PENDING_PENDING, F.HDR_IRQ_FORCE_FORCE, F.HDR_SNAP_CTRL_ENABLE, F.HDR_SNAP_CTRL_HOLD_MODE, F.HDR_SNAP_CTRL_HELD, F.HDR_SNAP_CTRL_RELEASE, F.HDR_SNAP_CTRL_MISSED, F.HDR_SNAP_SEQ_SEQ, F.HDR_SNAP_MET_LO_MET, F.HDR_SNAP_MET_HI_MET]

/-- The fields of a OWN page. -/
def fieldsOWN : List Fld :=
  [F.OWN_PAGE_OWNER_OWNER, F.OWN_PAGE_OWNER_SHARED_READ, F.OWN_PAGE_LOCK_LOCK, F.OWN_PAGE_FAULT_CAUSE, F.OWN_PAGE_FAULT_REQUESTER, F.OWN_PAGE_FAULT_WRITE, F.OWN_PAGE_FAULT_OFFSET, F.OWN_PAGE_FAULT_COUNT, F.OWN_PAGE_FAULT_CLR_CLEAR, F.OWN_FAULT_MET_LO_MET, F.OWN_FAULT_MET_HI_MET]

/-- The fields of a LOP page. -/
def fieldsLOP : List Fld :=
  [F.LOP_LOP_CMD_CMD, F.LOP_LOP_CMD_OP, F.LOP_LOP_ARG_ARG, F.LOP_LOP_STATE_STATE, F.LOP_LOP_STATE_OP, F.LOP_LOP_STATE_SEQ, F.LOP_LOP_PROGRESS_DONE, F.LOP_LOP_RESULT_CODE, F.LOP_LOP_RESULT_DETAIL]

/-- The fields of a CHIP page. -/
def fieldsCHIP : List Fld :=
  [F.CHIP_ID_ID, F.CHIP_STEP_STEP, F.CHIP_SERIAL_LO_SERIAL, F.CHIP_SERIAL_HI_SERIAL, F.CHIP_LOC_VALUE, F.CHIP_CHIP_NUM_NUM, F.CHIP_CHIP_NUM_VALID, F.CHIP_CHIP_NUM_SOURCE, F.CHIP_BOOT_STATUS_STAGE, F.CHIP_BOOT_STATUS_CODE, F.CHIP_BOOT_STATUS_KIND, F.CHIP_BOOT_STATUS_PATH, F.CHIP_BOOT_STATUS_DONE, F.CHIP_BOOT_STATUS_HALTED, F.CHIP_BOOT_STATUS_TASKS, F.CHIP_BOOT_MS_MS, F.CHIP_RESET_CAUSE_SOURCE, F.CHIP_RESET_CAUSE_KIND, F.CHIP_RESET_CAUSE_ALSO, F.CHIP_RESET_EVENT_CODE, F.CHIP_RESET_COUNT_WARM, F.CHIP_RESET_COUNT_FAST, F.CHIP_RESET_CFG_FAST_EN, F.CHIP_RESET_CFG_PERST_ACTION, F.CHIP_RESET_CFG_REMOTE_EN, F.CHIP_RESET_CFG_FAST_MAX, F.CHIP_RESET_CFG_TOPO_WAIT, F.CHIP_RESET_CMD_KEY, F.CHIP_RESET_CMD_ACTION, F.CHIP_WDOG_CTRL_PERIOD] ++
  [F.CHIP_WDOG_KICK_KICK, F.CHIP_FP_TILES_GOOD, F.CHIP_FP_TILES_BAD_FUSE, F.CHIP_FP_BAD_BIST, F.CHIP_FP_BAD_SEQ, F.CHIP_FP_RUN_RUN, F.CHIP_FP_RUN_CLUSTER_MAX, F.CHIP_FP_RUN_CLUSTER_IDX, F.CHIP_FP_INFO_SEQ, F.CHIP_FP_INFO_CARRIED, F.CHIP_FP_MET_LO_MET, F.CHIP_FP_MET_HI_MET, F.CHIP_FP_CRC_CRC, F.CHIP_HBM_REPAIR_REPAIRED, F.CHIP_HBM_REPAIR_SPARES_LEFT, F.CHIP_LANE_BAD_LANES, F.CHIP_TOPO_STATUS_OUTCOME, F.CHIP_TOPO_STATUS_MATCHED, F.CHIP_TOPO_STATUS_FAULTY, F.CHIP_PLAN_ID_ID, F.CHIP_TOPO_PORT_OUTCOME, F.CHIP_TOPO_PORT_PARTNER_CHIP, F.CHIP_TOPO_PORT_PARTNER_PORT, F.CHIP_TOPO_PORT_PLANNED, F.CHIP_SEQ_VER_VER, F.CHIP_SEQ_CRC_CRC, F.CHIP_SEQ_ACK_ACKED, F.CHIP_SEQ_ACK_RESENT, F.CHIP_SEQ_ACK_STRAY, F.CHIP_TILE_MAP_GOOD]

/-- The fields of a MGC page. -/
def fieldsMGC : List Fld :=
  [F.MGC_FW_STATUS_STATE, F.MGC_FW_STATUS_WDOG_ARMED, F.MGC_FW_VERSION_VERSION, F.MGC_UPTIME_LO_MS, F.MGC_UPTIME_HI_MS, F.MGC_ETH_STATUS_LINK, F.MGC_ETH_STATUS_AN_DONE, F.MGC_ETH_MAC_LO_MAC, F.MGC_ETH_MAC_HI_MAC, F.MGC_ETH_COUNTS_RX_ERR, F.MGC_ETH_COUNTS_TX_ERR, F.MGC_ETH_DROPS_RX_DROPS, F.MGC_CNT_CLR_CLEAR]

/-- The fields of a PWR page. -/
def fieldsPWR : List Fld :=
  [F.PWR_CTRL_TARGET, F.PWR_CTRL_OPP, F.PWR_CTRL_TACET_HBM, F.PWR_STATUS_STATE, F.PWR_STATUS_MOVING, F.PWR_STATUS_FLOOR, F.PWR_STATUS_TILES_READY, F.PWR_STATUS_LINKS_LOCKED, F.PWR_STATUS_HBM_READY, F.PWR_STATUS_OPP_NOW, F.PWR_STATUS_OPP_MOVING, F.PWR_STATUS_OPP_FAIL, F.PWR_STATUS_STALLED, F.PWR_STATUS_REFUSAL, F.PWR_HOLDS_HOLDS, F.PWR_SW_HOLD_LEVEL, F.PWR_WAKE_EN_EN, F.PWR_WAKE_CAUSE_CAUSE, F.PWR_WAKE_MET_LO_MET, F.PWR_WAKE_MET_HI_MET, F.PWR_REST_REQ, F.PWR_REST_PENDING, F.PWR_REST_ACKED, F.PWR_REST_FAILED, F.PWR_REST_TRANSIT, F.PWR_LIMITS_DRAIN_MS, F.PWR_LIMITS_REST_MS, F.PWR_REDESCEND_US, F.PWR_LAST_MOVE_FROM, F.PWR_LAST_MOVE_TO] ++
  [F.PWR_LAST_MOVE_ABORTED, F.PWR_LAST_MOVE_TIME, F.PWR_COUNTS_ENTRIES, F.PWR_COUNTS_REFUSALS, F.PWR_WAKES_COUNT, F.PWR_OPP_MV_MV, F.PWR_AVS_RAIL, F.PWR_AVS_SETTLE_MS, F.PWR_AVS_POLL_MS, F.PWR_HBM_SR_PIANO_SR, F.PWR_HBM_SR_PIANISSIMO_SR, F.PWR_HBM_SR_TACET_SR, F.PWR_LINK_SLEEP_HB_NS]

/-- The fields of a PVT page. -/
def fieldsPVT : List Fld :=
  [F.PVT_TJ_MAX, F.PVT_TJ_SENSOR, F.PVT_WARN_THRESH, F.PVT_WARN_HYST, F.PVT_TRIP_THRESH, F.PVT_CORE_MV, F.PVT_CORE_CURRENT, F.PVT_CORE_W_POWER, F.PVT_SENSOR_OK_OK, F.PVT_SENSOR_OK_HI_OK, F.PVT_PVT_CTRL_CLEAR_SEEN, F.PVT_MAX_SEEN_VALUE, F.PVT_MAX_SEEN_SENSOR, F.PVT_HBM_WARN_THRESH, F.PVT_TEMP_VALUE, F.PVT_HBM_TEMP_VALUE]

/-- The fields of a TILE page. -/
def fieldsTILE : List Fld :=
  [F.TILE_SEQ_CTRL_GO, F.TILE_SEQ_CTRL_ABORT, F.TILE_SEQ_CTRL_START, F.TILE_SEQ_STATUS_STATE, F.TILE_SEQ_STATUS_BLOCK, F.TILE_SEQ_STATUS_CP, F.TILE_SEQ_STATUS_IGNORED, F.TILE_SEQ_CFG_DEFAULT_TC, F.TILE_SEQ_CFG_PROFILE, F.TILE_WAIT_LIMIT_US, F.TILE_EXC_CODE, F.TILE_EXC_ENGINE, F.TILE_EXC_MORE, F.TILE_EXC_CP_CP, F.TILE_EXC_DETAIL_DETAIL, F.TILE_EXC_MET_LO_MET, F.TILE_EXC_MET_HI_MET, F.TILE_ARITH_FLAGS_INVALID, F.TILE_ARITH_FLAGS_OVERFLOW, F.TILE_ARITH_FLAGS_UNDERFLOW, F.TILE_ARITH_FLAGS_INEXACT, F.TILE_ARITH_FLAGS_INT_SAT, F.TILE_RNG_SEED_LO_SEED, F.TILE_RNG_SEED_HI_SEED, F.TILE_SRAM_ECC_CE, F.TILE_SRAM_ECC_UE, F.TILE_SRAM_ECC_CLEAR, F.TILE_PERF_CTRL_FREEZE, F.TILE_PERF_CTRL_CLEAR, F.TILE_C_VALUE] ++
  [F.TILE_LC_VALUE, F.TILE_S_VALUE, F.TILE_PERF_COUNT_LO_COUNT, F.TILE_PERF_COUNT_HI_COUNT, F.TILE_PERF_COUNT_HI_WRAP_COUNT, F.TILE_PERF_WRAP_WRAPPED, F.TILE_QUEUE_LIMIT_DMA_DEPTH, F.TILE_QUEUE_LIMIT_MXU_DEPTH, F.TILE_QUEUE_LIMIT_VXU_DEPTH, F.TILE_DMA_OUT_MAX_PKTS, F.TILE_DMA_OUT_MAX_READS, F.TILE_DMA_SPLIT_PAYLOAD, F.TILE_ARB_FETCH_FIRST, F.TILE_ECC_CTRL_WRITEBACK, F.TILE_INJECT_CE_NEXT, F.TILE_INJECT_UE_NEXT]

/-- The fields of a MCU page. -/
def fieldsMCU : List Fld :=
  [F.MCU_MCU_CFG_PROFILE, F.MCU_MCU_CFG_AUTO_REPAIR, F.MCU_MCU_CFG_WRITEBACK, F.MCU_MCU_CFG_LANE_THRESH, F.MCU_PATROL_EN, F.MCU_PATROL_HOURS, F.MCU_STATUS_OFFLINE, F.MCU_STATUS_SELF_REFRESH, F.MCU_STATUS_PAUSED, F.MCU_STATUS_PAUSED_CH, F.MCU_STATUS_LANE_PENDING, F.MCU_ONLINE_LO_PC, F.MCU_ONLINE_HI_PC, F.MCU_ECC_CE_COUNT, F.MCU_ECC_UE_UE, F.MCU_ECC_UE_POISON_READS, F.MCU_ERR_ADDR_LOCAL, F.MCU_ERR_ADDR_UE, F.MCU_ERR_ADDR_VALID, F.MCU_ERR_PC_PC, F.MCU_ECC_CLR_CLEAR, F.MCU_LANE_REPAIR_REPAIRED, F.MCU_LANE_REPAIR_SPARES_LEFT, F.MCU_LANE_REPAIR_CH_EXHAUSTED, F.MCU_PATROL_PROG_UNIT, F.MCU_PATROL_PROG_PASSES, F.MCU_CH_SPARE_LEFT, F.MCU_CH_SPARE_USED, F.MCU_PERF_COUNT_LO_COUNT, F.MCU_PERF_COUNT_HI_COUNT] ++
  [F.MCU_PERF_COUNT_HI_WRAP_COUNT, F.MCU_PERF_WRAP_WRAPPED, F.MCU_PAGE_POLICY_MODE, F.MCU_PAGE_POLICY_OPEN_LIMIT, F.MCU_QUEUE_RD_DEPTH, F.MCU_QUEUE_WR_DEPTH, F.MCU_QUEUE_WR_HIGH, F.MCU_QUEUE_WR_LOW, F.MCU_REFRESH_TREFI_NS, F.MCU_REFRESH_PER_BANK, F.MCU_SCRUB_CFG_SHARE, F.MCU_SCRUB_CFG_PATROL_RATE, F.MCU_RETRAIN_CFG_PAUSE_MAX_US, F.MCU_RETRAIN_CFG_VBLANK_WAIT_MS, F.MCU_LANE_WIN_MS, F.MCU_INJECT_CE_NEXT, F.MCU_INJECT_UE_NEXT, F.MCU_TRAIN_A_VREF, F.MCU_TRAIN_A_RD_DELAY, F.MCU_TRAIN_A_WR_DELAY, F.MCU_TRAIN_B_SPARE0_LANE, F.MCU_TRAIN_B_SPARE0_USED, F.MCU_TRAIN_B_SPARE1_LANE, F.MCU_TRAIN_B_SPARE1_USED]

/-- The fields of a MEMQ page. -/
def fieldsMEMQ : List Fld :=
  [F.MEMQ_RES_DISPLAY_RES, F.MEMQ_RES_CAMERA_RES, F.MEMQ_HOST_AGE_US, F.MEMQ_IMAP_LO_BLOCK, F.MEMQ_IMAP_HI_BLOCK, F.MEMQ_IMAP_STATUS_REJECTED, F.MEMQ_OVER_DISPLAY, F.MEMQ_OVER_CAMERA, F.MEMQ_STARVED_BLIT, F.MEMQ_PERF_COUNT_LO_COUNT, F.MEMQ_PERF_COUNT_HI_COUNT, F.MEMQ_PERF_COUNT_HI_WRAP_COUNT, F.MEMQ_PERF_WRAP_WRAPPED, F.MEMQ_WINDOW_NS, F.MEMQ_DEMOTE_DISPLAY_HOLD, F.MEMQ_DEMOTE_CAMERA_HOLD]

/-- The fields of a LX page. -/
def fieldsLX : List Fld :=
  [F.LX_CFG_SPLIT, F.LX_CFG_AUTO_RESTRIPE, F.LX_CFG_AUTO_LANE_RETRAIN, F.LX_CFG_REACH, F.LX_CFG_STATUS_SPLIT_PENDING, F.LX_CFG_STATUS_SPLIT_NOW, F.LX_LANE_CLR_CLEAR, F.LX_PCTRL_EN, F.LX_PCTRL_BULK_TC, F.LX_PCTRL_FIBRE_M, F.LX_PSTATUS_STATE, F.LX_PSTATUS_CAUSE, F.LX_PSTATUS_TC7_ONLY, F.LX_PSTATUS_TX_LANES, F.LX_PSTATUS_RX_LANES, F.LX_PSTATUS_DEGRADED, F.LX_PSTATUS_PARTNER_RESTED, F.LX_PSTATUS_PARTNER_SLEEP, F.LX_PARTNER_CHIP, F.LX_PARTNER_PORT, F.LX_PARTNER_VALID, F.LX_PARTNER_PLAN_ID, F.LX_TX_MAP_LANES, F.LX_RX_MAP_LANES, F.LX_CW_CORR_COUNT, F.LX_CW_UNCORR_COUNT, F.LX_COUNTS_REPLAYS, F.LX_COUNTS_DOWNS, F.LX_LANE_COUNTS_DROPS, F.LX_LANE_COUNTS_ADDS] ++
  [F.LX_UP_MET_LO_MET, F.LX_UP_MET_HI_MET, F.LX_PCLEAR_CLEAR, F.LX_LANE_SYM_ERR, F.LX_LANE_LOCK, F.LX_LANE_TX_USE, F.LX_LANE_RX_USE, F.LX_LANE_FAILING, F.LX_LANE_BAD, F.LX_LANE_POL_INV, F.LX_LANE_RETRAINS, F.LX_PERF_COUNT_LO_COUNT, F.LX_PERF_COUNT_HI_COUNT, F.LX_PERF_COUNT_HI_WRAP_COUNT, F.LX_PERF_WRAP_WRAPPED, F.LX_CREDIT01_TC0, F.LX_CREDIT01_TC1, F.LX_CREDIT23_TC2, F.LX_CREDIT23_TC3, F.LX_CREDIT45_TC4, F.LX_CREDIT45_TC5, F.LX_CREDIT67_TC6, F.LX_CREDIT67_TC7, F.LX_LOSS_NS, F.LX_ACK_EVERY_CW, F.LX_ACK_MAX_10NS, F.LX_REPLAY_MAX, F.LX_REPLAY_NAK_WAIT_NS, F.LX_LANE_ERR_THRESH, F.LX_LANE_ERR_WIN_US] ++
  [F.LX_TX_EQ_PRE2, F.LX_TX_EQ_PRE1, F.LX_TX_EQ_MAIN, F.LX_TX_EQ_POST, F.LX_RX_CFG_CONT_ADAPT, F.LX_LOCK_CFG_LOSS_LOCK_NS]

/-- The fields of a TSP page. -/
def fieldsTSP : List Fld :=
  [F.TSP_TSP_CLR_CLEAR, F.TSP_CLASS_WEIGHT, F.TSP_CLASS_SHAPE_EN, F.TSP_CLASS_SHAPE_PKT, F.TSP_CLASS_SHAPE_GBS, F.TSP_PORT_CFG_MARK_THRESH, F.TSP_POL_DROPS_COUNT, F.TSP_POL_MARKS_COUNT, F.TSP_POL_DELAYS_COUNT, F.TSP_MARK_DROPS_COUNT, F.TSP_Q_FULL_COUNT, F.TSP_QMAX_PACKETS, F.TSP_SHAPE_HELD_COUNT, F.TSP_PCLEAR_CLEAR, F.TSP_QOCC_PACKETS, F.TSP_POL_MATCH_TC_MASK, F.TSP_POL_MATCH_SLICE_EN, F.TSP_POL_MATCH_EN, F.TSP_POL_MATCH_ACTION, F.TSP_POL_MATCH_SLICE, F.TSP_POL_RATE_RATE, F.TSP_POL_RATE_BURST, F.TSP_SRATE_RATE, F.TSP_SCAP_CAP, F.TSP_SCAP_IDLE_CAP, F.TSP_QDEPTH_TC, F.TSP_QCFG_RESP_RSV]

/-- The fields of a RTE page. -/
def fieldsRTE : List Fld :=
  [F.RTE_CFG_SLALOM_EN, F.RTE_CFG_PROFILE, F.RTE_STATUS_TRANSIT_ACTIVE, F.RTE_STATUS_PLAN_MISMATCH, F.RTE_STATUS_ALLOCATED, F.RTE_STATUS_ACTIVE, F.RTE_CTX_ALLOC_SLICE, F.RTE_CTX_ALLOC_FREE, F.RTE_TRANSIT_ACTIVE, F.RTE_ALLOC_STATS_GRANTED, F.RTE_ALLOC_STATS_REFUSED, F.RTE_CTX_SLICE, F.RTE_CTX_ALLOCATED, F.RTE_CTX_ACTIVE, F.RTE_CTX_BOUND, F.RTE_CTX_REACH_COUNT, F.RTE_DROP_SLICE_COUNT, F.RTE_DROP_MALFORMED_COUNT, F.RTE_DROP_TC7_ONLY_COUNT, F.RTE_NOT_IN_SLICE_COUNT, F.RTE_NO_ROUTE_COUNT, F.RTE_DETOURS_COUNT, F.RTE_DETOUR_DROPS_COUNT, F.RTE_WIN_FAULTS_COUNT, F.RTE_CNT_CLR_CLEAR, F.RTE_TIMEOUT_US, F.RTE_ZPEER_CHIP, F.RTE_ZPEER_PORT, F.RTE_ZPEER_VALID, F.RTE_SPREAD_MODE] ++
  [F.RTE_SETTLE_US, F.RTE_DETOUR_REDETOUR]

/-- The fields of a FAB page. -/
def fieldsFAB : List Fld :=
  [F.FAB_CFG_ELIGIBLE, F.FAB_CFG_PRIORITY, F.FAB_ROLE_MEMBER, F.FAB_ROLE_SECTION_LEADER, F.FAB_ROLE_CONDUCTOR, F.FAB_ROLE_DEPUTY, F.FAB_ROLE_ELECTING, F.FAB_CONDUCTOR_CHIP, F.FAB_CONDUCTOR_VALID, F.FAB_CONDUCTOR_DEPUTY, F.FAB_CONDUCTOR_DEPUTY_VALID, F.FAB_TERM_TERM, F.FAB_SECTION_LEADER, F.FAB_SECTION_VALID, F.FAB_TIMERS_BEAT_US, F.FAB_TIMERS_LOSS_BEATS, F.FAB_TIMERS_ELECT_MS, F.FAB_SW_NET_NET, F.FAB_MGMT_IP_ADDR, F.FAB_SW_TIMING_ACK_MS, F.FAB_SW_TIMING_SETTLE_MS, F.FAB_SW_TIMING_TRIES, F.FAB_SW_TIMING_RECIRCUIT_S, F.FAB_ADMIT_PORTS, F.FAB_MBX_CMD_CODE, F.FAB_MBX_CMD_TAG, F.FAB_MBX_ARG_ARG, F.FAB_MBX_STATUS_STATE, F.FAB_MBX_STATUS_RESULT, F.FAB_MBX_STATUS_TAG] ++
  [F.FAB_MBX_DETAIL_DETAIL, F.FAB_MBX_MET_LO_MET, F.FAB_MBX_MET_HI_MET, F.FAB_COUNTS_STALE, F.FAB_COUNTS_RELAY_DROPS, F.FAB_COUNTS2_RESET_REFUSED, F.FAB_COUNTS2_MBX_BUSY, F.FAB_ELECTIONS_ELECTIONS, F.FAB_ELECTIONS_SUCCESSIONS, F.FAB_LAST_RECOMPUTE_US, F.FAB_REST_STATUS_ANSWER, F.FAB_REST_STATUS_REASON, F.FAB_CNT_CLR_CLEAR]

/-- The fields of a MET page. -/
def fieldsMET : List Fld :=
  [F.MET_NOW_LO_MET, F.MET_NOW_HI_MET, F.MET_CFG_ROOT_EN, F.MET_CFG_BEACON_US, F.MET_CFG_HOLDOVER_MAX_MS, F.MET_CFG2_ROOT_LOSS, F.MET_CFG2_SLEW_LIMIT_US, F.MET_STATUS_STATE, F.MET_STATUS_SYNC, F.MET_STATUS_DEPTH, F.MET_STATUS_SRC_PORT, F.MET_STATUS_SLEWING, F.MET_STATUS_ROOT, F.MET_OFFSET_PS, F.MET_RATE_PPB, F.MET_ERR_BOUND_NS, F.MET_COUNTS_STEPS, F.MET_COUNTS_FREEZES, F.MET_COUNTS2_HOLDOVERS, F.MET_COUNTS2_ROOT_CHANGES, F.MET_CHANGE_MET_LO_MET, F.MET_CHANGE_MET_HI_MET, F.MET_CNT_CLR_CLEAR, F.MET_ASYM_ASYM_PS, F.MET_ASYM_RESID_DM]

/-- The fields of a SNP page. -/
def fieldsSNP : List Fld :=
  [F.SNP_SRC_EN_FIRE, F.SNP_SRC_EN_MET, F.SNP_SRC_EN_ERROR, F.SNP_SRC_EN_PIN, F.SNP_SRC_EN_REMOTE, F.SNP_SCOPE_FIRE, F.SNP_SCOPE_MET, F.SNP_SCOPE_ERROR, F.SNP_SCOPE_PIN, F.SNP_ERR_CLASSES_CLASSES, F.SNP_ERR_CLASSES_FORCE_HOLD, F.SNP_ERR_CLASSES_SNAP_OUT_EN, F.SNP_LEAD_NS, F.SNP_MIN_GAP_US, F.SNP_FIRE_FIRE, F.SNP_FIRE_RELEASE_ALL, F.SNP_FIRE_RELEASE_MACHINE, F.SNP_AT_MET_LO_MET, F.SNP_AT_MET_HI_MET, F.SNP_AT_CTRL_ARM, F.SNP_AT_CTRL_PERIOD_US, F.SNP_SEQ_SEQ, F.SNP_LAST_SOURCES, F.SNP_LAST_LATE, F.SNP_LAST_ORIGIN, F.SNP_LAST_T_LO_MET, F.SNP_LAST_T_HI_MET, F.SNP_LAST_LATCH_LO_MET, F.SNP_LAST_LATCH_HI_MET, F.SNP_ORIGIN_SEQ_SEQ] ++
  [F.SNP_PENDING_COUNT, F.SNP_EXCESS_COUNT, F.SNP_PEND_FULL_COUNT, F.SNP_LATE_COUNT_COUNT, F.SNP_SEQ_OUT_SEQ, F.SNP_CNT_CLR_CLEAR, F.SNP_HELD_PAGES_COUNT]

/-- The fields of a DH page. -/
def fieldsDH : List Fld :=
  [F.DH_TIMING_H_ACTIVE, F.DH_TIMING_H_TOTAL, F.DH_TIMING_H2_SYNC, F.DH_TIMING_H2_BACK, F.DH_TIMING_V_ACTIVE, F.DH_TIMING_V_TOTAL, F.DH_TIMING_V2_SYNC, F.DH_TIMING_V2_BACK, F.DH_SYNC_POL_HPOL, F.DH_SYNC_POL_VPOL, F.DH_PIXCLK_HZ, F.DH_FETCH_LEAD, F.DH_FETCH_PLAN_LAYERS, F.DH_FETCH_PLAN_BPP, F.DH_BG_R, F.DH_BG_G, F.DH_BG_B, F.DH_GENLOCK_SOURCE, F.DH_GENLOCK_EDGE, F.DH_GENLOCK_RATIO, F.DH_GENLOCK_JUMP_EN, F.DH_GENLOCK_LOCK_TOL_NS, F.DH_GL_OFFSET_NS, F.DH_GL_PERIOD_PERIOD, F.DH_GL_T0_LO_MET, F.DH_GL_T0_HI_MET, F.DH_HEADOK_ARM, F.DH_HEADOK_LATCH, F.DH_HEADOK_LOCK_REQ, F.DH_HEADOK_REARM] ++
  [F.DH_HEADOK_FORCE_RELEASE, F.DH_HEADOK_RECOVER, F.DH_STATUS_STATE, F.DH_STATUS_MODE_PENDING, F.DH_STATUS_IN_VBLANK, F.DH_STATUS_HEADOK_ON, F.DH_STATUS_LATCHED, F.DH_STATUS_REL_CAUSE, F.DH_POS_LINE, F.DH_POS_PIXEL, F.DH_FRAME_COUNT_COUNT, F.DH_FRAME_MET_LO_MET, F.DH_FRAME_MET_HI_MET, F.DH_LATE_LINES, F.DH_UNDERRUN_LINES, F.DH_BAD_FRAMES_FRAMES, F.DH_BAD_FRAMES_RELEASES, F.DH_GL_STATUS_STATE, F.DH_GL_STATUS_RANGE, F.DH_GL_PHASE_NS, F.DH_GL_PULL_PPB, F.DH_GL_COUNTS_SHORT, F.DH_GL_COUNTS_MISSING, F.DH_GL_COUNTS_RANGE, F.DH_GL_COUNTS_JUMPS, F.DH_GL_MET_LO_MET, F.DH_GL_MET_HI_MET, F.DH_START_FAIL_CAUSE, F.DH_CNT_CLR_CLEAR, F.DH_PLL_A_MUL_INT] ++
  [F.DH_PLL_A_PRE_DIV, F.DH_PLL_A_POST_DIV, F.DH_PLL_B_MUL_FRAC, F.DH_GL_LOOP_GAIN, F.DH_GL_LOOP_PULL_PPM, F.DH_GL_LIMITS_MIN_PCT, F.DH_GL_LIMITS_MISS, F.DH_GL_LIMITS_RANGE_PPM, F.DH_GL_JUMP_THRESH_US, F.DH_LS_RESERVE, F.DH_FETCH_X_OUTSTANDING]

/-- The fields of a DPTX page. -/
def fieldsDPTX : List Fld :=
  [F.DPTX_LINK_CFG_MAX_RATE, F.DPTX_LINK_CFG_MAX_LANES, F.DPTX_LINK_CFG_UHBR_EN, F.DPTX_LINK_CFG_FALLBACK_EN, F.DPTX_OUT_FMT_COLOUR, F.DPTX_OUT_FMT_BPC, F.DPTX_OUT_FMT_DSC_EN, F.DPTX_OUT_FMT_DSC_BPP, F.DPTX_OUT_FMT_DSC_SLICES, F.DPTX_HPD_LEVEL, F.DPTX_HPD_SINK, F.DPTX_LINK_STATUS_STATE, F.DPTX_LINK_STATUS_RATE, F.DPTX_LINK_STATUS_LANES, F.DPTX_LINK_STATUS_UHBR, F.DPTX_LINK_STATUS_DSC, F.DPTX_LINK_STATUS_CAUSE, F.DPTX_RETRAIN_REQ, F.DPTX_AUX_CMD_REQ, F.DPTX_AUX_CMD_ADDR, F.DPTX_AUX_CMD_LEN_M1, F.DPTX_AUX_DATA_DATA, F.DPTX_AUX_STATUS_BUSY, F.DPTX_AUX_STATUS_REPLY, F.DPTX_AUX_STATUS_DONE, F.DPTX_COUNTS_TRAINS, F.DPTX_COUNTS_LOSSES, F.DPTX_COUNTS_HPD_IRQS, F.DPTX_COUNTS_HPD_SHORT, F.DPTX_COUNTS2_UNPLUGS] ++
  [F.DPTX_COUNTS2_TRAIN_FAILS, F.DPTX_COUNTS2_AUX_TIMEOUTS, F.DPTX_CNT_CLR_CLEAR, F.DPTX_VALID_MET_LO_MET, F.DPTX_VALID_MET_HI_MET, F.DPTX_TX_LEVEL_SWING, F.DPTX_TX_LEVEL_PREEMPH, F.DPTX_TX_LEVEL_FFE_PRESET, F.DPTX_TRAIN_TIMEOUT_MS, F.DPTX_TRAIN_RETRY_S, F.DPTX_AUX_TIMEOUT_US, F.DPTX_AUX_DEFER_MAX, F.DPTX_HPDX_IRQ_MIN_US, F.DPTX_HPDX_UNPLUG_MS, F.DPTX_HPDX_SETTLE_MS, F.DPTX_DSC_RC_VALUE]

/-- The fields of a LAYER page. -/
def fieldsLAYER : List Fld :=
  [F.LAYER_STATE_COND, F.LAYER_STATE_HEAD, F.LAYER_STATE_Z, F.LAYER_STATE_FMT, F.LAYER_STATE_ALPHA, F.LAYER_STATE_PLANE_ALPHA, F.LAYER_STATE_ICSC_EN, F.LAYER_BASE_LO_BASE, F.LAYER_BASE_HI_BASE, F.LAYER_STRIDE_BYTES, F.LAYER_SRC_XY_X, F.LAYER_SRC_XY_Y, F.LAYER_SRC_WH_W, F.LAYER_SRC_WH_H, F.LAYER_DST_XY_X, F.LAYER_DST_XY_Y, F.LAYER_DST_WH_W, F.LAYER_DST_WH_H, F.LAYER_STEP_X_STEP, F.LAYER_STEP_Y_STEP, F.LAYER_ICSC_VALUE, F.LAYER_FRAMES_SHOWN_COUNT, F.LAYER_GRANT_MET_LO_MET, F.LAYER_GRANT_MET_HI_MET]

/-- The fields of a PROT page. -/
def fieldsPROT : List Fld :=
  [F.PROT_CTRL_SHOW, F.PROT_CTRL_FMT, F.PROT_CTRL_PREMULT, F.PROT_CTRL_REP_X, F.PROT_CTRL_REP_Y, F.PROT_POS_X, F.PROT_POS_Y, F.PROT_SIZE_W, F.PROT_SIZE_H, F.PROT_OFFSET_OFFSET, F.PROT_STRIDE_STRIDE, F.PROT_APPLY_APPLY, F.PROT_WIN_ADDR_ADDR, F.PROT_WIN_DATA_DATA, F.PROT_LOAD_SRC_LO_SRC, F.PROT_LOAD_SRC_HI_SRC, F.PROT_LOAD_DST_DST, F.PROT_LOAD_LEN_LEN, F.PROT_LOAD_CTRL_START, F.PROT_STATUS_APPLY_PENDING, F.PROT_STATUS_SHOWN, F.PROT_STATUS_BUSY, F.PROT_STATUS_ERROR, F.PROT_STATUS_BAD_APPLY]

/-- The fields of a SIG page. -/
def fieldsSIG : List Fld :=
  [F.SIG_CTRL_POLICY, F.SIG_CTRL_MISS_N, F.SIG_APPLY_APPLY, F.SIG_STATUS_MISMATCH, F.SIG_STATUS_APPLY_PENDING, F.SIG_STATUS_BAD_APPLY, F.SIG_STATUS_CHECKING, F.SIG_MATCH_MATCH, F.SIG_MATCH_CHECKED, F.SIG_MISMATCH_FRAMES_COUNT, F.SIG_FIRST_MET_LO_MET, F.SIG_FIRST_MET_HI_MET, F.SIG_CNT_CLR_CLEAR, F.SIG_REF_CRC, F.SIG_RXY_X, F.SIG_RXY_Y, F.SIG_RWH_W, F.SIG_RWH_H, F.SIG_RCTRL_EN, F.SIG_RCTRL_LEARN, F.SIG_LAST_CRC_CRC, F.SIG_CRC_INIT_INIT, F.SIG_CRC_XOROUT_XOROUT, F.SIG_CHAN_MASK_MASK]

/-- The fields of a CMT page. -/
def fieldsCMT : List Fld :=
  [F.CMT_ADDR_LO_ADDR, F.CMT_ADDR_HI_ADDR, F.CMT_CMD_GO, F.CMT_CMD_CANCEL, F.CMT_CMD_TAG, F.CMT_STATUS_STATE, F.CMT_STATUS_RESULT, F.CMT_STATUS_WAITED, F.CMT_STATUS_TAG, F.CMT_DETAIL_DETAIL, F.CMT_APPLIED_COUNT, F.CMT_APPLY_FRAME_FRAME, F.CMT_COUNTS_TIMEOUTS, F.CMT_COUNTS_REFUSALS, F.CMT_FENCE_ALLOC_SLOT, F.CMT_FENCE_ALLOC_ANY, F.CMT_FENCE_ALLOC_FREE, F.CMT_FENCE_COUNTS_DENIED, F.CMT_FENCE_COUNTS_REFUSED, F.CMT_FENCE_SIGNALS_COUNT, F.CMT_CNT_CLR_CLEAR, F.CMT_POOL_VID_HEAD, F.CMT_POOL_VID_HELD, F.CMT_POOL_GFX_HEAD, F.CMT_POOL_GFX_HELD, F.CMT_FENCE_VALUE, F.CMT_FENCE_OWNER_HOLDER, F.CMT_FENCE_OWNER_HELD, F.CMT_OCSC_NOW_VALUE, F.CMT_CUTOFF_LINES] ++
  [F.CMT_RECORD_TIMEOUT_US]

/-- The fields of a BLT page. -/
def fieldsBLT : List Fld :=
  [F.BLT_CTRL_OP, F.BLT_CTRL_Y_DIR, F.BLT_CTRL_CSC_EN, F.BLT_CTRL_ALPHA, F.BLT_CTRL_SRC_FMT, F.BLT_CTRL_DST_FMT, F.BLT_CTRL_PLANE_ALPHA, F.BLT_SRC_LO_SRC, F.BLT_SRC_HI_SRC, F.BLT_SRC_STRIDE_BYTES, F.BLT_DST_LO_DST, F.BLT_DST_HI_DST, F.BLT_DST_STRIDE_BYTES, F.BLT_SIZE_W, F.BLT_SIZE_H, F.BLT_FILL_LO_PIXEL, F.BLT_FILL_HI_PIXEL, F.BLT_CSC_VALUE, F.BLT_WATERMARK_WM_LINE, F.BLT_WATERMARK_WM_EVERY, F.BLT_SIGNAL_LO_DESC, F.BLT_SIGNAL_HI_DESC, F.BLT_SIG_CTRL_EN, F.BLT_OUT_OUTSTANDING, F.BLT_STATUS_LAST_WM, F.BLT_COUNTS_DONE, F.BLT_COUNTS_FAILED, F.BLT_START_MET_LO_MET, F.BLT_START_MET_HI_MET, F.BLT_END_MET_LO_MET] ++
  [F.BLT_END_MET_HI_MET, F.BLT_CNT_CLR_CLEAR]

/-- The fields of a CSI page. -/
def fieldsCSI : List Fld :=
  [F.CSI_CFG_LANES, F.CSI_CFG_VC, F.CSI_CFG_DT, F.CSI_CFG_EMB_EN, F.CSI_CFG_RATE_MBPS, F.CSI_GEOM_WIDTH, F.CSI_GEOM_HEIGHT, F.CSI_LANE_MAP_MAP, F.CSI_LANE_MAP_POL_INV, F.CSI_STATUS_IN_FRAME, F.CSI_STATUS_LANE_SYNC, F.CSI_STATUS_CLK_ACTIVE, F.CSI_FRAME_NUM_NUM, F.CSI_COUNTS_LANE_ERR, F.CSI_COUNTS_ECC_CORR, F.CSI_COUNTS_ECC_UNCORR, F.CSI_COUNTS_CRC_ERR, F.CSI_COUNTS2_LEN_ERR, F.CSI_COUNTS2_OTHER_VC, F.CSI_COUNTS2_OTHER_DT, F.CSI_COUNTS2_FE_MISSING, F.CSI_LINES_LAST_LINES, F.CSI_FS_MET_LO_MET, F.CSI_FS_MET_HI_MET, F.CSI_CNT_CLR_CLEAR]

/-- The fields of a ISP page. -/
def fieldsISP : List Fld :=
  [F.ISP_APPLY_APPLY, F.ISP_STATUS_STATE, F.ISP_STATUS_APPLY_PENDING, F.ISP_STATUS_BAD_APPLY, F.ISP_STATUS_BAD_CAUSE, F.ISP_SEQ_SEQ, F.ISP_LAST_FLAGS_FLAGS, F.ISP_DONE_MET_LO_MET, F.ISP_DONE_MET_HI_MET, F.ISP_COUNTS_CORRUPT, F.ISP_COUNTS_OVERFLOW, F.ISP_COUNTS2_WRITE_ERR, F.ISP_COUNTS2_SIG_ERR, F.ISP_CNT_CLR_CLEAR, F.ISP_CFG_CFA, F.ISP_CFG_NR_LEVEL, F.ISP_CFG_TNR_EN, F.ISP_CFG_GAMMA, F.ISP_CFG_TC, F.ISP_CFG_CORRUPT_SIG, F.ISP_BLACK_LEVEL, F.ISP_WB_GAIN, F.ISP_CCM_VALUE, F.ISP_TNR_BASE_LO_TNR_BASE, F.ISP_TNR_BASE_HI_TNR_BASE, F.ISP_STATS_ADDR_LO_STATS_ADDR, F.ISP_STATS_ADDR_HI_STATS_ADDR, F.ISP_RECORD_ADDR_LO_RECORD_ADDR, F.ISP_RECORD_ADDR_HI_RECORD_ADDR, F.ISP_EMB_ADDR_LO_EMB_ADDR] ++
  [F.ISP_EMB_ADDR_HI_EMB_ADDR, F.ISP_EMB_MAX_BYTES, F.ISP_CTRL_EN, F.ISP_CTRL_FMT, F.ISP_CTRL_FMT_HI, F.ISP_CTRL_NBUF, F.ISP_CTRL_SIG_EN, F.ISP_CTRL_CHANNELS, F.ISP_BASE_LO_BASE, F.ISP_BASE_HI_BASE, F.ISP_STRIDE_BYTES, F.ISP_BUF_STEP_BYTES, F.ISP_CROP_XY_X, F.ISP_CROP_XY_Y, F.ISP_CROP_WH_W, F.ISP_CROP_WH_H, F.ISP_OUT_WH_W, F.ISP_OUT_WH_H, F.ISP_SIGNAL_LO_DESC, F.ISP_SIGNAL_HI_DESC, F.ISP_SCALE_FP32, F.ISP_OFFSET_FP32, F.ISP_PLANE_STEP_BYTES, F.ISP_TRIG_SRC, F.ISP_TRIG_HEAD, F.ISP_TRIG_WIDTH_US, F.ISP_TRIG_PERIOD_PERIOD, F.ISP_TRIG_T0_LO_MET, F.ISP_TRIG_T0_HI_MET, F.ISP_TRIG_OFFSET_NS] ++
  [F.ISP_SNR_W_W1, F.ISP_SNR_W_W2, F.ISP_SNR_W_RANGE, F.ISP_TNR_STRENGTH, F.ISP_TNR_MOTION, F.ISP_TONE_VALUE, F.ISP_OCSC_DISP_VALUE, F.ISP_OCSC_CODE_VALUE, F.ISP_OUT_OUTSTANDING]

/-- The fields of a HIF page. -/
def fieldsHIF : List Fld :=
  [F.HIF_LINK_STATUS_SPEED, F.HIF_LINK_STATUS_FLIT, F.HIF_LINK_STATUS_DL_ACTIVE, F.HIF_LINK_STATUS_NUM_VFS, F.HIF_LINK_CFG_MAX_SPEED, F.HIF_IRQ_CTRL_PF_MGMT, F.HIF_COUNTS_LINK_DOWNS, F.HIF_COUNTS_TRAIN_FAILS, F.HIF_COUNTS2_UR_SENT, F.HIF_COUNTS2_CA_SENT, F.HIF_COUNTS3_POSTED_DROPS, F.HIF_COUNTS3_HOST_FAULTS, F.HIF_CNT_CLR_CLEAR, F.HIF_DOWN_MET_LO_MET, F.HIF_DOWN_MET_HI_MET, F.HIF_ST_BASE_LO_BASE, F.HIF_ST_BASE_HI_BASE, F.HIF_ST_CTRL_EN, F.HIF_ST_CTRL_POLICY, F.HIF_ST_CTRL_VECTOR, F.HIF_ST_CTRL_IRQ_EN, F.HIF_ST_CTRL_FLUSH_MS, F.HIF_ST_CTRL_PERIOD_MS, F.HIF_ST_RING_N, F.HIF_ST_RING_HEAD, F.HIF_ST_TAIL_TAIL, F.HIF_ST_TADDR_LO_ADDR, F.HIF_ST_TADDR_HI_ADDR, F.HIF_ST_COUNTS_DROPPED, F.HIF_ST_COUNTS_LOST]

/-- The fields of a PART page. -/
def fieldsPART : List Fld :=
  [F.PART_CFG_SCRUB_SHARE, F.PART_CREATE_P, F.PART_ASSIGN_KIND, F.PART_ASSIGN_P, F.PART_ASSIGN_IDX_FIRST, F.PART_ASSIGN_IDX_COUNT, F.PART_ASSIGN_STATUS_RESULT, F.PART_ASSIGN_STATUS_INDEX, F.PART_QUERY_KIND, F.PART_QUERY_INDEX, F.PART_QUERY_OWNER_OWNER, F.PART_P_STATE_STATE, F.PART_P_STATE_CTX, F.PART_P_STATE_CTX_VALID, F.PART_P_STATE_VF, F.PART_P_STATE_VF_VALID, F.PART_P_STATE_HEADS, F.PART_P_STATE_PIPES, F.PART_P_STATE_BLT, F.PART_P_COUNT_TILES, F.PART_P_COUNT_GRANULES, F.PART_DENY_COUNT, F.PART_DRAIN_DROPS_COUNT, F.PART_FENCE_CAUSE_EVENT, F.PART_DENY_LOG_REQUESTER, F.PART_DENY_LOG_SRC_CHIP, F.PART_DENY_LOG_TARGET, F.PART_DENY_LOG_VALID, F.PART_DENY_OFF_LO_OFFSET, F.PART_DENY_OFF_HI_OFFSET] ++
  [F.PART_DENY_MET_LO_MET, F.PART_DENY_MET_HI_MET, F.PART_CNT_CLR_CLEAR]

/-- The fields of a ERR page. -/
def fieldsERR : List Fld :=
  [F.ERR_CLASS_COUNT_COUNT, F.ERR_UNMAPPED_COUNT, F.ERR_STRAY_RESP_COUNT, F.ERR_POISON_A_TILE, F.ERR_POISON_A_HOST, F.ERR_POISON_B_DISPLAY, F.ERR_POISON_B_CAMERA, F.ERR_POISON_C_BLT_CMT, F.ERR_POISON_C_MGC, F.ERR_LAST_UNMAPPED_REQUESTER, F.ERR_LAST_UNMAPPED_SRC_CHIP, F.ERR_LAST_UNMAPPED_VALID, F.ERR_LAST_UNMAPPED_OFF_LO_OFFSET, F.ERR_LAST_UNMAPPED_OFF_HI_OFFSET, F.ERR_FIRST_CODE, F.ERR_FIRST_VALID, F.ERR_FIRST_MET_LO_MET, F.ERR_FIRST_MET_HI_MET, F.ERR_INJECT_CODE, F.ERR_INJECT_DATA, F.ERR_CNT_CLR_CLEAR]

/-- The fields of a EVL page. -/
def fieldsEVL : List Fld :=
  [F.EVL_CFG_POL0, F.EVL_CFG_POL1, F.EVL_CFG_MASK0, F.EVL_CFG_MASK1, F.EVL_SEQ_NEXT_SEQ, F.EVL_LOG_STATUS_COUNT, F.EVL_LOG_STATUS_FIRST, F.EVL_LOG_STATUS_FULL, F.EVL_LOG_OLDEST_SEQ_SEQ, F.EVL_LOG_LOST_COUNT, F.EVL_LOG_CTL_RELEASE, F.EVL_LOG_CTL_CLEAR, F.EVL_SRC_LOST_COUNT, F.EVL_RD_SEL_POS, F.EVL_RD_SEL_LOG, F.EVL_RD_STATUS_VALID, F.EVL_ENTRY_WORD]

/-- The fields of a FN page. -/
def fieldsFN : List Fld :=
  [F.FN_FN_ID_FUNC, F.FN_FN_ID_REQUESTER, F.FN_FN_ID_BOUND, F.FN_FN_CFG_TC, F.FN_FN_COUNTS_AP_FAULTS, F.FN_FN_COUNTS_BAD_WRITES, F.FN_FN_CLR_CLEAR, F.FN_PEND_MAP_PAGES, F.FN_MOD_US, F.FN_AP_LO_VALID, F.FN_AP_LO_ORDERED, F.FN_AP_LO_BASE, F.FN_AP_HI_BASE]

/-- The fields of a HQ page. -/
def fieldsHQ : List Fld :=
  [F.HQ_SQ_LO_BASE, F.HQ_SQ_HI_BASE, F.HQ_CQ_LO_BASE, F.HQ_CQ_HI_BASE, F.HQ_QCFG_EN, F.HQ_QCFG_DEPTH_LOG2, F.HQ_QCFG_VECTOR, F.HQ_QCFG_IRQ_EN, F.HQ_QCFG_FUNC, F.HQ_QCFG_LOCAL, F.HQ_QCFG_INFLIGHT, F.HQ_QCFG_STATE, F.HQ_QSTATUS_CLAIMED, F.HQ_QSTATUS_COMPLETED]

/-- The fields of a BOOT page. -/
def fieldsBOOT : List Fld :=
  [F.BOOT_RECORD_ACTIVE_SLOT, F.BOOT_RECORD_STATE, F.BOOT_RECORD_TRIALS, F.BOOT_RECORD_COPY0_OK, F.BOOT_RECORD_COPY1_OK, F.BOOT_RECORD_FALLBACK, F.BOOT_RECORD_REVERTED, F.BOOT_RECORD_RUNNING_SLOT, F.BOOT_RECORD_SEQ_SEQ, F.BOOT_SLOT_STATE_A, F.BOOT_SLOT_STATE_B, F.BOOT_VERSION_A_VERSION, F.BOOT_VERSION_B_VERSION, F.BOOT_SVN_FUSED, F.BOOT_SVN_SVN_A, F.BOOT_SVN_SVN_B, F.BOOT_RUNNING_VERSION]

/-- The fields of a FLASH page. -/
def fieldsFLASH : List Fld :=
  [F.FLASH_DEV_INFO_MFR, F.FLASH_DEV_INFO_SIZE_LOG2, F.FLASH_DEV_INFO_PRESENT, F.FLASH_DEV_INFO_USABLE, F.FLASH_FLASH_ERR_READ, F.FLASH_FLASH_ERR_PROG, F.FLASH_FLASH_ERR_ERASE, F.FLASH_WIN_CTRL_PUSH, F.FLASH_WIN_CTRL_BUSY, F.FLASH_WIN_CTRL_OVERRUN, F.FLASH_WIN_DATA]

/-- The fields of a LIC page. -/
def fieldsLIC : List Fld :=
  [F.LIC_ACTIVE_FEATURES, F.LIC_ACTIVE_VARIANT, F.LIC_ACTIVE_VALID, F.LIC_STORED_FEATURES, F.LIC_STORED_VARIANT, F.LIC_STORED_VALID, F.LIC_ACTIVE_LSN_LSN, F.LIC_STORED_LSN_LSN, F.LIC_PENDING_REBOOT_NEEDED, F.LIC_COPY_STATE_COPY0, F.LIC_COPY_STATE_COPY1, F.LIC_WIN_DATA]

end Sys2Proof.Machine
end

