-- ==== Sys2Proof/Machine/State.lean ====
section
/-! DEFINITION. The state of the PN4 as plain data. Every field of a register page (R77, R89, R94 and the block tables)
lies in `regs`, one 32-bit word per window offset; what the spec gives the chip beside its registers lies in one
structure per block. -/
namespace Sys2Proof.Machine
open Sys2Proof

/-- Why the machine stops. No command of this model faults: a wrong access is answered, recorded, counted or raised
as an event by the spec's own rules (03 R92, 24 R689). -/
inductive Fault where
  /-- Raised by no command; safe. -/
  | none
  deriving DecidableEq, Repr

/-- Why a command has no meaning. -/
inductive Refusal where
  /-- A command without a meaning; raised by its arm of `exec` alone, and by none of them: every command of the table has its
  meaning. Safe. -/
  | notModelled (mnemonic : String)
  deriving DecidableEq, Repr

/-- What is fused into a die (04 R122, R135, R140; 05 R154, R160). -/
structure Fuses where
  /-- Tiles bad by FUSE. -/
  badTiles : List Nat
  /-- Blown SVN fuses. -/
  svn : Nat
  /-- The serial number, and the MAC address of the management port. -/
  serial : Nat
  mac : Nat
  /-- The SHA-384 hashes of the firmware keys, by slot; none in an unprogrammed slot (05 R154). -/
  fwKeys : List (Option (List Byte))
  /-- The SHA-384 hashes of the licence keys, by slot. -/
  licKeys : List (Option (List Byte))
  deriving DecidableEq, Repr

/-- The retention record (04 R117): the firmware image that wrote it; the floor plan it carries stands in `plan`. -/
structure Retention where
  /-- Identity of the image that wrote the record: the SHA-384 of its signed header. -/
  image : List Byte
  /-- The marks of the tiles that were bad: (tile, reason). -/
  marks : List (Nat × Nat)
  /-- FP_INFO.SEQ. -/
  seq : Nat
  deriving DecidableEq, Repr

/-- The state of a tile's sequencer-image load (04 R127-R129). -/
inductive SeqLoad where
  /-- The image was not sent. -/
  | unsent
  /-- Sent; resent so many times. -/
  | waiting (resends : Nat)
  /-- A correct acknowledgement has counted. -/
  | acked
  deriving DecidableEq, Repr

/-- Pins, reset and boot (04, 26 R733-R744). -/
structure Chip where
  /-- PWR_OK pin. -/
  pwrOk : Bool
  /-- RESET_N pin. -/
  resetN : Bool
  /-- PERST_N pin. -/
  perstN : Bool
  /-- TEST_EN sampled at the rise of PWR_OK (R744). -/
  testEn : Bool
  /-- The LOC[12:0] straps. -/
  loc : Nat
  /-- The PN4's own detectors find VDD_AON or VDDIO_1V8 below tolerance (R735). -/
  supplyLow : Bool
  /-- The internal reset is asserted (R107). -/
  inReset : Bool
  /-- The sources of Table 4.1 that became active since the internal reset was last released. -/
  sources : List Nat
  /-- The watchdog has been stopped by a PERIOD of 0 or by HALTED, or counts (R116). -/
  wdogOn : Bool
  /-- The boot runs: neither DONE nor HALTED (R113). -/
  booting : Bool
  /-- The boot is on the fast path (R117). -/
  fast : Bool
  /-- The retention record, if valid (R117). -/
  retention : Option Retention
  /-- The last reset was caused by a FATAL error (Table 4.3). -/
  lastFatal : Bool
  /-- FAST_EN at the moment of reset (Table 4.3). -/
  fastEnAtReset : Bool
  /-- Floor-plan mark of each tile: 0 good, 1 FUSE, 2 BIST, 3 SEQ, 4 RUN (R122). -/
  fp : Fmap Nat
  /-- The floor plan has been published by this boot. -/
  fpPublished : Bool
  /-- The sequencer-image load of each tile. -/
  seqLoad : Fmap SeqLoad
  /-- Ports of the plan still PENDING at boot, and whether the readiness check is final (R134). -/
  topoFinal : Bool
  /-- The tiles of the TILE_BIST batch under test, the tiles of the range it covers, and those it skips (R138). -/
  bistBatch : List Nat
  bistUnits : Nat
  bistSkips : Nat
  /-- The first increment of ETH_COUNTS since CNT_CLR has interrupted (R141). -/
  ethErrSeen : Bool
  /-- REFCLK_SYS is present (26 R742). -/
  refSys : Bool
  /-- REFCLK_LNK is present. -/
  refLnk : Bool
  /-- PCIE_REFCLK is present. -/
  refPcie : Bool
  deriving DecidableEq, Repr

/-- An event as its page holds it until the log's write port takes it (24 R692, R693). -/
structure Event where
  code : Nat
  page : Nat
  injected : Bool
  met : Nat
  d0 : Nat
  d1 : Nat
  d2 : Nat
  deriving DecidableEq, Repr

/-- An entry of an event log (Table 24.3). -/
structure LogEntry where
  ev : Event
  seq : Nat
  deriving DecidableEq, Repr

/-- The event buffers and the two logs (24 R693-R697). -/
structure Evl where
  /-- Events not yet written, by logging page, oldest first; at most 4 each. -/
  pend : Fmap (List Event)
  /-- Log 0, oldest first. -/
  log0 : List LogEntry
  /-- Log 1, oldest first. -/
  log1 : List LogEntry
  /-- Ring position of the next entry of each log. -/
  pos0 : Nat
  pos1 : Nat
  /-- Whether LOST has incremented since the last CLEAR of each log, and whether log 0 has overwritten since then. -/
  lost0 : Bool
  lost1 : Bool
  wrapped0 : Bool
  /-- The page served last by the write port (R43, R693). -/
  lastPage : Nat
  deriving DecidableEq, Repr

/-- One pending downbeat (17 R502). -/
structure SnpEntry where
  t : Nat
  sources : Nat
  origin : Nat
  oseq : Nat
  deriving DecidableEq, Repr

/-- The downbeat source (17 R498-R511). -/
structure Snp where
  /-- Pending downbeats, at most 4. -/
  pend : List SnpEntry
  /-- The tick of the last latch since the last reset, if any. -/
  lastLatch : Option Nat
  /-- Per origin chip, one more than the last ORIGIN_SEQ seen, 0 for none. -/
  seen : Fmap Nat
  /-- The MET schedule as captured at ARM: AT_MET, PERIOD_US, and the instants already scheduled. -/
  armed : Option (Nat × Nat × Nat)
  /-- The origin counter SEQ_OUT, of which the register shows the low 16 bits. -/
  seqOut : Nat
  /-- The SNAP_OUT pin. -/
  pinOut : Bool
  /-- An excess has been logged since CNT_CLR. -/
  excessLogged : Bool
  deriving DecidableEq, Repr

/-- MSI-X state (22 R652-R655); a vector is named by function × 256 + vector. -/
structure Msi where
  /-- Functions with MSI-X enabled, and those with the function mask set. -/
  enabled : List Nat
  fmask : List Nat
  /-- Vectors unmasked in the MSI-X table. -/
  opened : List Nat
  /-- Vectors whose MOD interval runs. -/
  busy : List Nat
  /-- Vectors with a coalesced message waiting. -/
  coal : List Nat
  /-- Pending bits of masked vectors. -/
  pba : List Nat
  deriving DecidableEq, Repr

/-- The ladder and the operating point, beside the PWR page (06). -/
structure Pwr where
  /-- The rung being entered. -/
  entering : Option Nat
  /-- The drain of step 2 is in progress. -/
  draining : Bool
  /-- The state an exit in progress reaches. -/
  exiting : Option Nat
  /-- The exit in progress abandons an entry. -/
  aborted : Bool
  /-- The exit in progress was caused by a wake event. -/
  wakeExit : Bool
  /-- The state or rung the exit in progress leaves. -/
  exitFrom : Nat
  /-- R188 holds the chip at the state it reached. -/
  heldUp : Bool
  /-- The tick at which the entry or exit began. -/
  moveStart : Nat
  /-- The target of the operating-point change in progress. -/
  oppTarget : Option Nat
  /-- The slowest of the operating points the change in progress involves. -/
  oppSlow : Nat
  /-- Successive NAKs of the voltage request. -/
  naks : Nat
  /-- The end of REST waits for LINKS_LOCKED or for the conductor (R191). -/
  restEnding : Bool
  /-- The REST announcement was withdrawn: a late acknowledgement sets nothing (R191). -/
  restWithdrawn : Bool
  /-- WARN is disarmed (R197). -/
  warnOff : Bool
  /-- Stacks whose HBM_WARN is disarmed. -/
  hbmWarnOff : List Nat
  /-- THERMTRIP_N is asserted (R196, R42). -/
  tripped : Bool
  /-- An OVER_GUAR episode runs (R60). -/
  overEpisode : Bool
  /-- HBM contents were lost on entry and are not yet initialised (R175, R199). -/
  hbmLost : Bool
  /-- LINKS_LOCKED must return after an exit. -/
  linksLost : Bool
  deriving DecidableEq, Repr

/-- What the chip sees of one QSPI flash device (05 R144): whether it answers, and what its SFDP says. -/
structure FlashDev where
  present : Bool
  mfr : Nat
  sizeLog2 : Nat
  usable : Bool
  deriving DecidableEq, Repr

/-- The cabling plan in force (15 R423-R426). -/
structure Plan where
  id : Nat
  seq : Nat
  /-- The group table. -/
  groups : List Nat
  /-- The chip table. -/
  chips : List Nat
  /-- The exceptions, as their two words. -/
  excs : List (Nat × Nat)
  deriving DecidableEq, Repr

/-- A boot record (Table 5.3). -/
structure BootRec where
  seq : Nat
  active : Nat
  /-- 1 CONFIRMED, 2 TRIAL. -/
  st : Nat
  trials : Nat
  previous : Nat
  activeVersion : Nat
  previousVersion : Nat
  deriving DecidableEq, Repr

/-- The state of the BOOT, FLASH and LIC operations beside their pages (05). -/
structure BootOps where
  /-- Identity of the running image. -/
  image : List Byte
  /-- SVN of the running bundle. -/
  svn : Nat
  /-- The record that ACTIVATE or CONFIRM writes, and how many copies are written. -/
  newRec : Option BootRec
  copies : Nat
  /-- The 256 bytes latched at PUSH (R148). -/
  latch : List Byte
  /-- The licence fetched by INSTALL, and the verdict so far. -/
  licBuf : List Byte
  verdict : Nat
  deriving DecidableEq, Repr

/-- The IEEE 1149.1 port (26 R749). -/
structure Jtag where
  /-- The register selected: 0 BYPASS, 1 IDCODE, 2 the boundary chain. -/
  sel : Nat
  /-- The boundary chain. -/
  chain : Nat
  /-- EXTEST drives the CMOS pins from the chain. -/
  driving : Bool
  deriving DecidableEq, Repr

/-- A request an endpoint has sent and tracks until its response arrives (12 R354, R356). -/
structure Track where
  ep : Nat
  ctx : Nat
  dst : Nat
  offset : Nat
  op : Nat
  req : Nat
  /-- What the endpoint sent it for, and the endpoint's own arguments. -/
  use : Nat
  arg : Nat
  arg2 : Nat
  /-- The request has timed out; its tag is in quarantine. -/
  quar : Bool
  deriving DecidableEq, Repr

/-- A command that has issued to an engine of a tile (07 R215, 08 R238). -/
structure Job where
  /-- The number of the job in its tile's issue order. -/
  jid : Nat
  /-- Address / 32 of the command. -/
  cp : Nat
  /-- Its eight words. -/
  w : List Nat
  /-- The signal descriptor read at issue, when SMODE sends a remote signal. -/
  desc : Option Nat
  /-- S[AREG], S[BREG] and S[CREG] read at issue. -/
  base : Nat
  b : Nat
  c : Nat
  tc : Nat
  /-- Payload and outstanding limits read at issue (R251). -/
  pay : Nat
  maxPkts : Nat
  maxReads : Nat
  /-- The next piece: row and byte offset in it. -/
  row : Nat
  off : Nat
  allSent : Bool
  inflight : Nat
  /-- The exception that ended it at fault, with its detail. -/
  fault : Option (Nat × Nat)
  /-- The response of an ATOMIC. -/
  got : List Byte
  deriving DecidableEq, Repr

/-- A weight stage of the MXU (08 R257): format, K, and the bytes staged: rows and scales. -/
structure Stage where
  fmt : Nat
  k : Nat
  rows : List (List Byte)
  scales : List Byte
  /-- The filling ended at fault: what is not filled holds unspecified values. -/
  lost : Bool
  deriving DecidableEq, Repr

/-- An accumulator set of the MXU: its type (0 FP32, 1 INT32, 2 FP64) and its values as bit patterns, row by row. -/
structure AccSet where
  typ : Nat
  vals : List Nat
  /-- The set holds unspecified values after a command ended at fault (R260). -/
  lost : Bool
  deriving DecidableEq, Repr

/-- A tile beside its page (07). -/
structure Tile where
  /-- The command row read last, by row number, while its commands are in use. -/
  fetched : Option (Nat × List Nat)
  /-- The head is held by the Metronome wait of WAIT_MET, past its header's wait. -/
  waitMet : Bool
  /-- Marked for OFF (Table 7.4). -/
  offMark : Bool
  /-- The queues of the engines, the oldest command first (R215). -/
  qdma : List Job
  qmxu : List Job
  qvxu : List Job
  /-- Engine commands issued so far. -/
  jids : Nat
  /-- The weight stages and the accumulator sets. -/
  ws : List (Option Stage)
  acc : List AccSet
  /-- The sequencer's records: format and K of each stage, accumulation type of each set (R257). -/
  wrec : List (Option (Nat × Nat))
  arec : List Nat
  /-- The error the next SRAM write stores: 0 none, 1 single-bit, 2 double-bit (R229). -/
  inject : Nat
  /-- The drain stream and the vector stream (R278). -/
  drain : Nat
  vec : Nat
  deriving DecidableEq, Repr

/-- A tile after reset: empty queues and stages, zero accumulators of type FP32, streams loaded from seed 0. -/
def Tile.fresh : Tile :=
  { fetched := none, waitMet := false, offMark := false, qdma := [], qmxu := [], qvxu := [], jids := 0,
    ws := [none, none], acc := [{ typ := 0, vals := [], lost := false }, { typ := 0, vals := [], lost := false }],
    wrec := [none, none], arec := [0, 0], inject := 0, drain := 0x9E3779B97F4A7C15, vec := 0xD1B54A32D192ED03 }

/-- An access that waits in the queue of an MCU (11 R328, R329). -/
structure HbmAccess where
  p : Packet
  /-- The pseudo-channel i in the MCU. -/
  pc : Nat
  /-- The class: 0 DISPLAY, 1 CAMERA, 2 TILE, 3 REMOTE, 4 HOST, 5 BLIT. -/
  cls : Nat
  /-- A HOST access that has waited AGE_US. -/
  aged : Bool
  /-- It waited already when the window began. -/
  old : Bool
  deriving DecidableEq, Repr

/-- A memory controller beside its page (11). -/
structure Mcu where
  /-- Accesses waiting, in arrival order. -/
  queue : List HbmAccess
  /-- DISPLAY and CAMERA accesses served in the window. -/
  nDisp : Nat
  nCam : Nat
  /-- The reservations and the length of the window under way (R330). -/
  dRes : Nat
  cRes : Nat
  winNs : Nat
  /-- The last window went beyond the reservation: an episode runs. -/
  overD : Bool
  overC : Bool
  /-- Per pseudo-channel, one more than the class served last at rank 3. -/
  last : Fmap Nat
  /-- The error the next write stores: 0 none, 1 one-symbol, 2 two-symbol (R337). -/
  inject : Nat
  /-- Correctable errors not yet older than LANE_WIN: channel, lane and tick (R326). -/
  ces : List (Nat × Nat × Nat)
  /-- Lanes marked failing and not yet repaired: channel and lane. -/
  failing : List (Nat × Nat)
  /-- RETRAIN waits for vertical blank; the wait ran out (R325). -/
  vbWait : Bool
  vbLate : Bool
  deriving DecidableEq, Repr

/-- A controller after reset. -/
def Mcu.fresh : Mcu :=
  { queue := [], nDisp := 0, nCam := 0, dRes := 2, cRes := 2, winNs := 1000, overD := false, overC := false, last := [],
    inject := 0, ces := [], failing := [], vbWait := false, vbLate := false }

/-- A port of a link beside its page (13, 14). -/
structure Port where
  /-- The number of the next new numbered codeword, and the numbered codewords no ACK covers, oldest first (R374). -/
  txNext : Nat
  unacked : List (Nat × List (List Byte))
  /-- Flit slots chosen and not yet sent in a codeword; none is an idle flit. -/
  slots : List (Option (List Byte))
  /-- Header items that wait, in the order they arose: KIND, ARG, AUX (R372). -/
  items : List (Nat × Nat × Nat)
  /-- The kind of the item sent last. -/
  lastKind : Nat
  /-- Credits held for each class (R378). -/
  creds : List Nat
  /-- The number the receiver wants, the number of the codeword that arrives next, and the numbered codewords received
  since the last ACK. -/
  rxWant : Nat
  rxAt : Nat
  rxDue : Nat
  /-- A NAK waits for its REPLAY, and how often it was sent in a row. -/
  nak : Bool
  nakTries : Nat
  /-- The packet under assembly: its bytes, and the flits still to come. -/
  part : List Byte
  partLeft : Nat
  /-- Port-local lanes whose DROP_REQ or ADD_REQ waits for its MAP, in order, and the attempts (R385, R386). -/
  drops : List Nat
  adds : List Nat
  mapTries : Nat
  /-- Port-local lanes on which this side transmits PRBS31Q (R387). -/
  prbs : List Nat
  /-- The identity exchange: an IDENT_ACK was received, and one was sent (R368). -/
  gotAck : Bool
  sentAck : Bool
  /-- What the partner's IDENT said: width code, credits, HB_NS and REST. -/
  pWidth : Nat
  pCreds : List Nat
  pHb : Nat
  pRest : Bool
  /-- The mode of the training under way, and whether the PN4 started it by itself (Table 13.2, R382). -/
  trainMode : Nat
  auto : Bool
  /-- The port has been ACTIVE since reset, and its settle time runs (R438). -/
  everUp : Bool
  settling : Bool
  /-- The class of the weighted round and its allowance (R401). -/
  rr : Nat
  rrLeft : Nat
  /-- Shaper credits of TC0-TC5 and policer tokens, in 1/16000 packet, as of tick `shAt` (R403, R406). -/
  shapers : List Int
  tokens : List Nat
  shAt : Nat
  /-- Packets received whole that stand in the receive buffer, and the classes whose head waits for a token of a
  policer. -/
  rxq : List Packet
  delayed : List (Nat × Nat)
  /-- Symbol errors not yet older than WIN_US: link lane and tick; and the lanes whose failure was logged once (R384). -/
  symErrs : List (Nat × Nat)
  failLogged : List Nat
  deriving DecidableEq, Repr

/-- A port after reset: nothing in flight, no credits, policers full with a BURST of 1. -/
def Port.fresh : Port :=
  { txNext := 0, unacked := [], slots := [], items := [], lastKind := 0, creds := [], rxWant := 0, rxAt := 0, rxDue := 0,
    nak := false, nakTries := 0, part := [], partLeft := 0, drops := [], adds := [], mapTries := 0, prbs := [],
    gotAck := false, sentAck := false, pWidth := 0, pCreds := [], pHb := 0, pRest := false, trainMode := 0, auto := false,
    everUp := false, settling := false, rr := 0, rrLeft := 0, shapers := [0, 0, 0, 0, 0, 0],
    tokens := [16000, 16000, 16000, 16000, 16000, 16000, 16000, 16000], shAt := 0, rxq := [], delayed := [], symErrs := [],
    failLogged := [] }

/-- The beacon last received on a port (17 R489-R491). -/
structure Beacon where
  valid : Bool
  tTx : Nat
  rx : Nat
  key : Nat
  root : Nat
  seq : Nat
  depth : Nat
  bound : Nat
  /-- The tick at which ROOT_SEQ last advanced here, and that the root has not been lost since. -/
  adv : Nat
  live : Bool
  deriving DecidableEq, Repr

/-- No beacon. -/
def Beacon.none : Beacon :=
  { valid := false, tTx := 0, rx := 0, key := 0, root := 0, seq := 0, depth := 15, bound := 0xFFFF, adv := 0, live := false }

/-- The Metronome beside its page (17 R486-R497). -/
structure Met where
  recs : Fmap Beacon
  /-- The recorded root and its key; none before one is recorded. -/
  root : Option Nat
  key : Nat
  /-- ROOT_SEQ as sent. -/
  seq : Nat
  /-- The first θ of this acquisition has not been acted on yet; successive beacons within the lock bound. -/
  first : Bool
  good : Nat
  /-- Ticks still to freeze. -/
  freeze : Nat
  /-- HOLDOVER was entered from LOCKED, and when it was entered. -/
  hoLocked : Bool
  hoTick : Nat
  /-- No usable root was heard for ROOT_LOSS periods. -/
  lost : Bool
  deriving DecidableEq, Repr

/-- The fetch of one active line of a head (18 R524). -/
structure LineJob where
  line : Nat
  /-- The line-store units it needs, and whether it holds them. -/
  units : Nat
  granted : Bool
  /-- Chip offsets of the 256-byte reads still to issue, and how many are in flight. -/
  reads : List Nat
  flying : Nat
  /-- The bytes read, by chip offset; and the offsets of the reads that came poisoned or failed. -/
  got : Fmap Byte
  bad : List Nat
  /-- The line was LATE (R526). -/
  late : Bool
  deriving DecidableEq, Repr

/-- A layer entry of a commit record, with the layer it takes: 0-7 VID, 8-23 GFX (19 Table 19.3). -/
structure LayerEntry where
  layer : Nat
  fmt : Nat
  alpha : Nat
  plane : Nat
  icscEn : Bool
  base : Nat
  stride : Nat
  sx : Nat
  sy : Nat
  sw : Nat
  sh : Nat
  dx : Nat
  dy : Nat
  dw : Nat
  dh : Nat
  icsc : List Nat
  deriving DecidableEq, Repr

/-- A commit that is FETCHING or PENDING (19 R566-R573). -/
structure Commit where
  tag : Nat
  req : Nat
  addr : Nat
  /-- The record's bytes by chip offset, the reads in flight, and a read that failed or came poisoned. -/
  got : Fmap Byte
  flying : Nat
  bad : Bool
  /-- CANCEL arrived while FETCHING (R572). -/
  cancel : Bool
  /-- The checked record: its entries from the bottom up, the layers GRANTED to it, its fences as slot, target and holder. -/
  entries : List LayerEntry
  granted : List Nat
  fences : List (Nat × Nat × Nat)
  ocsc : Option (List Nat)
  policy : Nat
  timeout : Nat
  /-- Misses counted, and the line of the frame in progress at which it became PENDING; 0 once that frame has ended (R569,
  R571). -/
  misses : Nat
  line : Nat
  deriving DecidableEq, Repr

/-- A LOAD of a protected buffer (19 R560). -/
structure ProtLoad where
  src : Nat
  dst : Nat
  left : Nat
  flying : Bool
  bad : Bool
  deriving DecidableEq, Repr

/-- An AUX transaction of the driver (18 R537). -/
structure AuxJob where
  req : Nat
  addr : Nat
  len : Nat
  tries : Nat
  deriving DecidableEq, Repr

/-- A head with its link, signature checker and commit, beside their pages (18, 19). -/
structure Head where
  jobs : List LineJob
  /-- A line of the frame in progress is LATE; one of the frame before was; an underrun and a poisoned fetch were logged in
  this frame. -/
  lateNow : Bool
  latePrev : Bool
  underNow : Bool
  poisNow : Bool
  /-- Every condition of R528 has held throughout the frame in progress; whole frames before it in which they had. -/
  held : Bool
  clean : Nat
  /-- Lines a jump adds to the frame in progress, and to the next one (R520). -/
  jump : Nat
  jumpNext : Nat
  /-- The tick of the last frame boundary. -/
  bound : Nat
  /-- Genlock: the tick of the last accepted pulse, whether the next one counts as in range, consecutive instants within the
  tolerance, and consecutive pulses out of range (R519, R521). -/
  pulse : Option Nat
  first : Bool
  lockRun : Nat
  outRun : Nat
  /-- DisplayPort: pixels are sent; the link has been VALID since the frame began; the configurations still to try; what the
  sink's DPCD allows (rate, lanes, 128b/132b, DSC); a service of an IRQ_HPD waits; RETRAIN.REQ waits; the driver's AUX job. -/
  pixels : Bool
  whole : Bool
  cfgs : List (Nat × Nat)
  caps : Nat × Nat × Bool × Bool
  irqWait : Bool
  retrain : Bool
  lastCfg : Option (Nat × Nat)
  aux : Option AuxJob
  /-- Signatures: how far each region of the frame is (0 not begun, 1 under way, 2 its last pixel is sent) with its running
  CRC, consecutive failed frames of each, whether a comparison failed in this
  frame and in the checked frame before, and whether this frame was checked (19 R575-R577). -/
  crc : List (Nat × Nat)
  misses : List Nat
  failNow : Bool
  failPrev : Bool
  load : Option ProtLoad
  commit : Option Commit
  deriving DecidableEq, Repr

/-- A head after reset. -/
def Head.fresh : Head :=
  { jobs := [], lateNow := false, latePrev := false, underNow := false, poisNow := false, held := false, clean := 0, jump := 0,
    jumpNext := 0, bound := 0, pulse := none, first := false, lockRun := 0, outRun := 0, pixels := false, whole := false,
    cfgs := [], caps := (0, 0, false, false), irqWait := false, retrain := false, lastCfg := none, aux := none, crc := [],
    misses := [], failNow := false, failPrev := false, load := none, commit := none }

/-- The blit in progress (20): the registers copied at START, lines complete, and the line being done. -/
structure Blt where
  /-- The words CTRL to OUT as copied. -/
  copy : List Nat
  lines : Nat
  /-- 0 none, 1 reading, 2 writing, 3 the signal is awaited. -/
  phase : Nat
  reads : List Nat
  writes : List (Nat × List Byte)
  flying : Nat
  got : Fmap Byte
  /-- LOP_RESULT of a failure that waits for the accesses in flight: code and detail. -/
  fail : Option (Nat × Nat)
  deriving DecidableEq, Repr

/-- No blit. -/
def Blt.none : Blt := { copy := [], lines := 0, phase := 0, reads := [], writes := [], flying := 0, got := [], fail := .none }

/-- A frame in a pipeline (21): the configuration it took at its FS, the words of ISP.CFG to ISP.OUT. -/
structure CamFrame where
  cfg : List Nat
  seq : Nat
  num : Nat
  fs : Nat
  /-- The FE stamp, or the tick of the CORRUPT mark. -/
  fe : Nat
  ended : Bool
  /-- The CORRUPT cause of R611, 0 for none. -/
  cause : Nat
  /-- The lines received, as raw codes. -/
  lines : List (List Nat)
  /-- Steps of the pipeline done: line d enters at step d. -/
  done : Nat
  /-- The rows after noise reduction, and after colour and tone (R, G, B), in units of 2^-24. -/
  nr : List (List Int)
  toned : List (List (Int × Int × Int))
  /-- Statistics: the zone sums and the histogram (R624). -/
  zones : List Nat
  hist : List Nat
  tnrReset : Bool
  embTrunc : Bool
  /-- Bytes of embedded data written. -/
  emb : Nat
  writeErr : Bool
  /-- Outputs (0 DISP, 1 CODE, 2 VIS) whose write failed. -/
  failed : List Nat
  /-- The record has been sent; its write has failed. -/
  recSent : Bool
  recBad : Bool
  deriving DecidableEq, Repr

/-- A write that a pipeline has formed and not yet sent: frame, output (3 for statistics, embedded data and record), use,
global address and bytes. -/
structure CamWrite where
  seq : Nat
  out : Nat
  use : Nat
  ga : Nat
  data : List Byte
  deriving DecidableEq, Repr

/-- A camera port and pipeline beside their pages (21). -/
structure Cam where
  /-- The frames not yet finished, oldest first; only the last can still be arriving. -/
  frames : List CamFrame
  wq : List CamWrite
  /-- Everything up to the next FS is discarded (R611). -/
  drop : Bool
  /-- The next frame is the first after a start or an APPLY; the frame before was CORRUPT (R614). -/
  fresh : Bool
  wasBad : Bool
  /-- No frame has been CORRUPT, and none with an overflow, since the last clean one (R631, R634). -/
  cleanPrev : Bool
  overPrev : Bool
  /-- The CAM_TRIG pin, and the tick of its last rise. -/
  trig : Bool
  trigAt : Nat
  /-- The owning partition is drained: nothing more issues. -/
  stop : Bool
  deriving DecidableEq, Repr

/-- A pipeline after reset. -/
def Cam.idle : Cam :=
  { frames := [], wq := [], drop := false, fresh := true, wasBad := false, cleanPrev := true, overPrev := true, trig := false,
    trigAt := 0, stop := false }

/-- A command of a host queue that has been read and has not completed (22 R649, R650). -/
structure HostCmd where
  /-- Its running number, and its sixteen words. -/
  num : Nat
  w : List Nat
  started : Bool
  /-- Bytes of the transfer asked for at the source; host reads and global accesses in flight. -/
  pos : Nat
  hreads : List Nat
  fly : Nat
  /-- Pieces that wait to be written: offset in the transfer and bytes; the bytes written in order, and writes in flight. -/
  parts : List (Nat × List Byte)
  wpos : Nat
  wfly : Nat
  /-- The STATUS of a failure, with its DETAIL where the spec gives one. -/
  bad : Option (Nat × Option Nat)
  deriving DecidableEq, Repr

/-- A command that has completed and whose entry is not yet written. -/
structure HostDone where
  num : Nat
  w : List Nat
  status : Nat
  detail : Option Nat
  deriving DecidableEq, Repr

/-- A host queue beside its page (22 R646-R651). -/
structure HostQ where
  /-- The number of the next command to read, and CQ_HEAD. -/
  read : Nat
  consumed : Nat
  /-- A RING has asked for commands, and no slot that is not valid has been met since. -/
  ringing : Bool
  /-- Commands read and not completed, in order; commands completed, in the order of completion. -/
  cmds : List HostCmd
  fin : List HostDone
  /-- A function level reset, or a drain of the partition: nothing new starts. -/
  flr : Bool
  drained : Bool
  deriving DecidableEq, Repr

/-- A host queue after reset. -/
def HostQ.fresh : HostQ :=
  { read := 0, consumed := 0, ringing := false, cmds := [], fin := [], flr := false, drained := false }

/-- A page of a host stream in a buffer: its records, the tick of the first and, once closed, its SEQ and the LOST count
(22 R656-R658). -/
structure StreamPage where
  data : List Byte
  records : Nat
  met : Nat
  seq : Option Nat
  lost : Nat
  deriving DecidableEq, Repr

/-- A host stream beside the HIF page. -/
structure HostStream where
  pages : List StreamPage
  seq : Nat
  /-- Entries of log 0 that the EVENT stream has not mirrored yet and that the ring still stores. -/
  backlog : List LogEntry
  deriving DecidableEq, Repr

/-- A stream after reset. -/
def HostStream.fresh : HostStream := { pages := [], seq := 0, backlog := [] }

/-- An access of the host through an aperture that is under way (22 R641-R643). -/
structure HostTlp where
  id : Nat
  fn : Nat
  tag : Nat
  write : Bool
  ordered : Bool
  ga : Nat
  len : Nat
  data : List Byte
  /-- Bytes asked for, pieces in flight, and the worst cause of failure so far: 0 none, 1 UR, 2 CA; data poisoned. -/
  pos : Nat
  flying : Nat
  bad : Nat
  poison : Bool
  got : List (Nat × List Byte)
  /-- Bytes wanted of the first and last word. -/
  skip : Nat
  want : Nat
  deriving DecidableEq, Repr

/-- The PCIe endpoint beside the HIF page. -/
structure HostIf where
  tlps : List HostTlp
  tlpId : Nat
  /-- Functions under function level reset. -/
  flr : List Nat
  /-- The first failure, drop and host fault since CNT_CLR were logged. -/
  apLogged : Bool
  dropLogged : Bool
  faultLogged : Bool
  deriving DecidableEq, Repr

/-- DRAIN_SCRUB beside the PART page (23). -/
structure Drain where
  /-- The named partitions, and those not yet through the drain phase. -/
  mask : List Nat
  scrubbing : Bool
  /-- Scrub units left: (granule, MiB in it), in order. -/
  units : List (Nat × Nat)
  deriving DecidableEq, Repr

/-- A member the conductor knows (16 R460, R462): its chip, key, SCALE and the SEQ of its last JOIN. -/
structure FabMember where
  chip : Nat
  key : Nat
  scale : Bool
  seq : Nat
  deriving DecidableEq, Repr

/-- A remote access the fabric manager has still to make (16 R469, R476). -/
inductive FabOp where
  /-- A write of a word, or of bytes, at a chip offset. -/
  | write (dst off w : Nat)
  | data (dst off : Nat) (bs : List Byte)
  /-- CTX_ALLOC of a slice, allocating or freeing; and the search of CTX[i] for it that follows. -/
  | alloc (dst slice : Nat) (free : Bool)
  | scan (dst slice i : Nat) (free : Bool)
  /-- A read of LXn.PARTNER of port p. -/
  | partner (dst p : Nat)
  deriving DecidableEq, Repr

/-- A traverse control datagram (16 R472-R474): sent, the tries so far, its entries as port a, port b and connect, and
whether it is a recircuit and not of the running changeover. -/
structure FabDgram where
  sw : Nat
  seq : Nat
  sent : Bool
  tries : Nat
  entries : List (Nat × Nat × Bool)
  recirc : Bool
  deriving DecidableEq, Repr

/-- The fabric manager beside the FAB page (16). -/
structure Fab where
  /-- One more than the best key known, 0 for none; the key of the recorded conductor. -/
  best : Nat
  condKey : Nat
  /-- Per sender, the TERM and one more than the SEQ of the newest flooded message. -/
  seen : Fmap (Nat × Nat)
  joined : List FabMember
  /-- The section leaders, as group and chip. -/
  leaders : List (Nat × Nat)
  queue : List FabReq
  run : Option FabRun
  record : List FabAlloc
  /-- The circuits, where they are not the standard set. -/
  circuits : Option (List (Nat × Nat × Nat))
  /-- The deputy's copy (R463). -/
  mirror : Option FabMirror
  /-- Ports reported down, as chip and port; chips that routes avoid; chips whose REST, or its end, waits for the recompute. -/
  down : List (Nat × Nat)
  avoid : List Nat
  restWait : List Nat
  endWait : List Nat
  /-- A recompute of the routes is due. -/
  recompute : Bool
  /-- Remote accesses to make, those in flight by number, and the number of the next. -/
  pend : List FabOp
  fly : List (Nat × FabOp)
  opNum : Nat
  dgrams : List FabDgram
  swSeq : Nat
  /-- Messages of this chip to itself, not yet handled. -/
  mail : List FabBody
  /-- REST requests (1) and ends (2) not yet sent to the conductor. -/
  out : List Nat
  /-- The mailbox request that no conductor has been sent yet. -/
  mbx : Option FabReq
  /-- Orders to drain: the partitions of each that are not yet FREE. Ports under an order to retrain. -/
  drains : List (List Nat)
  retr : List Nat
  /-- As section leader: the contexts of the group, as slice, chip and context; reports of step 6 due. -/
  tables : List (Nat × Nat × Nat)
  tablesDue : Nat
  deriving DecidableEq, Repr

/-- The fabric manager in role IDLE. -/
def Fab.idle : Fab :=
  { best := 0, condKey := 0, seen := [], joined := [], leaders := [], queue := [], run := none, record := [],
    circuits := none, mirror := none, down := [], avoid := [], restWait := [], endWait := [], recompute := false, pend := [],
    fly := [], opNum := 0, dgrams := [], swSeq := 0, mail := [], out := [], mbx := none, drains := [], retr := [],
    tables := [], tablesDue := 0 }

/-- What the chip sends out and the model records, oldest first (log 6). -/
inductive Output where
  /-- The word an SMBus Block Read returns; none for a NAK (R748). -/
  | smb (w : Option Nat)
  /-- The register shifted out of the IEEE 1149.1 port (R749). -/
  | jtag (w : Nat)
  /-- A voltage request on AVSBus: rail and millivolts (R192). -/
  | avs (rail mv : Nat)
  /-- An MSI-X message of a function's vector. -/
  | msix (fn vec : Nat)
  /-- A codeword a port sends. -/
  | codeword (g : Nat) (c : Codeword)
  /-- The body of a fabric message sent to a chip (0x1FFF: flooded), by its SEQ. -/
  | fab (seq dst : Nat) (b : FabBody)
  /-- A packet of the link agent of a port, sent before the port is ACTIVE. -/
  | agent (g : Nat) (p : Packet)
  /-- The pixels a head's link sends for an active line, as three components each (18 R532). -/
  | video (n line : Nat) (px : List (Nat × Nat × Nat))
  /-- An AUX transaction of the driver: request, address, length and data (18 R537). -/
  | aux (n req addr len : Nat) (data : List Byte)
  /-- Bytes written to host memory (22 R650, R657). -/
  | hostWrite (fn addr : Nat) (data : List Byte)
  /-- A read of host memory (22 R648, R649). -/
  | hostRead (fn addr len : Nat)
  /-- The completion of a read or a configuration request: 0 successful, 1 UR, 2 CA, and whether its EP bit is set (22
  R643). -/
  | completion (fn tag status : Nat) (ep : Bool) (data : List Byte)
  /-- A correctable or uncorrectable error reported by AER: 0 Unsupported Request, 1 Poisoned TLP Received (22 R641). -/
  | aer (fn code : Nat)
  /-- The PCIe link is directed to Recovery for a higher speed (22 R637). -/
  | pcieRecovery (speed : Nat)
  /-- A traverse control datagram (16 Table 16.8a). -/
  | datagram (sw seq term : Nat) (entries : List (Nat × Nat × Bool))
  deriving DecidableEq, Repr

/-- The state of the PN4. -/
structure State where
  /-- The commands that wait, first in, first out. -/
  pending : List Instr
  /-- The register words, by window offset. -/
  regs : Fmap Word
  /-- How many free values have been taken (the model's own). -/
  freeCtr : Nat
  /-- The Metronome count (17 R486). -/
  met : Nat
  /-- The fuses of the die. -/
  fuses : Fuses
  /-- Pins, reset and boot. -/
  chip : Chip
  /-- The event buffers and logs. -/
  evl : Evl
  /-- The arguments of each page's long operation, copied at START (03 R94). -/
  lopArgs : Fmap (List Nat)
  /-- Packets on the Rink: issued, not yet delivered and not yet in an egress queue (12). -/
  rink : List Packet
  /-- The egress queues: packets of port g and class c at key 8 g + c, oldest first (14 R398). -/
  egress : Fmap (List Packet)
  /-- The downbeat source, MSI-X, and the ladder. -/
  snp : Snp
  msi : Msi
  pwr : Pwr
  /-- Ticks of 1 ns since the boot reference (the model's own; unlike the Metronome it is never stepped). -/
  ticks : Nat
  /-- `ticks` at DONE. -/
  doneTicks : Nat
  /-- The bytes of HBM, by chip offset (11 R312-R314); an unlisted byte reads 0 (log 2). -/
  hbm : Fmap Byte
  /-- The poison markers of HBM, by 32-byte code word of the chip offset (11 R319). -/
  poison : Fmap Bool
  /-- The bytes of the two flash devices, device n at n × 64 MiB; an unlisted byte reads 0xFF (log 2). -/
  flash : Fmap Byte
  /-- The devices fitted. -/
  devs : List FlashDev
  /-- The cabling plan in force. -/
  plan : Option Plan
  bootOps : BootOps
  jtag : Jtag
  /-- The requests tracked by every endpoint (12 R354). -/
  outst : List Track
  /-- The partition each HBM granule is assigned to; an unlisted granule is the management domain's (23 R671). -/
  granOwner : Fmap Nat
  /-- The bytes of tile SRAM: tile t at t × 0x4_0000; an unlisted byte reads 0 (log 2). -/
  sram : Fmap Byte
  /-- SRAM words with an error, by 8-byte word: 1 single-bit, 2 uncorrectable (07 R210). -/
  sramErr : Fmap Nat
  /-- The tiles (07 R204). -/
  tiles : Fmap Tile
  /-- HBM code words with an error not yet found, by chip offset / 32: 1 correctable, 2 uncorrectable (11 R319, R337). -/
  hbmErr : Fmap Nat
  /-- HBM blocks whose unwritten bytes are unspecified: one more than the number of their first free value (11 R315). -/
  hbmFree : Fmap Nat
  /-- The memory controllers (11 R312-R340). -/
  mcus : Fmap Mcu
  /-- The ports, by global number (13, 14). -/
  ports : Fmap Port
  /-- Packets that found their egress queue full and wait at the attach point, by 8 g + c (14 R399). -/
  stall : Fmap (List Packet)
  /-- Which of PRIMARY and SECOND the ROTATE spread takes next, by table word and class (15 R436): true is SECOND. -/
  rotate : Fmap Bool
  /-- The Metronome's synchronisation. -/
  sync : Met
  /-- The parent port: where the first copy of the latest conductor BEAT arrived (16 R456). -/
  parent : Option Nat
  /-- One more than the port on which each chip's latest JOIN arrived (16 R456). -/
  joinPort : Fmap Nat
  /-- SEQ of the last fabric message this chip originated (16 R454). -/
  fabSeq : Nat
  /-- The heads (18, 19). -/
  heads : Fmap Head
  /-- The protected buffers: head n at n × 4 MiB; an unlisted byte reads 0. -/
  prot : Fmap Byte
  /-- The head granted last at the fetch arbiter of the line store (R43, R524). -/
  lsLast : Nat
  /-- The blit in progress (20). -/
  blt : Blt
  /-- The camera ports and pipelines (21). -/
  cams : Fmap Cam
  /-- The host queues, and the host streams (22 R646-R658). -/
  hqs : Fmap HostQ
  streams : Fmap HostStream
  /-- The PCIe endpoint, DRAIN_SCRUB, and the fabric manager. -/
  host : HostIf
  drain : Drain
  fab : Fab
  /-- What the chip has sent out. -/
  outbox : List Output
  deriving DecidableEq, Repr

/-- The state right after the cold reset is entered, before PWR_OK has risen. -/
def State.reset : State where
  pending := []
  regs := []
  freeCtr := 0
  met := 0
  fuses := { badTiles := [], svn := 0, serial := 0, mac := 0, fwKeys := [], licKeys := [] }
  chip := { pwrOk := false, resetN := true, perstN := false, testEn := false, loc := 0, supplyLow := false, inReset := true,
            sources := [], wdogOn := false, booting := false, fast := false, retention := none, lastFatal := false,
            fastEnAtReset := false, fp := [], fpPublished := false, seqLoad := [], topoFinal := false, bistBatch := [], bistUnits := 0, bistSkips := 0,
            ethErrSeen := false, refSys := true, refLnk := true, refPcie := true }
  evl := { pend := [], log0 := [], log1 := [], pos0 := 0, pos1 := 0, lost0 := false, lost1 := false, wrapped0 := false, lastPage := 0xFFF }
  lopArgs := []
  rink := []
  egress := []
  snp := { pend := [], lastLatch := none, seen := [], armed := none, seqOut := 0, pinOut := false, excessLogged := false }
  msi := { enabled := [], fmask := [], opened := [], busy := [], coal := [], pba := [] }
  pwr := { entering := none, draining := false, exiting := none, aborted := false, wakeExit := false, exitFrom := 0,
           heldUp := false, moveStart := 0, oppTarget := none, oppSlow := 0, naks := 0, restEnding := false,
           restWithdrawn := false, warnOff := false, hbmWarnOff := [], tripped := false, overEpisode := false,
           hbmLost := false, linksLost := false }
  ticks := 0
  doneTicks := 0
  hbm := []
  poison := []
  flash := []
  devs := [{ present := true, mfr := 0, sizeLog2 := 26, usable := true }, { present := true, mfr := 0, sizeLog2 := 26, usable := true }]
  plan := none
  bootOps := { image := [], svn := 0, newRec := none, copies := 0, latch := [], licBuf := [], verdict := 0 }
  jtag := { sel := 0, chain := 0, driving := false }
  outst := []
  granOwner := []
  sram := []
  sramErr := []
  tiles := []
  hbmErr := []
  hbmFree := []
  mcus := []
  ports := []
  stall := []
  rotate := []
  sync := { recs := [], root := none, key := 0, seq := 0, first := false, good := 0, freeze := 0, hoLocked := false, hoTick := 0, lost := false }
  parent := none
  joinPort := []
  fabSeq := 0
  heads := []
  prot := []
  lsLast := 3
  blt := Blt.none
  cams := []
  hqs := []
  streams := []
  host := { tlps := [], tlpId := 0, flr := [], apLogged := false, dropLogged := false, faultLogged := false }
  drain := { mask := [], scrubbing := false, units := [] }
  fab := Fab.idle
  outbox := []

end Sys2Proof.Machine
end

