-- ==== Sys2Proof/Machine/Pages.lean ====
section
/-! DEFINITION. The page directory (Table 3.1), and reading and writing the fields of pages. -/
namespace Sys2Proof.Machine
open Sys2Proof

/-- The page types of Table 3.1. -/
inductive PageKind where
  | chip | boot | flash | lic | pwr | pace | pvt | met | snp | err | evl | part | mgc | hif | hq | mcu | memq | lx | tsp
  | rte | fab | dh | dptx | vid | gfx | prot | sig | cmt | blt | csi | isp | tile
  deriving DecidableEq, Repr

/-- Window offsets of the single pages and of the first page of each group (Table 3.1). -/
def pgCHIP : Nat := 0x0000
def pgBOOT : Nat := 0x1000
def pgFLASH : Nat := 0x2000
def pgLIC : Nat := 0x3000
def pgPWR : Nat := 0x4000
def pgPACE : Nat := 0x5000
def pgPVT : Nat := 0x6000
def pgMET : Nat := 0x7000
def pgSNP : Nat := 0x8000
def pgERR : Nat := 0x9000
def pgEVL : Nat := 0xA000
def pgPART : Nat := 0xB000
def pgMGC : Nat := 0xC000
def pgHIF : Nat := 0xD000
def pgHQ (n : Nat) : Nat := 0xE000 + n * 0x1000
def pgMCU (n : Nat) : Nat := 0x10000 + n * 0x1000
def pgMEMQ : Nat := 0x18000
def pgLX (n : Nat) : Nat := 0x20000 + n * 0x1000
def pgTSP (n : Nat) : Nat := 0x28000 + n * 0x1000
def pgRTE : Nat := 0x2E000
def pgFAB : Nat := 0x2F000
def pgDH (n : Nat) : Nat := 0x30000 + n * 0x1000
def pgDPTX (n : Nat) : Nat := 0x34000 + n * 0x1000
def pgVID (n : Nat) : Nat := 0x38000 + n * 0x1000
def pgGFX (n : Nat) : Nat := 0x40000 + n * 0x1000
def pgPROT (n : Nat) : Nat := 0x50000 + n * 0x1000
def pgSIG (n : Nat) : Nat := 0x54000 + n * 0x1000
def pgCMT : Nat := 0x58000
def pgBLT : Nat := 0x59000
def pgCSI (n : Nat) : Nat := 0x60000 + n * 0x1000
def pgISP (n : Nat) : Nat := 0x64000 + n * 0x1000
def pgTILE (t : Nat) : Nat := 0x400000 + t * 0x1000

/-- The page at a window offset, and its instance (Table 3.1); none in an unmapped range and in the routing window. -/
def pageOf (a : Nat) : Option (PageKind × Nat) :=
  let n := a / 0x1000
  if n < 0x10 then
    match n with
    | 0 => some (.chip, 0) | 1 => some (.boot, 0) | 2 => some (.flash, 0) | 3 => some (.lic, 0) | 4 => some (.pwr, 0)
    | 5 => some (.pace, 0) | 6 => some (.pvt, 0) | 7 => some (.met, 0) | 8 => some (.snp, 0) | 9 => some (.err, 0)
    | 10 => some (.evl, 0) | 11 => some (.part, 0) | 12 => some (.mgc, 0) | 13 => some (.hif, 0) | 14 => some (.hq, 0)
    | _ => some (.hq, 1)
  else if n < 0x18 then some (.mcu, n - 0x10)
  else if n = 0x18 then some (.memq, 0)
  else if n < 0x20 then none
  else if n < 0x26 then some (.lx, n - 0x20)
  else if n < 0x28 then none
  else if n < 0x2E then some (.tsp, n - 0x28)
  else if n = 0x2E then some (.rte, 0)
  else if n = 0x2F then some (.fab, 0)
  else if n < 0x34 then some (.dh, n - 0x30)
  else if n < 0x38 then some (.dptx, n - 0x34)
  else if n < 0x40 then some (.vid, n - 0x38)
  else if n < 0x50 then some (.gfx, n - 0x40)
  else if n < 0x54 then some (.prot, n - 0x50)
  else if n < 0x58 then some (.sig, n - 0x54)
  else if n = 0x58 then some (.cmt, 0)
  else if n = 0x59 then some (.blt, 0)
  else if n < 0x60 then none
  else if n < 0x64 then some (.csi, n - 0x60)
  else if n < 0x68 then some (.isp, n - 0x64)
  else if n < 0x400 then none
  else if n < 0xE00 then some (.tile, n - 0x400)
  else none

/-- The block type code of PAGE_ID (Table 3.1). -/
def blockType (k : PageKind) (n : Nat) : Nat :=
  match k with
  | .chip => 0x1 | .boot => 0x2 | .flash => 0x3 | .lic => 0x4 | .pwr => 0x5 | .pace => 0x6 | .pvt => 0x7 | .met => 0x8
  | .snp => 0x9 | .err => 0xA | .evl => 0xB | .part => 0xC | .mgc => 0xD | .hif => 0xE | .hq => 0xF | .mcu => 0x10
  | .memq => 0x11 | .lx => 0x20 | .tsp => 0x21 | .rte => 0x22 | .fab => 0x23 | .dh => 0x30 | .dptx => 0x31 | .vid => 0x32
  | .gfx => 0x33 | .prot => 0x34 | .sig => 0x35 | .cmt => 0x36 | .blt => 0x37 | .csi => 0x40 | .isp => 0x41
  | .tile => 0x1000 + n / 64

/-- The event family of a page (Table 3.1). -/
def familyOf (k : PageKind) : Nat :=
  match k with
  | .chip | .err | .evl | .mgc => 0
  | .boot | .flash | .lic => 1
  | .pwr | .pace | .pvt => 2
  | .tile => 3
  | .mcu | .memq => 4
  | .lx | .tsp => 5
  | .rte | .fab => 6
  | .met | .snp => 7
  | .dh | .dptx | .vid | .gfx | .prot | .sig | .cmt => 8
  | .blt => 9
  | .csi | .isp => 0xA
  | .hif | .hq => 0xB
  | .part => 0xC

/-- Whether the page has an expert region (Table 3.1; R545 for DPTX). -/
def hasExpert (k : PageKind) : Bool :=
  match k with
  | .pwr | .mcu | .memq | .lx | .tsp | .rte | .dh | .dptx | .sig | .cmt | .isp | .tile => true
  | _ => false

/-- Whether the page has a long-operation window (Table 3.1). -/
def hasLop (k : PageKind) : Bool :=
  match k with
  | .chip | .boot | .flash | .lic | .part | .mcu | .lx | .blt => true
  | _ => false

/-- PAGE_CTRL.ENABLE after reset (R79). -/
def enableReset (k : PageKind) : Bool :=
  match k with
  | .chip | .boot | .flash | .lic | .pwr | .pace | .pvt | .met | .snp | .err | .evl | .part | .mgc | .hif | .hq | .fab => true
  | _ => false

/-- Whether SHARED_READ resets to and stays 1 (R91). -/
def sharedFixed (k : PageKind) : Bool :=
  match k with
  | .chip | .pace | .pvt | .met | .snp => true
  | _ => false

/-- Whether OWNER is fixed at the management domain (R91). -/
def ownerFixed (k : PageKind) : Bool :=
  match k with
  | .boot | .flash | .lic | .pwr | .mgc | .mcu | .memq | .lx | .tsp | .rte | .fab | .hif | .hq | .part | .cmt | .prot | .sig => true
  | _ => false

/-- The fields of the block's own regions. -/
def blockFields (k : PageKind) : List Fld :=
  match k with
  | .chip => fieldsCHIP | .boot => fieldsBOOT | .flash => fieldsFLASH | .lic => fieldsLIC | .pwr => fieldsPWR
  | .pace => fieldsPACE | .pvt => fieldsPVT | .met => fieldsMET | .snp => fieldsSNP | .err => fieldsERR | .evl => fieldsEVL
  | .part => fieldsPART | .mgc => fieldsMGC | .hif => fieldsHIF | .hq => fieldsHQ | .mcu => fieldsMCU | .memq => fieldsMEMQ
  | .lx => fieldsLX | .tsp => fieldsTSP | .rte => fieldsRTE | .fab => fieldsFAB | .dh => fieldsDH | .dptx => fieldsDPTX
  | .vid => fieldsLAYER | .gfx => fieldsLAYER | .prot => fieldsPROT | .sig => fieldsSIG | .cmt => fieldsCMT | .blt => fieldsBLT
  | .csi => fieldsCSI | .isp => fieldsISP | .tile => fieldsTILE

/-- The fields that may lie at a page offset: header, long-operation window, ownership area or the block's own. -/
def fieldsAt (k : PageKind) (off : Nat) : List Fld :=
  if off < 0x40 then fieldsHDR
  else if off < 0x60 then (if hasLop k then fieldsLOP else [])
  else if 0xF00 ≤ off then fieldsOWN
  else blockFields k

/-- The first element of a field array in the word at a page offset, with its block, when the field lies there. -/
def fldHit (f : Fld) (off : Nat) : Option (Nat × Nat) :=
  if off < f.off then none
  else
    let d := off - f.off
    let b := if f.bst = 0 then 0 else d / f.bst
    let d' := d - b * f.bst
    if f.bcnt ≤ b then none
    else if f.st = 0 then (if d' = 0 then some (0, b) else none)
    else if d' % f.st = 0 && decide (d' / f.st * f.per < f.cnt) then some (d' / f.st * f.per, b) else none

/-- A word with the reset values of a field's elements put in. -/
def putReset (f : Fld) (i0 : Nat) (w : Nat) : Nat :=
  (List.range f.per).foldl (fun w j => if i0 + j < f.cnt then putBits w (fldBit f (i0 + j)) f.wid f.reset else w) w

/-- The word of the field tables at an offset after reset. -/
def tableReset (fs : List Fld) (off : Nat) : Nat :=
  fs.foldl (fun w f => match fldHit f off with | none => w | some (i0, _) => putReset f i0 w) 0

/-- Element i of an identity colour matrix: nine coefficients, 1 being 0x1000 on the diagonal, then three offsets of 0
(R556). -/
def identityElem (i : Nat) : Nat := if i = 0 || i = 4 || i = 8 then 0x1000 else 0

/-- The word of two elements of an identity colour matrix. -/
def identityWord (k : Nat) : Nat := identityElem (2 * k) + identityElem (2 * k + 1) * 0x10000

/-- TONE[0]-[64] of BT.709, in units of 1/65,535 (21 R633). -/
def toneBT709 : List Nat :=
  [0, 4608, 8653, 11684, 14195, 16380, 18335, 20118, 21766, 23304, 24751, 26119, 27422, 28665, 29857, 31003,
   32108, 33176, 34209, 35211, 36185, 37132, 38055, 38955, 39834, 40693, 41533, 42355, 43161, 43951, 44727, 45488,
   46236, 46971, 47694, 48405, 49106, 49795, 50475, 51145, 51805, 52456, 53099, 53733, 54360, 54978, 55589, 56193,
   56789, 57379, 57963, 58539, 59110, 59675, 60234, 60787, 61335, 61877, 62414, 62946, 63473, 63996, 64513, 65026,
   65535]

/-- Word k of the tone curve. -/
def toneWord (l : List Nat) (k : Nat) : Nat := l.getD (2 * k) 0 + l.getD (2 * k + 1) 0 * 0x10000

/-- The reset values that depend on the instance, are derived from other fields (R379, Table 14.6) or are given per
element. -/
def specialReset (k : PageKind) (n off w : Nat) : Nat :=
  if off = 0 then 0x01 + (match k with | .tile => n % 64 | _ => n) * 0x100 + blockType k n * 0x10000
  else if off = 8 then w + b2n (enableReset k)
  else if off = 0xC then w + b2n (enableReset k) + 2 * b2n (!enableReset k)
  else if off = 0xF00 then w + 0x100 * b2n (sharedFixed k)
  else
    match k with
    | .pwr =>
      if off = 0x400 then 650 else if off = 0x404 then 720 else if off = 0x408 then 800 else if off = 0x40C then 850 else w
    | .isp =>
      if 0x140 ≤ off && decide (off < 0x158) then identityWord ((off - 0x140) / 4)
      else if off = 0x400 then 64 + 32 * 2 ^ 8 + 1024 * 2 ^ 16
      else if off = 0x404 then 96 + 2048 * 2 ^ 16
      else if 0x410 ≤ off && decide (off < 0x494) then toneWord toneBT709 ((off - 0x410) / 4)
      else if 0x4A0 ≤ off && decide (off < 0x4B8) then identityWord ((off - 0x4A0) / 4)
      else if 0x4C0 ≤ off && decide (off < 0x4D8) then identityWord ((off - 0x4C0) / 4)
      else w
    | .lx =>
      if 0x400 ≤ off && decide (off < 0x500) then
        match off % 0x40 with
        | 0 => 6784 + 256 * 2 ^ 16 | 4 => 256 + 256 * 2 ^ 16 | 8 => 256 + 256 * 2 ^ 16 | 0xC => 64 + 64 * 2 ^ 16 | _ => w
      else w
    | .tsp =>
      if 0x400 ≤ off && decide (off < 0x500) then
        match off % 0x40 with
        | 0x30 => 78 + 74 * 2 ^ 16 | 0x34 => 74 + 74 * 2 ^ 16 | 0x38 => 74 + 74 * 2 ^ 16 | 0x3C => 16 + 16 * 2 ^ 16 | _ => w
      else w
    | .cmt => if 0x340 ≤ off && decide (off < 0x3A0) then identityWord ((off - 0x340) / 4 % 6) else w
    | _ => w

/-- The base of function block f in the model's register space: the function blocks lie outside the chip offset map
(R645), and the model keeps them beyond the window. -/
def pgFN (f : Nat) : Nat := 0x1000000 + f * 0x1000

/-- The model keeps the value in force of a staged register this far above the register (R556, R585). -/
def inForce : Nat := 0x2000000

/-- What a register word reads as after reset. -/
def wordReset (a0 : Nat) : Word :=
  let a := if inForce ≤ a0 then a0 - inForce else a0
  if 0x1000000 ≤ a then
    (if a % 0x1000 = 0 then BitVec.ofNat 32 ((a - 0x1000000) / 0x1000 + (if a = 0x1000000 then 0x7F00 else 0))
     else BitVec.ofNat 32 (tableReset fieldsFN (a % 0x1000)))
  else
    match pageOf a with
    | none => 0
    | some (k, n) => BitVec.ofNat 32 (specialReset k n (a % 0x1000) (tableReset (fieldsAt k (a % 0x1000)) (a % 0x1000)))

/-- The register word at a window offset. -/
def State.word (s : State) (a : Nat) : Word := fget wordReset s.regs a

/-- The state with a register word replaced. -/
def State.setWord (s : State) (a : Nat) (w : Word) : State := { s with regs := fset wordReset s.regs a w }

/-- Element i of block b of a field of the page at `pg`. -/
def State.rd (s : State) (pg : Nat) (f : Fld) (i : Nat := 0) (b : Nat := 0) : Nat :=
  getBits (s.word (pg + fldOff f i b)).toNat (fldBit f i) f.wid

/-- The state with that element replaced. -/
def State.wr (s : State) (pg : Nat) (f : Fld) (v : Nat) (i : Nat := 0) (b : Nat := 0) : State :=
  s.setWord (pg + fldOff f i b)
    (BitVec.ofNat 32 (putBits (s.word (pg + fldOff f i b)).toNat (fldBit f i) f.wid v))

/-- A one-bit field as a truth value. -/
def State.flag (s : State) (pg : Nat) (f : Fld) (i : Nat := 0) (b : Nat := 0) : Bool := s.rd pg f i b == 1

/-- The state with a counter raised by n, saturating at its largest value (R698). -/
def State.bump (s : State) (pg : Nat) (f : Fld) (n : Nat := 1) (i : Nat := 0) (b : Nat := 0) : State :=
  s.wr pg f (satAt f.wid (s.rd pg f i b + n)) i b

/-- The state with a sequence number raised by one, modulo its width. -/
def State.inc (s : State) (pg : Nat) (f : Fld) (i : Nat := 0) (b : Nat := 0) : State :=
  s.wr pg f (s.rd pg f i b + 1) i b

/-- A 64-bit value in two registers. -/
def State.rd64 (s : State) (pg : Nat) (lo hi : Fld) (i : Nat := 0) (b : Nat := 0) : Nat :=
  s.rd pg lo i b + s.rd pg hi i b * 2 ^ 32

/-- The state with a 64-bit value written to two registers. -/
def State.wr64 (s : State) (pg : Nat) (lo hi : Fld) (v : Nat) (i : Nat := 0) (b : Nat := 0) : State :=
  (s.wr pg lo v i b).wr pg hi (v / 2 ^ 32) i b

/-- The state with a list of words zeroed. -/
def State.zeroWords (s : State) (as : List Nat) : State := as.foldl (fun s a => s.setWord a 0) s

/-- The free value of a number of bits, and the state with the counter moved on (log 3). -/
def State.free (s : State) (wid : Nat) : Nat × State :=
  (Sys2Proof.Config.freeNat s.freeCtr % 2 ^ wid, { s with freeCtr := s.freeCtr + 1 })

/-- A free choice, and the state with the counter moved on (log 3). -/
def State.choose (s : State) : Bool × State :=
  (Sys2Proof.Config.freeBool s.freeCtr, { s with freeCtr := s.freeCtr + 1 })

/-- The chip serves commands: it is out of reset. -/
def live (s : State) (f : State → State) : Host.Outcome State Fault Refusal :=
  if s.chip.inReset then .next s else .next (f s)

/-- DONE of the boot (R119). -/
def State.done (s : State) : Bool := s.flag pgCHIP F.CHIP_BOOT_STATUS_DONE

/-- HALTED (R120). -/
def State.halted (s : State) : Bool := s.flag pgCHIP F.CHIP_BOOT_STATUS_HALTED

/-- The chip's own number (R130). -/
def State.chipNum (s : State) : Nat := s.rd pgCHIP F.CHIP_CHIP_NUM_NUM

/-- PAGE_CAPS.AVAILABLE of a page. -/
def State.avail (s : State) (pg : Nat) : Bool := s.flag pg F.HDR_PAGE_CAPS_AVAILABLE

/-- A page takes new work: ENABLE = 1 and QUIESCE = 0 (R80, R96). -/
def State.running (s : State) (pg : Nat) : Bool :=
  s.flag pg F.HDR_PAGE_CTRL_ENABLE && !s.flag pg F.HDR_PAGE_CTRL_QUIESCE

/-- The owner of a page. -/
def State.owner (s : State) (pg : Nat) : Nat := s.rd pg F.OWN_PAGE_OWNER_OWNER

end Sys2Proof.Machine
end

