-- ==== Sys2Proof/Machine/Irq.lean ====
section
/-! DEFINITION. Interrupts (R83-R85, R652-R655). -/
namespace Sys2Proof.Machine
open Sys2Proof

/-- The number of MSI-X vectors of a function (Table 22.1). -/
def vectorsOf (fn : Nat) : Nat := if fn = 0 then 256 else 56

/-- A vector may send: MSI-X is enabled at its function, which is not masked, and neither is the vector (R655). -/
def msixOpen (s : State) (fn v : Nat) : Bool :=
  s.msi.enabled.contains fn && !s.msi.fmask.contains fn && s.msi.opened.contains (fn * 256 + v)

/-- Sends a message of a vector, at once or when its MOD interval ends, or keeps it in the PBA while masked (R655); a
vector beyond the function's table is counted in AP_FAULTS (R652), and with the link down there is no message (R659). -/
def msixRaise (fn v : Nat) (s : State) : State :=
  let id := fn * 256 + v
  if vectorsOf fn ≤ v then s.bump (pgFN fn) F.FN_FN_COUNTS_AP_FAULTS
  else if !s.flag pgHIF F.HIF_LINK_STATUS_DL_ACTIVE then s
  else if s.msi.busy.contains id then { s with msi := { s.msi with coal := id :: s.msi.coal.erase id } }
  else if !msixOpen s fn v then { s with msi := { s.msi with pba := id :: s.msi.pba.erase id } }
  else
    let s := { s with outbox := s.outbox ++ [Output.msix fn v] }
    if s.rd (pgFN fn) F.FN_MOD_US v = 0 then s else { s with msi := { s.msi with busy := id :: s.msi.busy } }

/-- Vectors of a function that became open send what their PBA bit holds. -/
def msixFlush (fn : Nat) (s : State) : State :=
  let l := s.msi.pba.filter fun id => id / 256 = fn && msixOpen s fn (id % 256)
  l.foldl (fun s id => msixRaise fn (id % 256) { s with msi := { s.msi with pba := s.msi.pba.erase id } }) s

/-- The VF bound to a partition, as a function number (R638, R672). -/
def vfOf (s : State) (p : Nat) : Option Nat :=
  if s.flag pgPART F.PART_P_STATE_VF_VALID p then some (s.rd pgPART F.PART_P_STATE_VF p + 1) else none

/-- IRQ_PENDING: IRQ_RAW AND IRQ_ENABLE (Table 3.3). -/
def irqPending (s : State) (pg : Nat) : Word := s.word (pg + 0x10) &&& s.word (pg + 0x14)

/-- Raises the vector of a page's family at its owner's function (R652). -/
def pageVector (pg : Nat) (s : State) : State :=
  match pageOf pg with
  | none => s
  | some (k, _) =>
    let o := s.owner pg
    if o = mgmt then (if s.flag pgHIF F.HIF_IRQ_CTRL_PF_MGMT then msixRaise 0 (familyOf k) s else s)
    else
      match vfOf s o with
      | none => s
      | some fn => msixRaise fn (familyOf k) s

/-- Sets bits of IRQ_RAW (R83), and raises the page's vector when IRQ_PENDING goes from 0 to non-zero (R653). -/
def irqSet (pg : Nat) (bits : Word) (s : State) : State :=
  let before := irqPending s pg
  let s := s.setWord (pg + 0x10) (s.word (pg + 0x10) ||| bits)
  if before = 0 && !decide (irqPending s pg = 0) then pageVector pg s else s

/-- A block event sets its bit of IRQ_RAW. -/
def irq (pg bit : Nat) (s : State) : State := irqSet pg (BitVec.ofNat 32 (2 ^ bit)) s

end Sys2Proof.Machine
end

