-- ==== Sys2Proof/Machine/Queue.lean ====
section
/-! DEFINITION. The egress queues of a port (14 R398, R399), its shapers and policers as time passes (R403, R406). -/
namespace Sys2Proof.Machine
open Sys2Proof

/-- A port of the chip by its number p = link × 4 + port: its state in Table 13.6. -/
def portState (s : State) (g : Nat) : Nat := s.rd (pgLX (g / 4)) F.LX_PSTATUS_STATE 0 (g % 4)

/-- What the state holds of a port. -/
def State.port (s : State) (g : Nat) : Port := fget (fun _ => Port.fresh) s.ports g

/-- The state with a port replaced. -/
def State.setPort (s : State) (g : Nat) (p : Port) : State := { s with ports := fset (fun _ => Port.fresh) s.ports g p }

/-- The state with a port changed. -/
def State.modPort (s : State) (g : Nat) (f : Port → Port) : State := s.setPort g (f (s.port g))

/-- The class queue of a port, oldest packet first. -/
def classQueue (s : State) (g c : Nat) : List Packet := fget (fun _ => []) s.egress (8 * g + c)

/-- Packets queued at a port. -/
def queueTotal (s : State) (g : Nat) : Nat := (List.range 8).foldl (fun n c => n + (classQueue s g c).length) 0

/-- QOCC and QMAX follow the occupancy. -/
def syncOcc (g : Nat) (s : State) : State :=
  let n := queueTotal s g
  let s := s.wr (pgTSP (g / 4)) F.TSP_QOCC_PACKETS n 0 (g % 4)
  s.wr (pgTSP (g / 4)) F.TSP_QMAX_PACKETS (max n (s.rd (pgTSP (g / 4)) F.TSP_QMAX_PACKETS 0 (g % 4))) 0 (g % 4)

/-- A response packet (Table 12.2). -/
def isResponse (p : Packet) : Bool := decide (0x20 ≤ p.op) && decide (p.op ≤ 0x2F)

/-- QDEPTH of a class of a port. -/
def qDepth (s : State) (g c : Nat) : Nat := s.rd (pgTSP (g / 4)) F.TSP_QDEPTH_TC c (g % 4)

/-- The class queue has a slot for a packet; the last RESP_RSV slots are for responses (R398). -/
def hasRoom (s : State) (g : Nat) (p : Packet) : Bool :=
  decide ((classQueue s g p.tc).length
    < qDepth s g p.tc - (if isResponse p then 0 else s.rd (pgTSP (g / 4)) F.TSP_QCFG_RESP_RSV))

/-- The TSP page is enabled: shapers, weights and policers act (R409). -/
def tspOn (s : State) (g : Nat) : Bool := s.flag (pgTSP (g / 4)) F.HDR_PAGE_CTRL_ENABLE

/-- A shaper's credit after n ticks: it rises at RATE while the queue holds packets, up to CAP; while the queue is empty it
rises only to 0 (R403). -/
def shaperAfter (s : State) (g c : Nat) (k : Int) (n : Nat) : Int :=
  let k' := k + (n * s.rd (pgTSP (g / 4)) F.TSP_SRATE_RATE c (g % 4) : Nat)
  if (classQueue s g c).isEmpty then (if k < 0 then min 0 k' else k)
  else min k' (s.rd (pgTSP (g / 4)) F.TSP_SCAP_CAP c (g % 4) * 16000 : Nat)

/-- A policer's tokens after n ticks (R406). -/
def tokensAfter (s : State) (g i t n : Nat) : Nat :=
  min (t + n * s.rd (pgTSP (g / 4)) F.TSP_POL_RATE_RATE (8 * (g % 4) + i))
    (s.rd (pgTSP (g / 4)) F.TSP_POL_RATE_BURST (8 * (g % 4) + i) * 16000)

/-- Brings the shapers and policers of a port to the present tick; a port that is not ACTIVE keeps its shaper credits. -/
def tspAdvance (g : Nat) (s : State) : State :=
  let p := s.port g
  let n := s.ticks - p.shAt
  let ks := if portState s g = 3 then p.shapers.mapIdx fun c k => shaperAfter s g c k n else p.shapers
  s.setPort g { p with shapers := ks, tokens := p.tokens.mapIdx fun i t => tokensAfter s g i t n, shAt := s.ticks }

/-- Puts a packet into its class queue of a port, or lets it wait at the attach point when the queue is full (R398, R399). A
request also waits behind a packet that already waits for the same queue. -/
def egressPush (g : Nat) (p : Packet) (s : State) : State :=
  let s := tspAdvance g s
  let k := 8 * g + p.tc
  if hasRoom s g p && (isResponse p || (fget (fun _ => []) s.stall k).isEmpty) then
    syncOcc g { s with egress := fmod (fun _ => []) s.egress k (· ++ [p]) }
  else
    let s := { s with stall := fmod (fun _ => []) s.stall k (· ++ [p]) }
    irq (pgTSP (g / 4)) 2 (s.bump (pgTSP (g / 4)) F.TSP_Q_FULL_COUNT 1 0 (g % 4))

/-- The first waiting packet that a class queue has a slot for enters it. -/
def unstall (g c : Nat) (s : State) : State :=
  let k := 8 * g + c
  let l := fget (fun _ => []) s.stall k
  match l.findIdx? (hasRoom s g) with
  | none => s
  | some i =>
    match l[i]? with
    | none => s
    | some p =>
      syncOcc g { s with stall := fset (fun _ => []) s.stall k (l.eraseIdx i),
                         egress := fmod (fun _ => []) s.egress k (· ++ [p]) }

/-- Takes the head of a class queue; the shaper's credit falls to IDLE_CAP when the queue empties (R403). -/
def dequeue (g c : Nat) (s : State) : State :=
  let s := tspAdvance g s
  let k := 8 * g + c
  let s := syncOcc g { s with egress := fmod (fun _ => []) s.egress k (·.drop 1) }
  let s := unstall g c s
  if (classQueue s g c).isEmpty then
    let cap : Int := (s.rd (pgTSP (g / 4)) F.TSP_SCAP_IDLE_CAP c (g % 4) * 16000 : Nat)
    let p := s.port g
    s.setPort g { p with shapers := p.shapers.mapIdx (fun i x => if i = c then min x cap else x) }
  else s

/-- Flits of a packet. -/
def pktFlits (p : Packet) : Nat := p.len + 1

/-- Flits queued on a port in a class. -/
def queuedFlits (s : State) (g c : Nat) : Nat := (classQueue s g c).foldl (fun n p => n + pktFlits p) 0

end Sys2Proof.Machine
end

