-- ==== Sys2Proof/Machine/Events.lean ====
section
/-! DEFINITION. The event logs (R687-R697), the downbeat table (R499-R503) and the
recording of page faults (R92). -/
namespace Sys2Proof.Machine
open Sys2Proof

/-- The event's class (R687). -/
def Event.cls (e : Event) : Nat := e.code / 0x1000

/-- Brings LOG[l].STATUS and OLDEST_SEQ in line with the stored entries. -/
def syncLog (l : Nat) (s : State) : State :=
  let es := if l = 0 then s.evl.log0 else s.evl.log1
  let pos := if l = 0 then s.evl.pos0 else s.evl.pos1
  let s := s.wr pgEVL F.EVL_LOG_STATUS_COUNT es.length 0 l
  let s := s.wr pgEVL F.EVL_LOG_STATUS_FIRST ((pos + 4096 - es.length % 4096) % 4096) 0 l
  let s := s.wr pgEVL F.EVL_LOG_STATUS_FULL (b2n (es.length == 4096)) 0 l
  s.wr pgEVL F.EVL_LOG_OLDEST_SEQ_SEQ (match es with | [] => 0 | e :: _ => e.seq) 0 l

/-- An entry written into log 0 waits for the EVENT stream while that is enabled; the ring stores the newest 4,096, and an
entry overwritten before it is mirrored counts in LOST (22 R658). -/
def backlogPut (e : LogEntry) (s : State) : State :=
  if !s.flag pgHIF F.HIF_ST_CTRL_EN then s
  else
    let x := fget (fun _ => HostStream.fresh) s.streams 0
    let full := decide (4096 ≤ x.backlog.length)
    let x := { x with backlog := (if full then x.backlog.drop 1 else x.backlog) ++ [e] }
    let s := { s with streams := fset (fun _ => HostStream.fresh) s.streams 0 x }
    if full then s.bump pgHIF F.HIF_ST_COUNTS_LOST else s

/-- Writes an entry into log 0 by its policy (R694). -/
def logPut0 (e : LogEntry) (s : State) : State :=
  if s.evl.log0.length < 4096 then
    backlogPut e <| syncLog 0 { s with evl := { s.evl with log0 := s.evl.log0 ++ [e], pos0 := (s.evl.pos0 + 1) % 4096 } }
  else
    let s := if s.evl.lost0 then s else irq pgEVL 3 { s with evl := { s.evl with lost0 := true } }
    let s := s.bump pgEVL F.EVL_LOG_LOST_COUNT 1 0 0
    if s.flag pgEVL F.EVL_CFG_POL0 then s
    else
      let s := if s.evl.wrapped0 then s else irq pgEVL 1 { s with evl := { s.evl with wrapped0 := true } }
      backlogPut e <| syncLog 0 { s with evl := { s.evl with log0 := s.evl.log0.drop 1 ++ [e], pos0 := (s.evl.pos0 + 1) % 4096 } }

/-- Writes an entry into log 1 by its policy (R694, R704). -/
def logPut1 (e : LogEntry) (s : State) : State :=
  if s.evl.log1.length < 4096 then
    let s := irq pgEVL 0 (syncLog 1 { s with evl := { s.evl with log1 := s.evl.log1 ++ [e], pos1 := (s.evl.pos1 + 1) % 4096 } })
    if s.evl.log1.length = 4096 then irq pgEVL 2 s else s
  else
    let s := if s.evl.lost1 then s else irq pgEVL 3 { s with evl := { s.evl with lost1 := true } }
    let s := s.bump pgEVL F.EVL_LOG_LOST_COUNT 1 0 1
    if s.flag pgEVL F.EVL_CFG_POL1 then s
    else irq pgEVL 0 (syncLog 1 { s with evl := { s.evl with log1 := s.evl.log1.drop 1 ++ [e], pos1 := (s.evl.pos1 + 1) % 4096 } })

/-- The write port gives an event the next SEQ and writes it into the logs by the masks (R693). -/
def logWrite (e : Event) (s : State) : State :=
  let x : LogEntry := { ev := e, seq := s.rd pgEVL F.EVL_SEQ_NEXT_SEQ }
  let s := s.inc pgEVL F.EVL_SEQ_NEXT_SEQ
  let s := if bitOf (s.rd pgEVL F.EVL_CFG_MASK0) e.cls then logPut0 x s else s
  if bitOf (s.rd pgEVL F.EVL_CFG_MASK1) e.cls then logPut1 x s else s

/-- Puts an event into its page's pending buffer of 4, or counts it in SRC_LOST (R693, R704). -/
def evOffer (e : Event) (s : State) : State :=
  let l := fget (fun _ => []) s.evl.pend e.page
  if l.length < 4 then { s with evl := { s.evl with pend := fset (fun _ => []) s.evl.pend e.page (l ++ [e]) } }
  else irq pgEVL 3 (s.bump pgEVL F.EVL_SRC_LOST_COUNT)

/-! The downbeat table. -/

/-- PENDING.COUNT shows the entries held (Table 17.5). -/
def snpSync (s : State) : State := s.wr pgSNP F.SNP_PENDING_COUNT s.snp.pend.length

/-- Whether a downbeat finds no place in the table of 4: no pending T is equal, and no entry is free (R502). -/
def snpNoRoom (e : SnpEntry) (s : State) : Bool :=
  !(s.snp.pend.any fun x => x.t == e.t) && decide (4 ≤ s.snp.pend.length)

/-- Enters a downbeat into the table of 4: an equal T merges, and a DOWNBEAT gives its number to an entry without one;
without a free entry it is dropped, counted, and event 0x1712 is offered to the logs (R502). -/
def snpEnter (e : SnpEntry) (s : State) : State :=
  if s.snp.pend.any (fun x => x.t == e.t) then
    { s with snp := { s.snp with pend := s.snp.pend.map fun x =>
        if x.t = e.t then
          (if x.oseq = 0 then { x with sources := x.sources ||| e.sources, origin := e.origin, oseq := e.oseq }
           else { x with sources := x.sources ||| e.sources })
        else x } }
  else if s.snp.pend.length < 4 then snpSync { s with snp := { s.snp with pend := s.snp.pend ++ [e] } }
  else
    let s := irq pgSNP 3 (s.bump pgSNP F.SNP_PEND_FULL_COUNT)
    let s := s.bump pgERR F.ERR_CLASS_COUNT_COUNT 1 1
    evOffer { code := 0x1712, page := 8, injected := false, met := s.met, d0 := 0, d1 := 0, d2 := 0 } (irq pgERR 0 s)

/-- Floods a packet on every port in state ACTIVE or SLEEP but the one it came in on (R456, R500). -/
def flood (p : Packet) (s : State) : State :=
  (List.range 24).foldl (fun s g =>
    if g ≠ p.port && (portState s g = 3 || portState s g = 4) then egressPush g { p with port := g } s else s) s

/-- A number as n little-endian bytes. -/
def leBytes : Nat → Nat → List Byte
  | 0, _ => []
  | n + 1, v => BitVec.ofNat 8 v :: leBytes n (v / 256)

/-- Little-endian bytes as a number. -/
def leNat : List Byte → Nat
  | [] => 0
  | b :: r => b.toNat + 256 * leNat r

/-- Flits of a packet with a payload of n bytes, less one (R344). -/
def flitsLess1 (n : Nat) : Nat := (16 + n + 63) / 64 - 1

/-- A one-flit fabric packet to every chip (DST_CHIP 0x1FFF, SLICE 0xFFF). -/
def floodPacket (s : State) (tc op words : Nat) (data : List Byte) : Packet :=
  { dst := 0x1FFF, src := s.chipNum, slice := 0xFFF, tc := tc, op := op, len := 0, offset := 0, tag := 0,
    ordered := false, poison := false, mark := false, detour := false, words := words, data := data, req := mgmt, port := 31 }

/-- The DOWNBEAT packet (R500). -/
def downbeatPacket (s : State) (e : SnpEntry) : Packet :=
  floodPacket s 6 0x3C 4 (leBytes 8 e.t ++ leBytes 4 e.oseq ++ leBytes 1 e.sources ++ leBytes 3 0)

/-- MIN_GAP in ticks. -/
def minGap (s : State) : Nat := s.rd pgSNP F.SNP_MIN_GAP_US * 1000

/-- Whether two ticks lie within a gap. -/
def within (g a b : Nat) : Bool := if a ≤ b then decide (b - a < g) else decide (a - b < g)

/-- Counts an excess downbeat (R503); event 0x1711 is offered to the logs at the first after CNT_CLR. -/
def snpCountExcess (s : State) : State :=
  let s := irq pgSNP 1 (s.bump pgSNP F.SNP_EXCESS_COUNT)
  if s.snp.excessLogged then s
  else
    let s := { s with snp := { s.snp with excessLogged := true } }
    let s := irq pgERR 0 (s.bump pgERR F.ERR_CLASS_COUNT_COUNT 1 1)
    evOffer { code := 0x1711, page := 8, injected := false, met := s.met, d0 := 0, d1 := 0, d2 := 0 } s

/-- A source triggers a downbeat: LOCAL enters T; MACHINE tests MIN_GAP, enters T and floods a DOWNBEAT (R499, R503). What
becomes of an excess downbeat, and how one is entered, are the arguments `excess` and `enter`. -/
def snpSource (excess : State → State) (enter : SnpEntry → State → State) (src t : Nat) (s : State) : State :=
  let machine := s.flag pgSNP (match src with
    | 0 => F.SNP_SCOPE_FIRE | 1 => F.SNP_SCOPE_MET | 2 => F.SNP_SCOPE_ERROR | _ => F.SNP_SCOPE_PIN)
  if machine then
    let t := if src = 1 then t else t + s.rd pgSNP F.SNP_LEAD_NS
    if s.snp.pend.any (fun x => within (minGap s) x.t t)
        || (match s.snp.lastLatch with | none => false | some l => within (minGap s) l t) then excess s
    else
      let oseq := (s.snp.seqOut + 1) % 2 ^ 32
      let e : SnpEntry := { t := t, sources := 2 ^ src, origin := s.chipNum, oseq := oseq }
      let s := { s with snp := { s.snp with seqOut := oseq } }
      let s := s.wr pgSNP F.SNP_SEQ_OUT_SEQ oseq
      flood (downbeatPacket s e) (enter e s)
  else enter { t := t, sources := 2 ^ src, origin := s.chipNum, oseq := 0 } s

/-- Whether a source is enabled in SRC_EN (Table 17.3); in TACET only MET and PIN can trigger (R508). -/
def snpEnabled (s : State) (src : Nat) : Bool :=
  (s.rd pgPWR F.PWR_STATUS_STATE ≠ 4 || src = 1 || src = 3) && s.flag pgSNP (match src with
    | 0 => F.SNP_SRC_EN_FIRE | 1 => F.SNP_SRC_EN_MET | 2 => F.SNP_SRC_EN_ERROR | 3 => F.SNP_SRC_EN_PIN
    | _ => F.SNP_SRC_EN_REMOTE)

/-- The ERROR source is presented with an event of SNP's own, of class WARNING (R689): the events that this trigger raises
in turn are not presented again. -/
def snpOwnEvent (s : State) : State :=
  if bitOf (s.rd pgSNP F.SNP_ERR_CLASSES_CLASSES) 1 && snpEnabled s 2 then snpSource snpCountExcess snpEnter 2 s.met s else s

/-- Counts an excess downbeat (R503), with all that event 0x1711 does (R689). -/
def snpExcess (s : State) : State :=
  let logged := s.snp.excessLogged
  let s := snpCountExcess s
  if logged then s else snpOwnEvent s

/-- Enters a downbeat into the table (R502), with all that event 0x1712 does (R689). -/
def snpInsert (e : SnpEntry) (s : State) : State :=
  let full := snpNoRoom e s
  let s := snpEnter e s
  if full then snpOwnEvent s else s

/-- A source triggers a downbeat (R499). -/
def snpTrigger (src t : Nat) (s : State) : State := snpSource snpExcess snpInsert src t s

/-- What every event raised does (R689), but for the effect of its class: it counts, interrupts, fills FIRST, is offered
to the ERROR downbeat source and, unless it is FATAL, to the logs. -/
def raiseBase (e : Event) (s : State) : State :=
  let c := e.cls
  let s := s.bump pgERR F.ERR_CLASS_COUNT_COUNT 1 c
  let s := if c = 1 then irq pgERR 0 s else if c = 2 then irq pgERR 1 s else if c = 3 then irq pgERR 2 s else s
  let s := if (c = 3 || c = 4) && !s.flag pgERR F.ERR_FIRST_VALID then
      ((s.wr pgERR F.ERR_FIRST_CODE e.code).wr pgERR F.ERR_FIRST_VALID 1).wr64 pgERR F.ERR_FIRST_MET_LO_MET F.ERR_FIRST_MET_HI_MET e.met
    else s
  let s := if c = 4 then logWrite e s else evOffer e s
  if bitOf (s.rd pgSNP F.SNP_ERR_CLASSES_CLASSES) c && snpEnabled s 2 then snpTrigger 2 s.met s else s

/-- The event a page logs now. -/
def mkEvent (s : State) (pg code d0 d1 d2 : Nat) : Event :=
  { code := code, page := pg / 0x1000, injected := false, met := s.met, d0 := d0, d1 := d1, d2 := d2 }

/-- Logs an event of class INFO, CORRECTED or DEFERRED from a page: the classes that neither fence nor reset. -/
def logEv (pg code : Nat) (s : State) (d0 : Nat := 0) (d1 : Nat := 0) (d2 : Nat := 0) : State :=
  raiseBase (mkEvent s pg code d0 d1 d2) s

/-- Records a fault of a page access: the first fault's record, the count, and event 0xF0 of the page's family (R92). -/
def pageFault (pg cause req : Nat) (write : Bool) (off : Nat) (s : State) : State :=
  let n := s.rd pg F.OWN_PAGE_FAULT_COUNT
  if n = 0 then
    let s := s.wr pg F.OWN_PAGE_FAULT_CAUSE cause
    let s := s.wr pg F.OWN_PAGE_FAULT_REQUESTER req
    let s := s.wr pg F.OWN_PAGE_FAULT_WRITE (b2n write)
    let s := s.wr pg F.OWN_PAGE_FAULT_OFFSET off
    let s := s.wr pg F.OWN_PAGE_FAULT_COUNT 1
    let s := s.wr64 pg F.OWN_FAULT_MET_LO_MET F.OWN_FAULT_MET_HI_MET s.met
    match pageOf pg with
    | none => s
    | some (k, _) => logEv pg (familyOf k * 0x100 + 0xF0) s (s.word (pg + 0xF08)).toNat
  else s.bump pg F.OWN_PAGE_FAULT_COUNT

/-- Fault causes of Table 3.6. -/
def causeNotOwner : Nat := 1
def causeExpert : Nat := 2
def causeLocked : Nat := 3
def causeUnavailable : Nat := 4
def causeUnused : Nat := 5
def causeBadAccess : Nat := 6
def causeLop : Nat := 7
def causeRefused : Nat := 8

end Sys2Proof.Machine
end

