-- ==== Sys2Proof/Machine/Reset.lean ====
section
/-! DEFINITION. Entering reset, and what a reset keeps (R103-R112, Table 4.2; R697, R703). -/
namespace Sys2Proof.Machine
open Sys2Proof

/-- The register words a warm reset keeps: the ROS fields of CHIP and CHIP.LOC (Table 4.2), and of EVL the fields of
R697. -/
def keptWords : List Nat :=
  [pgCHIP + 0x120, pgCHIP + 0x124, pgCHIP + 0x128, pgCHIP + 0x110, pgEVL + 0x104,
   pgEVL + 0x110, pgEVL + 0x114, pgEVL + 0x118, pgEVL + 0x120, pgEVL + 0x124, pgEVL + 0x128, pgEVL + 0x130]

/-- The registers after a warm reset: reset values but for the kept words. -/
def keptRegs (s : State) : Fmap Word :=
  keptWords.foldl (fun m a => fset wordReset m a (s.word a)) []

/-- How many events still stand in page buffers. -/
def pendCount (s : State) : Nat := s.evl.pend.foldl (fun n x => n + x.2.length) 0

/-- The state the chip enters reset with: what Table 4.2 keeps across a warm reset, and reset values elsewhere. Events
still in page buffers are lost and counted in SRC_LOST (R697). -/
def resetBody (s : State) : State :=
  let t : State := { State.reset with
    jtag := s.jtag, pending := s.pending, freeCtr := s.freeCtr, fuses := s.fuses, outbox := s.outbox, regs := keptRegs s, flash := s.flash, devs := s.devs,
    pwr := { State.reset.pwr with tripped := s.pwr.tripped }
    evl := { s.evl with pend := [], lastPage := 0xFFF }
    chip := { s.chip with inReset := true, wdogOn := false, booting := false, fpPublished := false, seqLoad := [],
                          topoFinal := false, bistBatch := [],
                          fastEnAtReset := s.flag pgCHIP F.CHIP_RESET_CFG_FAST_EN } }
  t.bump pgEVL F.EVL_SRC_LOST_COUNT (pendCount s)

/-- A reset source becomes active (R104): the chip enters reset (R107), and RESET_EVENT takes the event code of a FATAL
error and 0 for every other source (R111). -/
def enterReset (src code : Nat) (s : State) : State :=
  let s := if s.chip.inReset then s else resetBody s
  let s := { s with chip := { s.chip with sources := if s.chip.sources.contains src then s.chip.sources
                                                    else s.chip.sources ++ [src] } }
  s.wr pgCHIP F.CHIP_RESET_EVENT_CODE code

end Sys2Proof.Machine
end

