-- ==== Sys2Proof/Machine/Release.lean ====
section
/-! DEFINITION. Stopping what a partition runs and releasing its heads (23 R676): tiles (07 R217), pool layers (19 R549,
R550), commits (R573), fence slots (R564), pipelines (21 R627), host queues (22 R663) and the blit (20 R601). -/
namespace Sys2Proof.Machine
open Sys2Proof

/-! Tiles. -/

/-- A tile beside its page. -/
def State.tile (s : State) (t : Nat) : Tile := fget (fun _ => Tile.fresh) s.tiles t

/-- Replaces it. -/
def State.setTile (s : State) (t : Nat) (x : Tile) : State := { s with tiles := fset (fun _ => Tile.fresh) s.tiles t x }

/-- Changes it. -/
def State.modTile (s : State) (t : Nat) (f : Tile → Tile) : State := s.setTile t (f (s.tile t))

/-- The sequencer state (Table 7.4). -/
def stOFF : Nat := 0
def stIDLE : Nat := 1
def stRUNNING : Nat := 2
def stENDING : Nat := 3
def stQUIESCING : Nat := 4
def stQUIESCED : Nat := 5
def stDRAINING : Nat := 6
def stHALTED : Nat := 7

/-- SEQ_STATUS.STATE. -/
def State.seqState (s : State) (t : Nat) : Nat := s.rd (pgTILE t) F.TILE_SEQ_STATUS_STATE

/-- A stopped state, in which scalar writes apply and scores do not run (R221). -/
def stoppedState (st : Nat) : Bool := st = stOFF || st = stIDLE || st = stQUIESCED || st = stHALTED

/-- PAGE_STATUS.ENABLED and QUIESCED of a tile (R80, R217): ENABLED reads 1 in every state but OFF, QUIESCED while a stop is
asked and the tile stands still. -/
def tileFlags (t : Nat) (s : State) : State :=
  let pg := pgTILE t
  let s := s.wr pg F.HDR_PAGE_STATUS_ENABLED (b2n (!decide (s.seqState t = stOFF)))
  s.wr pg F.HDR_PAGE_STATUS_QUIESCED (b2n (!s.running pg && stoppedState (s.seqState t)))

/-- Enters a sequencer state: STATE, its copy in PAGE_STATUS.BLOCK, ENABLED and QUIESCED (R217, R227). -/
def setSeqState (t st : Nat) (s : State) : State :=
  let pg := pgTILE t
  let s := tileFlags t ((s.wr pg F.TILE_SEQ_STATUS_STATE st).wr pg F.HDR_PAGE_STATUS_BLOCK st)
  if st = 2 then s else s.wr pg F.TILE_SEQ_STATUS_BLOCK 0

/-- The tile issues nothing more and goes to OFF once its queues are empty (Table 7.4). -/
def tileToOff (t : Nat) (s : State) : State :=
  let st := s.seqState t
  if st = stIDLE || st = stQUIESCED || st = stHALTED then setSeqState t stOFF s
  else if st = stOFF then s
  else
    let s := s.modTile t fun x => { x with offMark := true, waitMet := false }
    if st = stRUNNING || st = stENDING then setSeqState t stQUIESCING s else s

/-- The tiles whose page a partition owns. -/
def tilesOf (s : State) (p : Nat) : List Nat := (List.range 2560).filter fun t => s.owner (pgTILE t) = p

/-! Heads, layers and commits. -/

/-- A head beside its pages. -/
def State.head (s : State) (n : Nat) : Head := fget (fun _ => Head.fresh) s.heads n

/-- The state with a head changed. -/
def State.modHead (s : State) (n : Nat) (f : Head → Head) : State :=
  { s with heads := fset (fun _ => Head.fresh) s.heads n (f (s.head n)) }

/-- The page of pool layer l: 0-7 VID, 8-23 GFX. -/
def layerPg (l : Nat) : Nat := if l < 8 then pgVID l else pgGFX (l - 8)

/-- The condition of a layer: 0 FREE, 1 GRANTED, 2 SHOWN (R549). -/
def layerCond (s : State) (l : Nat) : Nat := s.rd (layerPg l) F.LAYER_STATE_COND

/-- The head a layer is GRANTED to or SHOWN on. -/
def layerHead (s : State) (l : Nat) : Nat := s.rd (layerPg l) F.LAYER_STATE_HEAD

/-- POOL_VID and POOL_GFX show who holds a layer (Table 19.10). -/
def setPool (l n : Nat) (held : Bool) (s : State) : State :=
  if l < 8 then (s.wr pgCMT F.CMT_POOL_VID_HEAD n l).wr pgCMT F.CMT_POOL_VID_HELD (b2n held) l
  else (s.wr pgCMT F.CMT_POOL_GFX_HEAD n (l - 8)).wr pgCMT F.CMT_POOL_GFX_HELD (b2n held) (l - 8)

/-- A layer becomes GRANTED to or SHOWN on head n: its owner follows the head's (R550), ASSIGNED is set at a change of
COND, and a GFX layer reads STEP_X and STEP_Y as 0x10000 (R583). -/
def layerHold (l n cond : Nat) (s : State) : State :=
  let pg := layerPg l
  let change := !decide (layerCond s l = cond)
  let s := (s.wr pg F.LAYER_STATE_COND cond).wr pg F.LAYER_STATE_HEAD n
  let s := setPool l n true (s.wr pg F.OWN_PAGE_OWNER_OWNER (s.owner (pgDH n)))
  let s := if l < 8 then s else (s.wr pg F.LAYER_STEP_X_STEP 0x10000).wr pg F.LAYER_STEP_Y_STEP 0x10000
  if change then irq pg 0 s else s

/-- A layer becomes FREE: 0x100-0x13C read 0 and the owner is 0x3F (R550, R583). -/
def layerFree (l : Nat) (s : State) : State :=
  if layerCond s l = 0 then s
  else
    let pg := layerPg l
    let s := s.zeroWords ((List.range 16).map fun k => pg + 0x100 + 4 * k)
    irq pg 0 (setPool l 0 false (s.wr pg F.OWN_PAGE_OWNER_OWNER mgmt))

/-- The layers GRANTED to or SHOWN on a head. -/
def layersOf (s : State) (n : Nat) : List Nat :=
  (List.range 24).filter fun l => layerCond s l ≠ 0 && layerHead s l = n

/-- Responses to an endpoint's requests in flight are discarded from now on: nothing waits for them. -/
def forgetUse (ep : Nat) (s : State) : State :=
  { s with outst := s.outst.map fun t => if t.ep = ep then { t with use := 0 } else t }

/-- The same for the requests with one argument. -/
def forgetArg (ep a : Nat) (s : State) : State :=
  { s with outst := s.outst.map fun t => if t.ep = ep && t.arg = a then { t with use := 0 } else t }

/-- A commit leaves FETCHING or PENDING with a result (Table 19.10); WAITED takes the misses of one that was PENDING
(R571). -/
def commitEnd (n result : Nat) (s : State) : State :=
  match (s.head n).commit with
  | none => s
  | some c =>
    let s := if s.rd pgCMT F.CMT_STATUS_STATE 0 n = 2 then s.wr pgCMT F.CMT_STATUS_WAITED (min 255 c.misses) 0 n else s
    let s := (s.wr pgCMT F.CMT_STATUS_STATE 0 0 n).wr pgCMT F.CMT_STATUS_RESULT result 0 n
    let s := s.wr pgCMT F.CMT_STATUS_TAG c.tag 0 n
    forgetUse (0xA14 + n) (s.modHead n fun h => { h with commit := none })

/-- A commit is discarded, and the layers GRANTED to it become FREE. -/
def commitDiscard (n result : Nat) (s : State) : State :=
  match (s.head n).commit with
  | none => s
  | some c => c.granted.foldl (fun s l => layerFree l s) (commitEnd n result s)

/-- Every layer of a head becomes FREE, its commit being discarded as CANCELLED (R36, R573, R574). -/
def headLayersFree (n : Nat) (s : State) : State :=
  let s := commitDiscard n 6 s
  (layersOf s n).foldl (fun s l => layerFree l s) s

/-- The head of a drained partition: R36 applies, and the owner of both pages becomes 0x3F with every setting kept (18
R539). -/
def headRelease (n : Nat) (s : State) : State :=
  let s := headLayersFree n s
  let s := (s.wr (pgDH n) F.OWN_PAGE_OWNER_OWNER mgmt).wr (pgDH n) F.OWN_PAGE_LOCK_LOCK 0
  (s.wr (pgDPTX n) F.OWN_PAGE_OWNER_OWNER mgmt).wr (pgDPTX n) F.OWN_PAGE_LOCK_LOCK 0

/-- Whether a fence slot is held, and by which requester. -/
def fenceHeld (s : State) (i : Nat) : Bool := s.flag pgCMT F.CMT_FENCE_OWNER_HELD i
def fenceHolder (s : State) (i : Nat) : Nat := s.rd pgCMT F.CMT_FENCE_OWNER_HOLDER i

/-- A slot is freed and set to 0; a pending commit's fence on it counts as unreached from then on (R564): its holder is
recorded as 64, which no requester is. -/
def fenceFree (i : Nat) (s : State) : State :=
  let s := s.wr pgCMT F.CMT_FENCE_VALUE 0 i
  let s := (s.wr pgCMT F.CMT_FENCE_OWNER_HELD 0 i).wr pgCMT F.CMT_FENCE_OWNER_HOLDER 0 i
  (List.range 4).foldl (fun s n => s.modHead n fun h =>
    { h with commit := h.commit.map fun c =>
        { c with fences := c.fences.map fun x => if x.1 = i then (x.1, x.2.1, 64) else x } }) s

/-- Every fence slot a partition holds is freed. -/
def fencesFree (p : Nat) (s : State) : State :=
  (List.range 64).foldl (fun s i => if fenceHeld s i && decide (fenceHolder s i = p) then fenceFree i s else s) s

/-! Pipelines. -/

/-- A pipeline beside its pages. -/
def State.cam (s : State) (n : Nat) : Cam := fget (fun _ => Cam.idle) s.cams n

/-- The state with a pipeline changed. -/
def State.modCam (s : State) (n : Nat) (f : Cam → Cam) : State :=
  { s with cams := fset (fun _ => Cam.idle) s.cams n (f (s.cam n)) }

/-- ISP.STATUS.STATE (Table 21.5). -/
def ispState (s : State) (n : Nat) : Nat := s.rd (pgISP n) F.ISP_STATUS_STATE

/-- Enters a pipeline state: STATE, ENABLED and QUIESCED. -/
def setIspState (n st : Nat) (s : State) : State :=
  let pg := pgISP n
  let s := s.wr pg F.ISP_STATUS_STATE st
  let s := s.wr pg F.HDR_PAGE_STATUS_ENABLED (b2n (!decide (st = 0)))
  s.wr pg F.HDR_PAGE_STATUS_QUIESCED (b2n (st = 0 && !s.running pg))

/-- Requests of the four endpoints of pipeline n that wait for their response. -/
def ispFlying (s : State) (n : Nat) : Nat := (s.outst.filter fun t => t.ep / 4 = 0x280 + n && !t.quar).length

/-- The pipeline reaches OFF: no frame is under way; CAM_TRIG runs on. -/
def ispOff (n : Nat) (s : State) : State :=
  let s := s.modCam n fun c =>
    { Cam.idle with trig := c.trig, trigAt := c.trigAt }
  ((setIspState n 0 s).wr (pgCSI n) F.CSI_STATUS_IN_FRAME 0).wr (pgCSI n) F.CSI_STATUS_LANE_SYNC 0

/-- The owning partition is drained: nothing more issues, and OFF follows once no write is in flight (Table 21.5). -/
def ispStop (n : Nat) (s : State) : State :=
  if ispState s n = 0 then s
  else if ispFlying s n = 0 then ispOff n s
  else s.modCam n fun c => { c with stop := true }

/-! Host queues. -/

/-- A host queue beside its page. -/
def State.hq (s : State) (q : Nat) : HostQ := fget (fun _ => HostQ.fresh) s.hqs q

/-- The state with a host queue changed. -/
def State.modHq (s : State) (q : Nat) (f : HostQ → HostQ) : State :=
  { s with hqs := fset (fun _ => HostQ.fresh) s.hqs q (f (s.hq q)) }

/-- The page and the block of queue q. -/
def hqPg (q : Nat) : Nat := pgHQ (q / 32)
def hqRd (s : State) (q : Nat) (f : Fld) : Nat := s.rd (hqPg q) f 0 (q % 32)
def hqWr (q : Nat) (f : Fld) (v : Nat) (s : State) : State := s.wr (hqPg q) f v 0 (q % 32)

/-- A queue leaves RUN for a state, with EN = 0 and QUEUE_STOPPED (R666). -/
def hqLeave (q st : Nat) (s : State) : State :=
  let s := hqWr q F.HQ_QCFG_STATE st (hqWr q F.HQ_QCFG_EN 0 s)
  irq (hqPg q) 0 s

/-- The queues of a function. -/
def queuesOf (s : State) (fn : Nat) : List Nat := (List.range 64).filter fun q => hqRd s q F.HQ_QCFG_FUNC = fn

/-- A queue that drains and has nothing left reads DRAINED. -/
def hqDrainEnd (q : Nat) (s : State) : State :=
  let x := s.hq q
  if x.drained && x.cmds.isEmpty && x.fin.isEmpty && decide (hqRd s q F.HQ_QCFG_STATE = 1) then hqLeave q 2 s else s

/-- A queue of a drained partition (R663): it takes no claims, commands not yet started complete with DRAINED, and with none
left STATE reads DRAINED. -/
def hqDrain (q : Nat) (s : State) : State :=
  if hqRd s q F.HQ_QCFG_STATE = 1 then
    hqDrainEnd q <| s.modHq q fun x =>
      { x with drained := true, ringing := false, cmds := x.cmds.filter (·.started),
               fin := x.fin ++ (x.cmds.filter fun c => !c.started).map fun c => { num := c.num, w := c.w, status := 6, detail := none } }
  else s

/-! The blit. -/

/-- A blit that runs is cancelled at the next line boundary, a suspended one at once (Table 3.9). -/
def blitCancel (s : State) : State :=
  let st := s.rd pgBLT F.LOP_LOP_STATE_STATE
  if (st = 1 || st = 2) && decide (s.blt.phase < 3) then s.wr pgBLT F.LOP_LOP_STATE_STATE 4
  else if st = 3 then
    let s := ({ s with blt := Blt.none }).wr64 pgBLT F.BLT_END_MET_LO_MET F.BLT_END_MET_HI_MET s.met
    irq pgBLT 31 ((s.wr pgBLT F.LOP_LOP_STATE_STATE 6).wr pgBLT F.LOP_LOP_RESULT_CODE 1)
  else s

/-! The fence. -/

/-- What a fence stops and releases (R676). -/
def fenceEffects (p : Nat) (s : State) : State :=
  let s := (tilesOf s p).foldl (fun s t => tileToOff t s) s
  let s := match vfOf s p with
    | none => s
    | some fn => (queuesOf s fn).foldl (fun s q => hqDrain q s) s
  let s := (List.range 4).foldl (fun s n => if bitOf (s.rd pgPART F.PART_P_STATE_PIPES p) n then ispStop n s else s) s
  let s := if s.flag pgPART F.PART_P_STATE_BLT p then blitCancel s else s
  let s := (List.range 4).foldl (fun s n => if bitOf (s.rd pgPART F.PART_P_STATE_HEADS p) n then headRelease n s else s) s
  fencesFree p s

end Sys2Proof.Machine
end

