-- ==== Sys2Proof/Machine/Fence.lean ====
section
/-! DEFINITION. Fencing a partition (R675, R676), and raising an event of any class (R689). -/
namespace Sys2Proof.Machine
open Sys2Proof

/-- A contained error is charged to a partition: an ACTIVE partition becomes FENCED (Table 23.1, R676). -/
def fencePart (p code : Nat) (s : State) : State :=
  if s.rd pgPART F.PART_P_STATE_STATE p = 1 then
    let s := s.wr pgPART F.PART_P_STATE_STATE 2 p
    let s := s.wr pgPART F.PART_FENCE_CAUSE_EVENT code p
    let s := fenceEffects p s
    let s := irq pgPART 0 s
    raiseBase (mkEvent s pgPART 0x3C02 p code 0) s
  else s

/-- Raises an event (R689): class 3 fences the partition it is charged to (63: none), class 4 resets the chip unless it
records a halt (R688). -/
def raise (e : Event) (charge : Nat) (s : State) : State :=
  let s := raiseBase e s
  if e.cls = 3 && decide (charge < 32) then fencePart charge e.code s
  else if e.cls = 4 && !(decide (0x4081 ≤ e.code) && decide (e.code ≤ 0x408F)) then enterReset 6 e.code s
  else s

/-- A page raises an event. -/
def raiseEv (pg code charge : Nat) (s : State) (d0 : Nat := 0) (d1 : Nat := 0) (d2 : Nat := 0) : State :=
  raise (mkEvent s pg code d0 d1 d2) charge s

/-- An unmapped access (R26, R701, R675): counted in ERR, and event 0x3001 of family CHIP charged to the requester when
the request came from this chip. -/
def unmapped (req srcChip off : Nat) (s : State) : State :=
  let s := s.bump pgERR F.ERR_UNMAPPED_COUNT
  let s := s.wr pgERR F.ERR_LAST_UNMAPPED_REQUESTER req
  let s := s.wr pgERR F.ERR_LAST_UNMAPPED_SRC_CHIP srcChip
  let s := s.wr pgERR F.ERR_LAST_UNMAPPED_VALID 1
  let s := (s.wr pgERR F.ERR_LAST_UNMAPPED_OFF_LO_OFFSET off).wr pgERR F.ERR_LAST_UNMAPPED_OFF_HI_OFFSET (off / 2 ^ 32)
  let s := irq pgERR 3 s
  raiseEv pgERR 0x3001 (if srcChip = s.chipNum then req else mgmt) s (req + srcChip * 2 ^ 6) (off % 2 ^ 32) (off / 2 ^ 32)

end Sys2Proof.Machine
end

