-- ==== Sys2Proof/Machine/Ops.lean ====
section
/-! DEFINITION. Access to pages (R9, R70-R74, R80-R82, R89-R93, R114, R121, R717) and the long-operation protocol
(R94-R101): the operations every family shares. -/
namespace Sys2Proof.Machine
open Sys2Proof

/-- Whether Table 3.4 lets a requester write an offset of a page. -/
def mayWrite (s : State) (req pg off : Nat) : Bool :=
  if req = mgmt then true
  else if req = s.owner pg then (if off < 0xF00 then true else off = 0xF04 || off = 0xF0C)
  else false

/-- Whether Table 3.4 lets a requester read an offset of a page. -/
def mayRead (s : State) (req pg off : Nat) : Bool :=
  req = mgmt || req = s.owner pg || decide (off < 8) || s.flag pg F.OWN_PAGE_OWNER_SHARED_READ

/-- Whether accesses to a page are served in this stage: every page once DONE; before DONE and at HALTED only CHIP, BOOT,
FLASH, LIC, ERR and EVL, for the management domain (R114, R121). -/
def served (s : State) (req pg : Nat) : Bool :=
  s.done ||
  (decide (req = mgmt) &&
    (pg = pgCHIP || pg = pgBOOT ||
      ((pg = pgFLASH || pg = pgLIC || pg = pgERR || pg = pgEVL) && decide (3 ≤ s.rd pgCHIP F.CHIP_BOOT_STATUS_STAGE))))

/-- Whether an offset of a page holds a register (R74). The summary and snapshot regions hold read-only words. -/
def usedOffset (k : PageKind) (off : Nat) : Bool :=
  (fieldsAt k off).any (fun f => (fldHit f off).isSome)

/-- A denial by Table 3.4 or check 5 of Table 12.5: counted against the requester and logged at the first (R674). -/
def denyCount (req srcChip target off : Nat) (s : State) : State :=
  if req = mgmt then s
  else
    let s := irq pgPART 1 (s.bump pgPART F.PART_DENY_COUNT 1 req)
    if s.flag pgPART F.PART_DENY_LOG_VALID then s
    else
      let s := s.wr pgPART F.PART_DENY_LOG_REQUESTER req
      let s := s.wr pgPART F.PART_DENY_LOG_SRC_CHIP srcChip
      let s := s.wr pgPART F.PART_DENY_LOG_TARGET target
      let s := s.wr pgPART F.PART_DENY_LOG_VALID 1
      let s := (s.wr pgPART F.PART_DENY_OFF_LO_OFFSET off).wr pgPART F.PART_DENY_OFF_HI_OFFSET (off / 2 ^ 32)
      let s := s.wr64 pgPART F.PART_DENY_MET_LO_MET F.PART_DENY_MET_HI_MET s.met
      logEv pgPART 0x0C10 s (s.word (pgPART + 0x380)).toNat

/-- The chip offset of a window offset (Table 1.2). -/
def winBase : Nat := 0x7FF00000000

/-- Whether a field is locked against the value written: RWL, LOCK set, and the value would change (R93). -/
def rwlLocked (s : State) (pg : Nat) (f : Fld) (i b v : Nat) : Bool :=
  decide (f.acc = .rwl) && s.flag pg F.OWN_PAGE_LOCK_LOCK && !decide (s.rd pg f i b = getBits v (fldBit f i) f.wid)

/-- What a plain write stores in one element of a field (Table 0.4): RW and RWL fields store, W1C bits written 1 clear,
W1S bits written 1 set, and the management domain's fields store for it alone. -/
def storeElem (req pg v : Nat) (f : Fld) (b i : Nat) (s : State) : State :=
  let x := getBits v (fldBit f i) f.wid
  match f.acc with
  | .rw => s.wr pg f x i b
  | .staged => s.wr pg f x i b
  | .rwl => if rwlLocked s pg f i b v then s else s.wr pg f x i b
  | .w1c => s.wr pg f (s.rd pg f i b - (s.rd pg f i b &&& x)) i b
  | .w1s => s.wr pg f (s.rd pg f i b ||| x) i b
  | .mgmt => if req = mgmt then s.wr pg f x i b else s
  | .conductor => if req = mgmt then s.wr pg f x i b else s
  | .ro => s
  | .ros => s
  | .wo => s
  | .womgmt => s

/-- Stores the elements of one field that lie in the word at an offset. -/
def storeField (req pg off v : Nat) (f : Fld) (s : State) : State :=
  match fldHit f off with
  | none => s
  | some (i0, b) =>
    (List.range f.per).foldl (fun s j => if i0 + j < f.cnt then storeElem req pg v f b (i0 + j) s else s) s

/-- Whether a written word would change a locked field (R93). -/
def lockedHit (s : State) (pg off v : Nat) (f : Fld) : Bool :=
  match fldHit f off with
  | none => false
  | some (i0, b) => (List.range f.per).any (fun j => decide (i0 + j < f.cnt) && rwlLocked s pg f (i0 + j) b v)

/-- The fields a plain write must leave to a row of their own, or that the common header handles: the header and the
ownership area. -/
def plainFields (k : PageKind) (off : Nat) : List Fld :=
  if off < 0x40 || 0xF00 ≤ off then [] else fieldsAt k off

/-- Stores every plainly stored field of a word (R72), and records an attempt to change a locked one (R93). -/
def storePlain (req pg off v : Nat) (s : State) : State :=
  match pageOf pg with
  | none => s
  | some (k, _) =>
    let fs := plainFields k off
    let s := if fs.any (lockedHit s pg off v) then pageFault pg causeLocked req true off s else s
    fs.foldl (fun s f => storeField req pg off v f s) s

/-- What the checks of a page access find. -/
inductive Access where
  /-- The access is performed. -/
  | ok
  /-- Answered with an error and data 0, without a record (R114). -/
  | notServed
  /-- No page lies there (R73). -/
  | unmapped
  /-- Denied by Table 3.4. -/
  | denied
  /-- A write to PAGE_ID or PAGE_CAPS by a requester that may write the rest of the header (R90). -/
  | ignored
  /-- The page is unlicensed, bad or not yet loaded (R9, R717). -/
  | unavailable
  /-- An expert write without EXPERT_EN (R81). -/
  | expert
  /-- No register lies at the offset (R74). -/
  | unused
  deriving DecidableEq, Repr

/-- The checks of a write of one register, in order: stage, page, owner, availability, use of the offset, expert
region. -/
def checkWrite (s : State) (req a : Nat) : Access :=
  match pageOf a with
  | none => .unmapped
  | some (k, _) =>
    let off := a % 0x1000
    let pg := a - off
    if !served s req pg then .notServed
    else if !mayWrite s req pg off then .denied
    else if off < 8 then .ignored
    else if !s.avail pg then .unavailable
    else if !usedOffset k off then .unused
    else if 0x400 ≤ off && decide (off < 0xC00) && hasExpert k && !s.flag pg F.HDR_PAGE_CTRL_EXPERT_EN then .expert
    else .ok

/-- The word at an offset holds a setting that the requester's write stores. -/
def storesSetting (k : PageKind) (req off : Nat) : Bool :=
  (fieldsAt k off).any fun f => (fldHit f off).isSome &&
    (match f.acc with
     | .rw => true | .rwl => true | .staged => true
     | .mgmt => decide (req = mgmt) | .conductor => decide (req = mgmt)
     | .ro => false | .ros => false | .wo => false | .w1c => false | .w1s => false | .womgmt => false)

/-- PAGE_STATUS.CUSTOM after a write (R81): a basic setting clears it, an expert setting sets it. -/
def customMark (req pg off : Nat) (s : State) : State :=
  match pageOf pg with
  | none => s
  | some (k, _) =>
    if hasExpert k && decide (0x100 ≤ off) && decide (off < 0xC00) && storesSetting k req off then
      s.wr pg F.HDR_PAGE_STATUS_CUSTOM (b2n (decide (0x400 ≤ off)))
    else s

/-- A write of one register by a requester on chip `src`, given what its checks found: the effect `eff`, or the record its
rule calls for. -/
def regWriteAs (chk : Access) (src req a : Nat) (eff : State → State) (s : State) : State :=
  let off := a % 0x1000
  let pg := a - off
  match chk with
  | .ok => customMark req pg off (eff s)
  | .notServed => s
  | .unmapped => unmapped req src (winBase + a) s
  | .denied => denyCount req src 5 (winBase + a) (pageFault pg causeNotOwner req true off s)
  | .ignored => s
  | .unavailable => pageFault pg causeUnavailable req true off s
  | .expert => pageFault pg causeExpert req true off s
  | .unused => pageFault pg causeUnused req true off s

/-- A write of one register by a requester on chip `src`: the checks, then the effect. -/
def regWriteFrom (src req a : Nat) (eff : State → State) (s : State) : State :=
  regWriteAs (checkWrite s req a) src req a eff s

/-- A write of one register by a requester of this chip. -/
def regWrite (req a : Nat) (eff : State → State) (s : State) : State := regWriteFrom s.chipNum req a eff s

/-! The long-operation state machine (Table 3.9). -/

/-- States of LOP_STATE.STATE (Table 3.7). -/
def lopRUNNING : Nat := 1
def lopSUSPENDING : Nat := 2
def lopSUSPENDED : Nat := 3
def lopCANCELLING : Nat := 4
def lopDONE : Nat := 5
def lopCANCELLED : Nat := 6
def lopFAILED : Nat := 7

/-- Result codes (Table 3.7). -/
def resCANCELLED : Nat := 1
def resBAD_ARG : Nat := 2
def resUNAVAILABLE : Nat := 3
def resHW_ERROR : Nat := 4
def resTIMEOUT : Nat := 5
def resCONFLICT : Nat := 6

/-- The state of the page's operation. -/
def State.lop (s : State) (pg : Nat) : Nat := s.rd pg F.LOP_LOP_STATE_STATE

/-- The code of the page's current or last operation. -/
def State.lopOp (s : State) (pg : Nat) : Nat := s.rd pg F.LOP_LOP_STATE_OP

/-- An operation is active: RUNNING, SUSPENDING, SUSPENDED or CANCELLING. -/
def State.lopActive (s : State) (pg : Nat) : Bool := decide (1 ≤ s.lop pg) && decide (s.lop pg ≤ 4)

/-- An operation holds its page's bit of PWR.HOLDS (R100). -/
def State.lopHolds (s : State) (pg : Nat) : Bool := s.lop pg = 1 || s.lop pg = 2 || s.lop pg = 4

/-- Argument n of the page's operation, as copied at START. -/
def State.lopArg (s : State) (pg n : Nat) : Nat := (fget (fun _ => []) s.lopArgs pg).getD n 0

/-- The end of a blit is stamped and counted (20 R605). -/
def blitEnded (st : Nat) (s : State) : State :=
  let s := s.wr64 pgBLT F.BLT_END_MET_LO_MET F.BLT_END_MET_HI_MET s.met
  if st = lopDONE then s.bump pgBLT F.BLT_COUNTS_DONE
  else if st = lopFAILED then s.bump pgBLT F.BLT_COUNTS_FAILED
  else s

/-- Enters a state; DONE, SUSPENDED, CANCELLED and FAILED set LOP_END (R85). -/
def lopEnter (pg st : Nat) (s : State) : State :=
  let s := s.wr pg F.LOP_LOP_STATE_STATE st
  let s := if pg = pgBLT && decide (5 ≤ st) then blitEnded st s else s
  if st = 3 || st = 5 || st = 6 || st = 7 then irq pg 31 s else s

/-- Ends an operation in FAILED with a code and a detail. -/
def lopFail (pg code detail : Nat) (s : State) : State :=
  lopEnter pg lopFAILED ((s.wr pg F.LOP_LOP_RESULT_CODE code).wr pg F.LOP_LOP_RESULT_DETAIL detail)

/-- Ends an operation in DONE. -/
def lopFinish (pg : Nat) (s : State) : State := lopEnter pg lopDONE (s.wr pg F.LOP_LOP_RESULT_CODE 0)

/-- Ends an operation in CANCELLED. -/
def lopCancelled (pg : Nat) (s : State) : State := lopEnter pg lopCANCELLED (s.wr pg F.LOP_LOP_RESULT_CODE resCANCELLED)

/-- The operations of Table 3.8: suspendable and cancellable, by page type and code; none where the OP is invalid. -/
def lopKind (k : PageKind) (op : Nat) : Option (Bool × Bool) :=
  match k, op with
  | .mcu, 1 => some (true, true)
  | .mcu, 2 => some (true, true)
  | .mcu, 3 => some (false, true)
  | .lx, 1 => some (true, true)
  | .lx, 2 => some (true, true)
  | .chip, 1 => some (true, true)
  | .flash, 1 => some (true, true)
  | .flash, 2 => some (true, true)
  | .boot, 1 => some (true, true)
  | .boot, 2 => some (false, false)
  | .boot, 3 => some (false, false)
  | .lic, 1 => some (false, true)
  | .part, 1 => some (true, false)
  | .blt, 1 => some (true, true)
  | _, _ => none

/-- Records a rejected long-operation command (R96). -/
def lopReject (req pg : Nat) (s : State) : State := pageFault pg causeLop req true 0x40 s

/-- A START that Table 3.9 takes to FAILED without acceptance: SEQ and progress keep their values. -/
def lopStartFail (pg op code : Nat) (s : State) : State := lopFail pg code 0 (s.wr pg F.LOP_LOP_STATE_OP op)

/-- An accepted START: copies the arguments, sets OP, increments SEQ, zeroes progress and code, and runs (Table 3.9). -/
def lopAccept (pg op : Nat) (s : State) : State :=
  let args := [s.rd pg F.LOP_LOP_ARG_ARG 0, s.rd pg F.LOP_LOP_ARG_ARG 1, s.rd pg F.LOP_LOP_ARG_ARG 2, s.rd pg F.LOP_LOP_ARG_ARG 3]
  let s := { s with lopArgs := fset (fun _ => []) s.lopArgs pg args }
  let s := (s.wr pg F.LOP_LOP_STATE_OP op).inc pg F.LOP_LOP_STATE_SEQ
  let s := s.wr pg F.LOP_LOP_PROGRESS_DONE 0
  let s := (s.wr pg F.LOP_LOP_RESULT_CODE 0).wr pg F.LOP_LOP_RESULT_DETAIL 0
  lopEnter pg lopRUNNING s

/-- A START of operation `op` (R96, Table 3.9): rejected while one is active, failed when the block is not enabled
(unless `stopped` says the operation starts on a stopped page) or not available, else accepted and carried on by
`run`. -/
def lopStart (req pg op : Nat) (stopped : Bool) (run : State → State) (s : State) : State :=
  if s.lopActive pg then lopReject req pg s
  else if !((stopped || s.running pg) && s.avail pg) then lopStartFail pg op resUNAVAILABLE s
  else run (lopAccept pg op s)

/-- After units of work: progress advances, and a suspend or cancel that was asked for takes place (R98). -/
def lopUnits (pg n : Nat) (s : State) : State :=
  let s := s.wr pg F.LOP_LOP_PROGRESS_DONE (s.rd pg F.LOP_LOP_PROGRESS_DONE + n)
  if s.lop pg = lopSUSPENDING then lopEnter pg lopSUSPENDED s
  else if s.lop pg = lopCANCELLING then lopCancelled pg s
  else s

/-- A unit of work ends: a cancel that was asked for takes place, else the last unit ends the operation, else a suspend
takes place (R97, R98, Table 3.9). -/
def lopUnit (pg n : Nat) (last : Bool) (s : State) : State :=
  if last && !decide (s.lop pg = lopCANCELLING) then
    lopFinish pg (s.wr pg F.LOP_LOP_PROGRESS_DONE (s.rd pg F.LOP_LOP_PROGRESS_DONE + n))
  else lopUnits pg n s

/-- The operation that runs on a page makes progress: RUNNING, SUSPENDING or CANCELLING with the given code. -/
def lopRuns (s : State) (pg op : Nat) : Bool := s.lopHolds pg && s.lopOp pg == op

/-- Sets LOP_RESULT.DETAIL. -/
def lopDetail (pg v : Nat) (s : State) : State := s.wr pg F.LOP_LOP_RESULT_DETAIL v

/-- Fails an accepted START because of its arguments or its state (R96). -/
def lopRefuse (pg code : Nat) (s : State) : State := lopFail pg code 0 s

/-- Counts one in a 48-bit performance counter that lies at `lo` of the page, element k; a wrap sets WRAPPED and WRAP_COUNT
and raises the page's IRQ bit (R226, R336). -/
def perfBump (pg : Nat) (lo hi wc wrapped : Fld) (k bit : Nat) (s : State) : State :=
  let n := s.rd pg lo k + s.rd pg hi k * 2 ^ 32 + 1
  let s := (s.wr pg lo n k).wr pg hi (n / 2 ^ 32) k
  if n = 2 ^ 48 then irq pg bit ((s.wr pg wrapped 1 k).bump pg wc 1 k) else s

/-- A consumer receives poisoned data: the ERR.POISON field counts (R691, R701). -/
def poisonSeen (f : Fld) (s : State) : State := irq pgERR 5 (s.bump pgERR f)

/-- n free bytes. -/
def freeBytes (n : Nat) (s : State) : List Byte × State :=
  let x := s.free (8 * n)
  (leBytes n x.1, x.2)

/-- PAGE_CAPS of a page. -/
def setCaps (pg v : Nat) (s : State) : State := s.setWord (pg + 4) (BitVec.ofNat 32 v)

end Sys2Proof.Machine
end

