-- ==== Sys2Proof/Machine/Met.lean ====
section
/-! DEFINITION. The Metronome: beacons, the root, acquisition, lock and holdover (17 R486-R498, R509). -/
namespace Sys2Proof.Machine
open Sys2Proof

/-- States of Table 17.2. -/
def metFREE : Nat := 0
def metACQUIRING : Nat := 1
def metLOCKED : Nat := 2
def metHOLDOVER : Nat := 3
def metROOT : Nat := 4
def metSETTLING : Nat := 5

/-- MET.STATUS.STATE. -/
def State.metState (s : State) : Nat := s.rd pgMET F.MET_STATUS_STATE

/-- This chip's key (R457, R491). -/
def ownKey (s : State) : Nat := s.rd pgFAB F.FAB_CFG_PRIORITY * 2 ^ 13 + (8191 - s.chipNum)

/-- A port carries beacons: ACTIVE or SLEEP. -/
def portUp (s : State) (g : Nat) : Bool := portState s g = 3 || portState s g = 4

/-- The record of a port. -/
def beaconOf (s : State) (g : Nat) : Beacon := fget (fun _ => Beacon.none) s.sync.recs g

/-- A port hears a usable root: its ROOT_SEQ advanced within ROOT_LOSS beacon periods, and its DEPTH is below 15 (R491). -/
def usableRoot (s : State) (g : Nat) : Bool :=
  let b := beaconOf s g
  portUp s g && b.valid && b.live && decide (b.depth < 15) &&
    decide (s.ticks - b.adv < s.rd pgMET F.MET_CFG2_ROOT_LOSS * s.rd pgMET F.MET_CFG_BEACON_US * 1000)

/-- The source port by R491: the best root key, then the smallest DEPTH, then the lowest port. -/
def bestSource (s : State) : Option Nat :=
  (List.range 24).foldl (fun r g =>
    if !usableRoot s g then r
    else
      match r with
      | none => some g
      | some h =>
        let a := beaconOf s g
        let b := beaconOf s h
        if b.key < a.key || (a.key = b.key && decide (a.depth < b.depth)) then some g else r) none

/-- Enters a state: CHANGE_MET takes the tick (Table 17.4). -/
def metEnter (st : Nat) (s : State) : State :=
  let s := s.wr pgMET F.MET_STATUS_STATE st
  let s := s.wr pgMET F.MET_STATUS_SYNC (b2n (st = 2 || st = 4 || (st = 3 && s.sync.hoLocked)))
  let s := if st = 0 || st = 1 || st = 5 || (st = 3 && !s.sync.hoLocked) then s.wr pgMET F.MET_ERR_BOUND_NS 0xFFFF else s
  s.wr64 pgMET F.MET_CHANGE_MET_LO_MET F.MET_CHANGE_MET_HI_MET s.met

/-- A rate correction within ± n ppb; the spec gives the bound alone (log 3). -/
def metSlew (n : Nat) (s : State) : State :=
  let (v, s) := s.free 32
  let r : Int := (v % (2 * n + 1) : Nat) - (n : Int)
  let s := s.wr pgMET F.MET_RATE_PPB (r % 2 ^ 32).toNat
  s.wr pgMET F.MET_STATUS_SLEWING (b2n (decide (100000 < r) || decide (r < -100000)))

/-- Records a root; a change counts, interrupts, and is logged with the new root (R492). -/
def recordRoot (c key : Nat) (s : State) : State :=
  let same := s.sync.root == some c
  let s := { s with sync := { s.sync with root := some c, key := key } }
  let s := s.wr pgMET F.MET_STATUS_ROOT c
  if same then s
  else logEv pgMET 0x0704 (irq pgMET 3 (s.bump pgMET F.MET_COUNTS2_ROOT_CHANGES)) c

/-- Takes port g as the source (R491). -/
def takeSource (g : Nat) (s : State) : State :=
  let b := beaconOf s g
  let s := (s.wr pgMET F.MET_STATUS_SRC_PORT g).wr pgMET F.MET_STATUS_DEPTH (b.depth + 1)
  recordRoot b.root b.key { s with sync := { s.sync with seq := b.seq, lost := false } }

/-- No source port. -/
def noSource (s : State) : State := (s.wr pgMET F.MET_STATUS_SRC_PORT 31).wr pgMET F.MET_STATUS_DEPTH 15

/-- Starts to acquire from port g (R493). -/
def acquire (g : Nat) (s : State) : State :=
  let s := takeSource g s
  metEnter metACQUIRING { s with sync := { s.sync with first := true, good := 0, freeze := 0 } }

/-- Becomes root (R491). -/
def becomeRoot (s : State) : State :=
  let s := noSource s
  let s := recordRoot s.chipNum (ownKey s) { s with sync := { s.sync with lost := false, freeze := 0 } }
  let s := (s.wr pgMET F.MET_STATUS_DEPTH 0).wr pgMET F.MET_ERR_BOUND_NS 0
  metEnter metROOT s

/-- Enters HOLDOVER (R495). From LOCKED the published bound is the value on entry and 2 ns, to which each started
millisecond adds 1 ns. -/
def holdover (s : State) : State :=
  let lk := s.metState = metLOCKED
  let s := noSource { s with sync := { s.sync with hoLocked := lk, hoTick := s.ticks, freeze := 0 } }
  let s := if lk then s.wr pgMET F.MET_ERR_BOUND_NS (min 0xFFFE (s.rd pgMET F.MET_ERR_BOUND_NS + 2)) else s
  let s := metEnter metHOLDOVER (s.bump pgMET F.MET_COUNTS2_HOLDOVERS)
  logEv pgMET 0x1702 (irq pgMET 1 s)

/-- In LOCKED, ACQUIRING or SETTLING the chip follows a source. -/
def metFollows (s : State) : Bool := s.metState = 1 || s.metState = 2 || s.metState = 5

/-- Chooses again while following a source; without a usable one the chip enters HOLDOVER (R495). -/
def rechoose (s : State) : State :=
  if metFollows s then
    match bestSource s with
    | some h => takeSource h s
    | none => holdover s
  else s

/-- The source port leaves ACTIVE and SLEEP (R495). -/
def metPortLost (g : Nat) (s : State) : State :=
  if s.rd pgMET F.MET_STATUS_SRC_PORT = g then rechoose s else s

/-- The choice that a beacon brings (R491, Table 17.2). -/
def metChoose (s : State) : State :=
  match bestSource s with
  | none => s
  | some h =>
    let k := (beaconOf s h).key
    let st := s.metState
    if st = metROOT then (if ownKey s < k then acquire h s else s)
    else if st = metFREE || st = metHOLDOVER then acquire h s
    else if st = metLOCKED && s.flag pgMET F.MET_CFG_ROOT_EN && decide (k < ownKey s) then becomeRoot s
    else takeSource h s

/-- A 16-bit two's complement field. -/
def signed16 (v : Nat) : Int := if v < 0x8000 then v else (v : Int) - 0x10000

/-- The lock bound of a port in ps: 2 ns + 0.25 ns/dm × RESID_DM (R493, R497). -/
def hopBoundPs (s : State) (g : Nat) : Nat := 2000 + 250 * s.rd pgMET F.MET_ASYM_RESID_DM g

/-- The hop bound rounded up to ns, added to the source's bound (R497). -/
def lockedBound (s : State) (g : Nat) : Nat := satAt 16 ((beaconOf s g).bound + (hopBoundPs s g + 999) / 1000)

/-- The first θ of an acquisition (R493): a forward step, a freeze, or slewing. -/
def firstOffset (th : Int) (s : State) : State :=
  let lim : Int := (s.rd pgMET F.MET_CFG2_SLEW_LIMIT_US * 1000000 : Nat)
  let s := { s with sync := { s.sync with first := false } }
  if lim < -th then
    let s := { s with met := (s.met + ((-th) / 1000).toNat) % 2 ^ 64 }
    logEv pgMET 0x0705 (irq pgMET 4 (s.bump pgMET F.MET_COUNTS_STEPS))
  else if lim < th then
    let s := metEnter metSETTLING { s with sync := { s.sync with freeze := ((th + 999) / 1000).toNat } }
    logEv pgMET 0x0706 (irq pgMET 4 (s.bump pgMET F.MET_COUNTS_FREEZES))
  else metSlew 1000000 s

/-- The offset θ from the source port acts on the Metronome (R493, R497). -/
def applyOffset (g : Nat) (th : Int) (s : State) : State :=
  let s := s.wr pgMET F.MET_OFFSET_PS (th % 2 ^ 32).toNat
  let st := s.metState
  if st = metLOCKED then metSlew 100000 (s.wr pgMET F.MET_ERR_BOUND_NS (lockedBound s g))
  else if st = metSETTLING then
    (if th ≤ 0 then metEnter metACQUIRING { s with sync := { s.sync with freeze := 0 } } else s)
  else if st = metACQUIRING then
    if s.sync.first then firstOffset th s
    else
      let near := decide (th ≤ (hopBoundPs s g : Int)) && decide (-(hopBoundPs s g : Int) ≤ th)
      let n := if near then s.sync.good + 1 else 0
      let s := { s with sync := { s.sync with good := n } }
      if n < 8 then metSlew 1000000 s
      else
        let s := metEnter metLOCKED (s.wr pgMET F.MET_ERR_BOUND_NS (lockedBound s g))
        logEv pgMET 0x0701 (irq pgMET 0 s)
  else s

/-- The BEACON this chip sends on a port (R489, Table 17.1). -/
def beaconPacket (s : State) (g : Nat) : Packet :=
  let b := beaconOf s g
  floodPacket s 6 0x3B 10
    (leBytes 8 s.met ++ leBytes 8 b.tTx ++ leBytes 8 b.rx
      ++ leBytes 8 (s.sync.key % 2 ^ 21 + (s.sync.root.getD 0) * 2 ^ 32) ++ leBytes 4 s.sync.seq
      ++ leBytes 1 (s.rd pgMET F.MET_STATUS_DEPTH + s.metState * 16) ++ leBytes 1 0
      ++ leBytes 2 (s.rd pgMET F.MET_ERR_BOUND_NS))

/-- A port sends a BEACON. -/
def sendBeacon (g : Nat) (s : State) : State := egressPush g { beaconPacket s g with port := g } s

/-- Every BEACON_US each ACTIVE port sends a BEACON; a root advances ROOT_SEQ (R489, R491). -/
def beaconPeriod (s : State) : State :=
  let s := if s.metState = metROOT then { s with sync := { s.sync with seq := (s.sync.seq + 1) % 2 ^ 32 } } else s
  (List.range 24).foldl (fun s g => if portState s g = 3 then sendBeacon g s else s) s

/-- A little-endian field of a payload. -/
def payloadAt (d : List Byte) (off n : Nat) : Nat := leNat ((d.drop off).take n)

/-- Notes a received beacon: its stamps, its root, and whether ROOT_SEQ has advanced (R489, R491). -/
def noteBeacon (g : Nat) (p : Packet) (s : State) : State :=
  let old := beaconOf s g
  let seq := payloadAt p.data 0x20 4
  let root := getBits (payloadAt p.data 0x18 8) 32 13
  let adv := !old.valid || !decide (old.root = root) || (!decide (seq = old.seq) && atOrAfter 32 seq old.seq)
  let b : Beacon :=
    { valid := true, tTx := payloadAt p.data 0 8, rx := s.met, key := payloadAt p.data 0x18 8 % 2 ^ 21, root := root,
      seq := if adv then seq else old.seq, depth := payloadAt p.data 0x24 1 % 16, bound := payloadAt p.data 0x26 2,
      adv := if adv then s.ticks else old.adv, live := adv || old.live }
  { s with sync := { s.sync with recs := fset (fun _ => Beacon.none) s.sync.recs g b } }

/-- A BEACON arrives on port g at the present tick (R490, R491, R493). A beacon that echoes no beacon of this chip yields
no θ. -/
def beaconReceive (g : Nat) (p : Packet) (s : State) : State :=
  if !(p.op = 0x3B && p.data.length = 40 && portUp s g) then s
  else
    let s := metChoose (noteBeacon g p s)
    let t3 := payloadAt p.data 8 8
    let t4 := payloadAt p.data 0x10 8
    if s.rd pgMET F.MET_STATUS_SRC_PORT = g && !(t3 = 0 && t4 = 0) then
      let b := beaconOf s g
      let x : Int := (((b.rx : Int) - b.tTx) - ((t4 : Int) - t3)) * 1000 - signed16 (s.rd pgMET F.MET_ASYM_ASYM_PS g)
      let (up, s) := s.choose
      applyOffset g (x / 2 + b2n (up && !decide (x % 2 = 0))) s
    else s

/-- The root is lost (R492), or none was heard, for ROOT_LOSS periods: a follower enters HOLDOVER and chooses again; in
FREE a chip with ROOT_EN becomes root. -/
def rootLoss (s : State) : State :=
  if metFollows s then
    let s := { s with sync := { s.sync with lost := true, recs := s.sync.recs.map fun x =>
                (x.1, if s.sync.root == some x.2.root then { x.2 with live := false } else x.2) } }
    metChoose (holdover s)
  else if (bestSource s).isSome then s
  else
    let s := { s with sync := { s.sync with lost := true } }
    if s.metState = metFREE && s.flag pgMET F.MET_CFG_ROOT_EN then becomeRoot s else s

/-- HOLDOVER_MAX_MS elapses (R495): FREE, and root at once where no usable root was heard for ROOT_LOSS periods (R491). -/
def holdoverExpire (s : State) : State :=
  if s.metState = metHOLDOVER then
    let s := metEnter metFREE { s with sync := { s.sync with hoLocked := false } }
    let s := logEv pgMET 0x2703 (irq pgMET 2 s)
    if s.sync.lost && (bestSource s).isNone && s.flag pgMET F.MET_CFG_ROOT_EN then becomeRoot s else s
  else s

/-- MET_BEACON_SEND (R489). -/
def execMetBeaconSend (s : State) : Host.Outcome State Fault Refusal := live s beaconPeriod

/-- MET_BEACON_RECEIVE (R490). -/
def execMetBeaconReceive (g : Nat) (p : Packet) (s : State) : Host.Outcome State Fault Refusal := live s (beaconReceive g p)

/-- MET_ROOT_LOSS (R492). -/
def execMetRootLoss (s : State) : Host.Outcome State Fault Refusal := live s rootLoss

/-- MET_HOLDOVER_EXPIRE (R495). -/
def execMetHoldoverExpire (s : State) : Host.Outcome State Fault Refusal := live s holdoverExpire

/-- MET_NOW_READ (R488): NOW_LO shows the low half of the present tick, and NOW_HI captures the high half of the same. -/
def execMetNowRead (req : Nat) (s : State) : Host.Outcome State Fault Refusal :=
  live s fun s =>
    if served s req pgMET && s.avail pgMET then s.wr64 pgMET F.MET_NOW_LO_MET F.MET_NOW_HI_MET s.met else s

/-- A write of MET.CNT_CLR. -/
def metCntClr (v : Nat) (s : State) : State :=
    if bitOf v 0 then s.zeroWords [pgMET + 0x120, pgMET + 0x124] else s

/-- MET_CNT_CLR (R509). -/
def execMetCntClr (req : Nat) (v : Word) (s : State) : Host.Outcome State Fault Refusal :=
  live s (regWrite req (pgMET + 0x130) (metCntClr v.toNat))

end Sys2Proof.Machine
end

