-- ==== Sys2Proof/Machine/Link.lean ====
section
/-! DEFINITION. The ports of the Voano links: lanes, framing, header items, the scheduler, replay, and the moves of a port
that the ladder makes (13 R363-R391, 14 R400-R403). -/
namespace Sys2Proof.Machine
open Sys2Proof

/-! Packets as bytes and flits (12 R344, 13 R371). -/

/-- The 16-byte header of a packet (Table 12.1). -/
def headerBytes (p : Packet) : List Byte :=
  leBytes 16 (p.dst + p.src * 2 ^ 13 + p.slice * 2 ^ 26 + p.tc * 2 ^ 38 + p.op * 2 ^ 41 + p.len * 2 ^ 47
    + p.offset * 2 ^ 50 + p.tag % 2 ^ 16 * 2 ^ 93 + b2n p.ordered * 2 ^ 109 + b2n p.poison * 2 ^ 110
    + b2n p.mark * 2 ^ 111 + b2n p.detour * 2 ^ 112 + p.words * 2 ^ 117 + p.tag / 2 ^ 16 * 2 ^ 124)

/-- A byte string padded with zeros to n bytes. -/
def padTo (n : Nat) (l : List Byte) : List Byte := l ++ List.replicate (n - l.length) 0

/-- A byte string cut into n flits of 64 bytes. -/
def cutFlits : Nat → List Byte → List (List Byte)
  | 0, _ => []
  | n + 1, l => l.take 64 :: cutFlits n (l.drop 64)

/-- The flits of a packet. -/
def flitsOf (p : Packet) : List (List Byte) := cutFlits (pktFlits p) (padTo (64 * pktFlits p) (headerBytes p ++ p.data))

/-- Payload bytes of an operation of so many WORDS (Table 12.2). -/
def payloadLen (op words : Nat) : Nat :=
  if op = 0x01 then 0
  else if op = 0x15 then 8 * words
  else if op = 0x21 || op = 0x23 then 0
  else 4 * words

/-- An opcode of Table 12.2 or of the control packets. -/
def opKnown (op : Nat) : Bool :=
  op = 1 || op = 2 || op = 4 || (decide (0x10 ≤ op) && decide (op ≤ 0x1A)) || (decide (0x20 ≤ op) && decide (op ≤ 0x23)) ||
  op = 0x2F || (decide (0x30 ≤ op) && decide (op ≤ 0x3D))

/-- LEN suits WORDS and the opcode (R346). -/
def lenOk (p : Packet) : Bool :=
  decide (p.len ≤ 4) && p.len == flitsLess1 (payloadLen p.op p.words) && decide (p.words ≤ 64)

/-- The packet that flit bytes spell, as it came in on port g. -/
def packetOf (g : Nat) (bs : List Byte) : Packet :=
  let h := leNat (bs.take 16)
  let op := getBits h 41 6
  let words := getBits h 117 7
  { dst := getBits h 0 13, src := getBits h 13 13, slice := getBits h 26 12, tc := getBits h 38 3, op := op,
    len := getBits h 47 3, offset := getBits h 50 43, tag := getBits h 93 16 + getBits h 124 4 * 2 ^ 16,
    ordered := bitOf h 109, poison := bitOf h 110, mark := bitOf h 111, detour := bitOf h 112, words := words,
    data := (bs.drop 16).take (payloadLen op words), req := mgmt, port := g }

/-! Lanes (R363, R384-R386). -/

/-- Width W of a port of link n: 32 lanes divided by the split in force (Table 13.1). -/
def portWidth (s : State) (g : Nat) : Nat := 32 / 2 ^ s.rd (pgLX (g / 4)) F.LX_CFG_STATUS_SPLIT_NOW

/-- The split in force creates the port. -/
def portExists (s : State) (g : Nat) : Bool := decide (g % 4 < 2 ^ s.rd (pgLX (g / 4)) F.LX_CFG_STATUS_SPLIT_NOW)

/-- The link lanes of a port. -/
def portLanes (s : State) (g : Nat) : List Nat := (List.range (portWidth s g)).map (· + g % 4 * portWidth s g)

/-- The port that a link lane belongs to. -/
def portOfLane (s : State) (n k : Nat) : Nat := 4 * n + k / portWidth s (4 * n)

/-- The bits of a mask that are set, of the given lanes. -/
def lanesIn (m : Nat) (ls : List Nat) : List Nat := ls.filter (bitOf m)

/-- A mask of lanes. -/
def maskOf (ls : List Nat) : Nat := ls.foldl (fun m k => m ||| 2 ^ k) 0

/-- Lanes in use in a direction of a port. -/
def txLanes (s : State) (g : Nat) : List Nat := lanesIn (s.rd (pgLX (g / 4)) F.LX_TX_MAP_LANES 0 (g % 4)) (portLanes s g)
def rxLanes (s : State) (g : Nat) : List Nat := lanesIn (s.rd (pgLX (g / 4)) F.LX_RX_MAP_LANES 0 (g % 4)) (portLanes s g)

/-- Puts lanes in use: the maps, the counts, DEGRADED and the lanes' own bits (Table 13.7). -/
def setLanes (g : Nat) (tx rx : List Nat) (s : State) : State :=
  let pg := pgLX (g / 4)
  let j := g % 4
  let ls := portLanes s g
  let s := (s.wr pg F.LX_TX_MAP_LANES (maskOf tx) 0 j).wr pg F.LX_RX_MAP_LANES (maskOf rx) 0 j
  let s := (s.wr pg F.LX_PSTATUS_TX_LANES tx.length 0 j).wr pg F.LX_PSTATUS_RX_LANES rx.length 0 j
  let s := s.wr pg F.LX_PSTATUS_DEGRADED (b2n (decide (tx.length < ls.length) || decide (rx.length < ls.length))) 0 j
  ls.foldl (fun s k => (s.wr pg F.LX_LANE_TX_USE (b2n (tx.contains k)) k).wr pg F.LX_LANE_RX_USE (b2n (rx.contains k)) k) s

/-- The TX_EQ word that REACH gives (Table 13.8). -/
def eqWord (reach : Nat) : Nat :=
  if reach = 0 then 0 + 0xFC * 2 ^ 8 + 54 * 2 ^ 16 + 0xFB * 2 ^ 24 else 0 + 0xFE * 2 ^ 8 + 58 * 2 ^ 16 + 0xFD * 2 ^ 24

/-- Recomputes TX_EQ of every lane from REACH. -/
def deriveEq (n : Nat) (s : State) : State :=
  (List.range 32).foldl (fun s k => s.setWord (pgLX n + 0x600 + 4 * k) (BitVec.ofNat 32 (eqWord (s.rd (pgLX n) F.LX_CFG_REACH)))) s

/-! Header items and codewords (R370-R375). -/

/-- A header item waits for its codeword. -/
def addItem (g kind arg aux : Nat) (s : State) : State :=
  s.modPort g fun p => { p with items := p.items ++ [(kind, arg, aux)] }

/-- The position of the item to send next: rotating over the kinds after the last one sent, the oldest of its kind
(R372). -/
def nextItem (p : Port) : Option Nat :=
  ((List.range 8).map fun i => (p.lastKind + 1 + i) % 8).findSome? fun k => p.items.findIdx? fun x => x.1 = k

/-- Takes the item to send next; NONE where none waits. -/
def takeItem (g : Nat) (s : State) : (Nat × Nat × Nat) × State :=
  let p := s.port g
  match nextItem p with
  | none => ((0, 0, 0), s)
  | some i =>
    match p.items[i]? with
    | none => ((0, 0, 0), s)
    | some x => (x, s.setPort g { p with items := p.items.eraseIdx i, lastKind := x.1 })

/-- An idle flit: 64 zero bytes. -/
def idleFlit : List Byte := List.replicate 64 0

/-- Sends a codeword with an item. -/
def sendCodeword (g : Nat) (num : Bool) (item : Nat × Nat × Nat) (slots : List (List Byte)) (s : State) : State :=
  { s with outbox := s.outbox ++
      [.codeword g { ok := true, sym := [], num := num, kind := item.1, arg := item.2.1, aux := item.2.2, slots := slots }] }

/-- An unnumbered codeword of idle flits with an item. -/
def sendIdle (g : Nat) (item : Nat × Nat × Nat) (s : State) : State :=
  sendCodeword g false item (List.replicate 10 idleFlit) s

/-- The next ten flit slots go out in a codeword with the item that is due; with a packet flit the codeword is numbered and
kept until an ACK covers it (R370, R374). At 2,047 unacknowledged codewords only an unnumbered one goes out. -/
def sendSlots (g : Nat) (s : State) : State :=
  let (item, s) := takeItem g s
  let p := s.port g
  let out := p.slots.take 10
  let bytes := out.map (·.getD idleFlit)
  if out.any Option.isSome then
    if 2047 ≤ p.unacked.length then sendIdle g item s
    else
      let s := s.setPort g { p with slots := p.slots.drop 10, unacked := p.unacked ++ [(p.txNext, bytes)],
                                    txNext := (p.txNext + 1) % 4096 }
      sendCodeword g true item bytes s
  else sendCodeword g false item bytes (s.setPort g { p with slots := p.slots.drop 10 })

/-- Sends codewords while ten slots are filled and the number window is open; `fuel` bounds the codewords. -/
def sendReady (g : Nat) : Nat → State → State
  | 0, s => s
  | n + 1, s =>
    let p := s.port g
    if p.slots.length < 10 || (decide (2047 ≤ p.unacked.length) && (p.slots.take 10).any Option.isSome) then s
    else sendReady g n (sendSlots g s)

/-- Adds flits to a PERF counter of a link (Table 7.7). -/
def perfAdd (pg k n : Nat) (s : State) : State :=
  (List.range n).foldl (fun s _ =>
    perfBump pg F.LX_PERF_COUNT_LO_COUNT F.LX_PERF_COUNT_HI_COUNT F.LX_PERF_COUNT_HI_WRAP_COUNT F.LX_PERF_WRAP_WRAPPED k 6 s) s

/-- Puts flit slots on the wire. -/
def putSlots (g : Nat) (fs : List (Option (List Byte))) (s : State) : State :=
  let s := s.modPort g fun p => { p with slots := p.slots ++ fs }
  sendReady g ((s.port g).slots.length / 10) s

/-- Replays every unacknowledged codeword from position i on, the first with a REPLAY item; with nothing to replay the
REPLAY is unnumbered and names the next new number (R375). -/
def replayFrom (g i : Nat) (s : State) : State :=
  let p := s.port g
  let s := s.bump (pgLX (g / 4)) F.LX_COUNTS_REPLAYS 1 0 (g % 4)
  match p.unacked.drop i with
  | [] => sendIdle g (4, p.txNext, 0) s
  | (n, b) :: rest =>
    rest.foldl (fun s x =>
      let (item, s) := takeItem g s
      sendCodeword g true item x.2 s) (sendCodeword g true (4, n, 0) b s)

/-! The scheduler (R400-R403, R409). -/

/-- WEIGHT of a class; every weight counts 1 while TSP is not enabled. -/
def weightOf (s : State) (g c : Nat) : Nat :=
  if tspOn s g then max 1 (s.rd (pgTSP (g / 4)) F.TSP_CLASS_WEIGHT c (g % 4)) else 1

/-- The shaper of a class acts. -/
def shaped (s : State) (g c : Nat) : Bool :=
  tspOn s g && decide (c < 6) && s.flag (pgTSP (g / 4)) F.TSP_CLASS_SHAPE_EN c (g % 4)

/-- Whether R430 restricts a port to TC7: its IDENT carried another non-zero PLAN_ID. -/
def planMismatch (s : State) (g : Nat) : Bool :=
  let a := s.rd (pgLX (g / 4)) F.LX_PARTNER_PLAN_ID 0 (g % 4)
  let b := s.rd pgCHIP F.CHIP_PLAN_ID_ID
  s.flag (pgLX (g / 4)) F.LX_PARTNER_VALID 0 (g % 4) && a ≠ 0 && b ≠ 0 && a ≠ b

/-- The port sends TC6 and TC7 alone: it or its partner sleeps (R388), or R369 or R430 restricts it to TC7, where TC6 carries the
Metronome's flooded packets alone (R369, R489, R500). -/
def controlOnly (s : State) (g : Nat) : Bool :=
  portState s g = 4 || s.flag (pgLX (g / 4)) F.LX_PSTATUS_PARTNER_SLEEP 0 (g % 4)
    || s.flag (pgLX (g / 4)) F.LX_PSTATUS_TC7_ONLY 0 (g % 4) || planMismatch s g

/-- The head of a class queue is whole and its credits suffice (R400). -/
def sendable (s : State) (g c : Nat) : Bool :=
  match classQueue s g c with
  | [] => false
  | p :: _ => (decide (6 ≤ c) || !controlOnly s g) && decide (pktFlits p ≤ (s.port g).creds.getD c 0)

/-- The class is eligible (R400). -/
def eligible (s : State) (g c : Nat) : Bool :=
  sendable s g c && (!shaped s g c || decide (0 ≤ (s.port g).shapers.getD c 0))

/-- The weighted round from a class with an allowance: the class to serve, and the allowance before it sends (R401). -/
def roundFrom (s : State) (g : Nat) : Nat → Nat → Nat → Option (Nat × Nat)
  | 0, _, _ => none
  | n + 1, c, d =>
    if eligible s g c && decide (0 < d) then some (c, d) else roundFrom s g n ((c + 1) % 6) (weightOf s g ((c + 1) % 6))

/-- The class that sends next, with the round's new pointer and allowance. -/
def pickClass (s : State) (g : Nat) : Option (Nat × Nat × Nat) :=
  let p := s.port g
  if eligible s g 7 then some (7, p.rr, p.rrLeft)
  else if eligible s g 6 then some (6, p.rr, p.rrLeft)
  else (roundFrom s g 7 p.rr p.rrLeft).map fun x => (x.1, x.1, x.2 - 1)

/-- Classes held by their shaper alone. -/
def shaperHeld (s : State) (g : Nat) : Bool :=
  (List.range 6).any fun c => sendable s g c && shaped s g c && decide ((s.port g).shapers.getD c 0 < 0)

/-- Sends the head packet of a class: its credits and its shaper credit are spent and its flits follow on the wire. -/
def sendHead (g c : Nat) (s : State) : State :=
  match classQueue s g c with
  | [] => s
  | p :: _ =>
    let dec := shaped s g c
    let s := s.modPort g fun x =>
      { x with creds := x.creds.mapIdx (fun i v => if i = c then v - pktFlits p else v),
               shapers := x.shapers.mapIdx (fun i k => if i = c && dec then k - 16000 else k) }
    let s := dequeue g c s
    let s := perfAdd (pgLX (g / 4)) (2 * (g % 4)) (pktFlits p) s
    putSlots g ((flitsOf p).map some) s

/-- The choice at a packet boundary (R400): a packet, or an idle flit. At 2,047 unacknowledged codewords the port sends an
unnumbered codeword instead (R374). -/
def schedule (g : Nat) (s : State) : State :=
  let s := tspAdvance g s
  if 2047 ≤ (s.port g).unacked.length then
    let (item, s) := takeItem g s
    sendIdle g item s
  else
    let s := sendReady g ((s.port g).slots.length / 10) s
    let s := if shaperHeld s g then
        irq (pgTSP (g / 4)) 3 (s.bump (pgTSP (g / 4)) F.TSP_SHAPE_HELD_COUNT 1 0 (g % 4))
      else s
    match pickClass s g with
    | none => putSlots g [none] s
    | some (c, r, d) => sendHead g c (s.modPort g fun p => { p with rr := r, rrLeft := d })

/-! The states of a port (Table 13.6). -/

/-- PSTATUS.STATE. -/
def setPortState (g st : Nat) (s : State) : State := s.wr (pgLX (g / 4)) F.LX_PSTATUS_STATE st 0 (g % 4)
def setCause (g c : Nat) (s : State) : State := s.wr (pgLX (g / 4)) F.LX_PSTATUS_CAUSE c 0 (g % 4)

/-- What an entry to ACTIVE does to the scheduler, the shapers and the policers of the port (R401, R403, R406). -/
def tspEnter (g : Nat) (s : State) : State :=
  s.modPort g fun p =>
    { p with rr := 0, rrLeft := weightOf s g 0, shapers := [0, 0, 0, 0, 0, 0], shAt := s.ticks,
             tokens := (List.range 8).map fun i => s.rd (pgTSP (g / 4)) F.TSP_POL_RATE_BURST (8 * (g % 4) + i) * 16000 }

/-- A port enters ACTIVE: UP_MET takes the tick. -/
def enterActive (g : Nat) (s : State) : State :=
  let s := tspEnter g (setPortState g 3 s)
  s.wr64 (pgLX (g / 4)) F.LX_UP_MET_LO_MET F.LX_UP_MET_HI_MET s.met 0 (g % 4)

/-- What a port that goes down keeps: packets received whole, what its TSP holds, and what its training needs; the
unacknowledged codewords and everything else in flight is discarded (R382, R414). -/
def portCleared (p : Port) : Port :=
  { Port.fresh with everUp := p.everUp, shapers := p.shapers, tokens := p.tokens, shAt := p.shAt, rxq := p.rxq,
                    delayed := p.delayed, trainMode := p.trainMode, auto := p.auto, pWidth := p.pWidth, pHb := p.pHb }

/-- Whether the page's long operation works on a lane of the port: LANE_TEST, or RETRAIN of the port or its lanes. -/
def lopOnPort (s : State) (g : Nat) : Bool :=
  let pg := pgLX (g / 4)
  s.lopActive pg &&
    (if s.lopOp pg = 2 then portOfLane s (g / 4) (s.lopArg pg 0 % 32) == g
     else if s.lopArg pg 1 % 4 = 3 then !(lanesIn (s.lopArg pg 2) (portLanes s g)).isEmpty
     else s.lopArg pg 0 % 4 == g % 4)

/-- A port leaves ACTIVE or SLEEP for a state, with a cause: its lanes and codewords go, a lane operation on it ends FAILED
(R395), PORT_DOWN interrupts, and the Metronome chooses again if the port was its source (17 R495). -/
def portLeaves (g st cause : Nat) (s : State) : State :=
  let s := setCause g cause (setPortState g st s)
  let s := if lopOnPort s g && (s.lopOp (pgLX (g / 4)) = 2 || s.lopArg (pgLX (g / 4)) 1 % 4 = 3) then
      lopFail (pgLX (g / 4)) resHW_ERROR (s.rd (pgLX (g / 4)) F.LOP_LOP_RESULT_DETAIL) s
    else s
  let s := s.modPort g portCleared
  let s := setLanes g [] [] s
  let s := s.wr (pgLX (g / 4)) F.LX_PSTATUS_PARTNER_SLEEP 0 0 (g % 4)
  metPortLost g (irq (pgLX (g / 4)) 1 s)

/-- A port starts to train in a mode of Table 13.2. -/
def startTraining (g mode : Nat) (auto : Bool) (s : State) : State :=
  let s := s.modPort g fun p => { portCleared p with trainMode := mode, auto := auto }
  setPortState g 1 (setLanes g [] [] s)

/-- Entry to PIANO: every ACTIVE port sends SLEEP with its HB_NS and enters SLEEP (R388). -/
def linksSleep (s : State) : State :=
  (List.range 24).foldl (fun s g =>
    if portState s g = 3 then setPortState g 4 (sendIdle g (6, s.rd pgPWR F.PWR_LINK_SLEEP_HB_NS, 0) (tspAdvance g s)) else s) s

/-- Exit from PIANO: every SLEEP port returns to continuous codewords and sends AWAKE (R389). -/
def linksAwake (s : State) : State :=
  (List.range 24).foldl (fun s g => if portState s g = 4 then sendIdle g (6, 0, 2) (enterActive g s) else s) s

/-- Entry to PIANISSIMO: every port that is up goes to RESTED with cause LADDER (R390). -/
def linksRest (s : State) : State :=
  (List.range 24).foldl (fun s g => if portUp s g then portLeaves g 5 7 s else s) s

/-- Exit from PIANISSIMO or TACET: every RESTED port that is enabled retrains in RELOCK mode (R390). -/
def linksRelock (s : State) : State :=
  (List.range 24).foldl (fun s g =>
    if portState s g = 5 && s.flag (pgLX (g / 4)) F.LX_PCTRL_EN 0 (g % 4) then startTraining g 2 true s else s) s

end Sys2Proof.Machine
end

