-- ==== Sys2Proof/Machine/Power.lean ====
section
/-! DEFINITION. The power ladder, REST, operating points, PVT and PACE (02 R57-R66, 06). -/
namespace Sys2Proof.Machine
open Sys2Proof

/-! Holds and the floor (R177, R178). -/

/-- PWR.STATUS.STATE. -/
def State.ladder (s : State) : Nat := s.rd pgPWR F.PWR_STATUS_STATE

/-- Some TILE page reads ENABLED = 1. -/
def tilesHold (s : State) : Bool :=
  s.regs.any fun x => decide (0x400000 ≤ x.1) && decide (x.1 < 0xE00000) && x.1 % 0x1000 = 0xC && bitOf x.2.toNat 0

/-- A trained port exists: one in state ACTIVE or SLEEP (Table 13.6). -/
def anyTrained (s : State) : Bool := (List.range 24).any fun g => portState s g = 3 || portState s g = 4

/-- Some host queue holds commands not yet completed. -/
def hostHold (s : State) : Bool :=
  (List.range 64).any fun q =>
    s.rd (pgHQ (q / 32)) F.HQ_QSTATUS_CLAIMED 0 (q % 32) ≠ s.rd (pgHQ (q / 32)) F.HQ_QSTATUS_COMPLETED 0 (q % 32)

/-- Whether hold bit n of Table 6.3 is active. -/
def holdActive (s : State) (n : Nat) : Bool :=
  match n with
  | 0 => tilesHold s
  | 1 => s.lopHolds pgCHIP
  | 2 => anyTrained s && !s.flag pgPWR F.PWR_REST_ACKED
  | 3 => decide (s.rd pgPWR F.PWR_SW_HOLD_LEVEL < 4)
  | 26 => s.lopHolds pgFLASH
  | 27 => s.lopHolds pgBOOT
  | 28 => s.lopHolds pgLIC
  | 29 => s.lopHolds pgPART
  | 30 => s.lopHolds pgBLT
  | 31 => hostHold s
  | _ =>
    if n < 8 then decide (s.rd (pgDH (n - 4)) F.DH_STATUS_STATE ≠ 0)
    else if n < 12 then decide (s.rd (pgISP (n - 8)) F.ISP_STATUS_STATE ≠ 0)
    else if n < 20 then s.lopHolds (pgMCU (n - 12))
    else s.lopHolds (pgLX (n - 20))

/-- The level of hold bit n (Table 6.3). -/
def holdLevel (s : State) (n : Nat) : Nat :=
  if n ≤ 1 then 0
  else if n = 2 then (if s.flag pgPWR F.PWR_REST_TRANSIT then 1 else 2)
  else if n = 3 then s.rd pgPWR F.PWR_SW_HOLD_LEVEL
  else 1

/-- PWR.HOLDS as the blocks stand. -/
def holdsNow (s : State) : Nat := (List.range 32).foldl (fun w n => if holdActive s n then w + 2 ^ n else w) 0

/-- FLOOR: the shallowest level of the active holds, TACET when none is active. -/
def floorNow (s : State) : Nat :=
  (List.range 32).foldl (fun f n => if holdActive s n then min f (holdLevel s n) else f) 4

/-- The state R177 calls for; the end of REST and the hold-down of R188 keep the chip from going deeper. -/
def wantedState (s : State) : Nat :=
  let d := min (s.rd pgPWR F.PWR_CTRL_TARGET) (floorNow s)
  if s.pwr.restEnding then min d 1 else d

/-! Entry and exit (R181-R188). -/

/-- The depth that counts for a hold: the rung being entered, or the state (R179). -/
def depth (s : State) : Nat := match s.pwr.entering with | some r => r | none => s.ladder

/-- Entry into a rung begins: WAKE_CAUSE clears, injection stops and the drain starts (Table 6.4). -/
def entryBegin (r : Nat) (s : State) : State :=
  let s := s.wr pgPWR F.PWR_WAKE_CAUSE_CAUSE 0
  let s := s.wr pgPWR F.PWR_STATUS_MOVING 1
  { s with pwr := { s.pwr with entering := some r, draining := true, moveStart := s.met } }

/-- A refusal of an entry, or of a BAD_TARGET (R183). -/
def ladderRefuse (cause : Nat) (s : State) : State :=
  let s := { s with pwr := { s.pwr with entering := none, draining := false } }
  let s := if s.pwr.exiting.isNone then s.wr pgPWR F.PWR_STATUS_MOVING 0 else s
  let s := (s.wr pgPWR F.PWR_STATUS_REFUSAL cause).wr pgPWR F.PWR_STATUS_STALLED 1
  let s := (irq pgPWR 1 s).bump pgPWR F.PWR_COUNTS_REFUSALS
  logEv pgPWR 0x0202 s cause

/-- Writes LAST_MOVE and STATE. -/
def moveDone (src dst : Nat) (ab : Bool) (s : State) : State :=
  let s := (s.wr pgPWR F.PWR_LAST_MOVE_FROM src).wr pgPWR F.PWR_LAST_MOVE_TO dst
  let s := s.wr pgPWR F.PWR_LAST_MOVE_ABORTED (b2n ab)
  let s := s.wr pgPWR F.PWR_LAST_MOVE_TIME (satAt 24 ((s.met + 2 ^ 64 - s.pwr.moveStart) % 2 ^ 64 / 10))
  let s := (s.wr pgPWR F.PWR_STATUS_STATE dst).wr pgPWR F.PWR_STATUS_MOVING 0
  if src = dst then s else irq pgPWR 0 s

/-- The causes of an exit are recorded (R185): each wake event from PIANO or deeper counts once for the exit; bit 9,
TARGET, is recorded only. -/
def recordWake (causes : Nat) (s : State) : State :=
  let s := s.wr pgPWR F.PWR_WAKE_CAUSE_CAUSE (s.rd pgPWR F.PWR_WAKE_CAUSE_CAUSE ||| causes)
  if causes % 512 ≠ 0 && !s.pwr.wakeExit then
    let s := { s with pwr := { s.pwr with wakeExit := true } }
    logEv pgPWR 0x0203 ((irq pgPWR 2 s).bump pgPWR F.PWR_WAKES_COUNT) causes
  else s

/-- An exit begins, from the settled state or by abandoning an entry (R185, Table 6.8): to MEZZO from PIANO or deeper,
to FORTE from MEZZO. -/
def exitBegin (causes : Nat) (s : State) : State :=
  let d := depth s
  let ab := s.pwr.entering.isSome
  let s := { s with pwr := { s.pwr with
    entering := none, draining := false, exiting := some (if 2 ≤ d then 1 else 0), aborted := ab, wakeExit := false,
    exitFrom := d, moveStart := if ab then s.pwr.moveStart else s.met } }
  let s := s.wr pgPWR F.PWR_STATUS_MOVING 1
  if 2 ≤ d then recordWake causes s else s

/-- R177 as it stands after a command: HOLDS and FLOOR follow the blocks; a settled chip begins the entry or the exit
the equality calls for, unless it is stalled or held up; a hold shallower than the rung being entered, or a shallower
TARGET, abandons the entry. -/
def powerEval (s : State) : State :=
  let s := (s.wr pgPWR F.PWR_HOLDS_HOLDS (holdsNow s)).wr pgPWR F.PWR_STATUS_FLOOR (floorNow s)
  if !s.done || s.chip.inReset || s.pwr.exiting.isSome then s
  else
    let d := depth s
    let w := wantedState s
    if w < d then
      exitBegin ((if floorNow s < d then 256 else 0) + (if s.rd pgPWR F.PWR_CTRL_TARGET < d then 512 else 0)) s
    else if s.pwr.entering.isNone && decide (d < w) && !s.flag pgPWR F.PWR_STATUS_STALLED && !s.pwr.heldUp then
      entryBegin (d + 1) s
    else s

/-- A command that may raise or drop a hold: the chip serves it and R177 is evaluated again. -/
def liveP (s : State) (f : State → State) : Host.Outcome State Fault Refusal := live s fun s => powerEval (f s)

/-- The pages a ladder state drops (R176, Table 6.2). -/
def pageKept (s : State) (st : Nat) (k : PageKind) : Bool :=
  if st ≤ 2 then true
  else if st = 3 then decide (k ≠ .tile)
  else
    match k with
    | .chip | .boot | .flash | .lic | .pwr | .pace | .pvt | .met | .snp | .err | .evl | .part | .mgc | .hif | .hq
    | .lx | .tsp | .rte | .fab => true
    | .mcu | .memq => !s.flag pgPWR F.PWR_CTRL_TACET_HBM
    | _ => false

/-- Whether a register word survives the exit from a state: words of kept pages, PAGE_CAPS and PAGE_OWNER (R176). -/
def wordKept (s : State) (st a : Nat) : Bool :=
  match pageOf (if inForce ≤ a then a - inForce else a) with
  | none => true
  | some (k, _) => pageKept s st k || a % 0x1000 = 4 || a % 0x1000 = 0xF00

/-- Every stack enters or leaves self-refresh (R333). -/
def selfRefresh (on : Bool) (s : State) : State :=
  (List.range 8).foldl (fun s n => s.wr (pgMCU n) F.MCU_STATUS_SELF_REFRESH (b2n on)) s

/-- INIT starts by itself on a stack whose contents were lost (R175, R323): every pseudo-channel is out of service until its
training completes. A stack with an operation of its own stays in service (log 44). -/
def hbmInit (n : Nat) (s : State) : State :=
  let pg := pgMCU n
  if s.lopActive pg then s
  else
    let s := ((s.wr pg F.MCU_ONLINE_LO_PC 0).wr pg F.MCU_ONLINE_HI_PC 0).wr pg F.MCU_STATUS_OFFLINE 64
    let s := lopAccept pg 1 s
    { s with lopArgs := fset (fun _ => []) s.lopArgs pg [0, 0, 0, 0] }

/-- What the blocks lose in a state and find at its reset value on the exit (Table 6.2, R175, R176). -/
def exitEffects (src : Nat) (s : State) : State :=
  let s := if 3 ≤ src then { s with regs := s.regs.filter fun x => wordKept s src x.1 } else s
  let s := if 3 ≤ src then linksRelock (s.wr pgPWR F.PWR_STATUS_LINKS_LOCKED 0) else if src = 2 then linksAwake s else s
  let s := if 2 ≤ src then selfRefresh false s else s
  let s := if 3 ≤ src then { s with tiles := [], sram := [], sramErr := [] } else s
  let s := if s.pwr.hbmLost then
      (List.range 8).foldl (fun s n => hbmInit n s) { s with hbm := [], poison := [], hbmErr := [], hbmFree := [], mcus := [] }
    else s
  if src = 4 then { s.wr pgPWR F.PWR_STATUS_TILES_READY 0 with prot := [], heads := [], cams := [], blt := Blt.none } else s

/-- The exit completes: STATE is written, and a woken chip stays where it is until R188 lets it go (Table 6.8). -/
def exitDone (s : State) : State :=
  match s.pwr.exiting with
  | none => s
  | some dst =>
    let st := if s.pwr.aborted then s.ladder else s.pwr.exitFrom
    let s := exitEffects st s
    let s := moveDone s.ladder dst s.pwr.aborted s
    let s := s.wr pgPWR F.PWR_STATUS_STALLED 0
    { s with pwr := { s.pwr with exiting := none, aborted := false, wakeExit := false,
                                 heldUp := s.pwr.wakeExit || s.pwr.heldUp } }

/-- A wake event of Table 6.7 (R185): in PIANO or deeper, or during entry of such a rung, the chip exits; an exit in
progress records it. Bits 0-3 need their enable. -/
def wake (bit : Nat) (s : State) : State :=
  if bit < 8 && !bitOf (s.rd pgPWR F.PWR_WAKE_EN_EN) bit then s
  else if s.pwr.exiting.isSome then (if 2 ≤ s.pwr.exitFrom then recordWake (2 ^ bit) s else s)
  else if 2 ≤ depth s then exitBegin (2 ^ bit) s
  else s

/-- An access that would raise a hold while the chip is in PIANO or deeper waits for the exit to MEZZO and is then
performed (R179); the wait lies inside the command (log 7). -/
def wakeFor (f : State → State) (s : State) : State :=
  if s.pwr.exiting.isSome then f (exitDone s)
  else if 2 ≤ depth s then f (exitDone (exitBegin 256 s))
  else f s

/-- A START that would be accepted raises the page's hold and wakes the chip (R100, R179). -/
def wakeStart (pg : Nat) (stopped : Bool) (f : State → State) (s : State) : State :=
  if !s.lopActive pg && (stopped || s.running pg) && s.avail pg then wakeFor f s else f s

/-- The fabric manager stops: the chip's roles are lost (16 R453, Table 16.4). -/
def fabOff (s : State) : State := { s.setWord (pgFAB + 0x104) 0 with fab := Fab.idle }

/-- The part of an entry that changes what blocks show (Table 6.4). -/
def entryEffects (r : Nat) (s : State) : State :=
  let s := if r = 2 then linksSleep (s.wr pgPACE F.PACE_TB_NOW_STALE 1) else s
  let s := if 2 ≤ r then (List.range 4).foldl (fun s n => s.modCam n fun x => { x with trig := false }) s else s
  let s := if r = 3 then linksRest (s.wr pgPWR F.PWR_STATUS_LINKS_LOCKED 0) else s
  let s := if r = 4 then fabOff (s.wr pgPWR F.PWR_STATUS_TILES_READY 0) else s
  let sr := s.rd pgPWR (match r with | 2 => F.PWR_HBM_SR_PIANO_SR | 3 => F.PWR_HBM_SR_PIANISSIMO_SR | _ => F.PWR_HBM_SR_TACET_SR)
  let s := if 2 ≤ r then selfRefresh (decide (sr ≠ 2)) s else s
  if 2 ≤ r && sr = 2 then { s.wr pgPWR F.PWR_STATUS_HBM_READY 0 with pwr := { s.pwr with hbmLost := true } } else s

/-- The fate of a SUSPENDED operation on entry to a rung (Table 6.6): 0 survives, 1 cancelled, 2 refused. -/
def suspendedFate (r : Nat) (k : PageKind) : Nat :=
  if r ≤ 2 then 0
  else
    match k with
    | .mcu => if r = 4 then 1 else 0
    | .part => 2
    | _ => 1

/-- The pages that have a long operation. -/
def lopPages : List Nat :=
  [pgCHIP, pgBOOT, pgFLASH, pgLIC, pgPART, pgBLT] ++ (List.range 8).map pgMCU ++ (List.range 6).map pgLX

/-- The kind of the page at an offset; CHIP where none lies. -/
def kindOf (pg : Nat) : PageKind := match pageOf pg with | some (k, _) => k | none => .chip

/-- The pages whose SUSPENDED operation meets a fate on entry to a rung. -/
def suspendedPages (s : State) (r fate : Nat) : List Nat :=
  lopPages.filter fun pg => s.lop pg = lopSUSPENDED && suspendedFate r (kindOf pg) = fate

/-- Everything the chip issued has completed at its destination, and nothing stands on the Rink for its memory (R182). -/
def drained (s : State) : Bool :=
  s.rink.isEmpty && (s.outst.all fun t => t.op = 1 || t.quar) && s.mcus.all fun x => x.2.queue.isEmpty

/-- The effect of LADDER_DRAIN_COMPLETE out of reset (R182, R184). -/
def ladderDrainCompleteEffect (s : State) : State :=
  match s.pwr.entering with
  | none => s
  | some r =>
    if !(s.pwr.draining && drained s) then s
    else if !(suspendedPages s r 2).isEmpty then ladderRefuse 2 s
    else
      let s := (suspendedPages s r 1).foldl (fun s pg => lopCancelled pg s) s
      { s with pwr := { s.pwr with draining := false } }

/-- LADDER_DRAIN_COMPLETE (R182, R184): the entry's drain completes, and SUSPENDED operations survive, are cancelled, or
refuse the entry. -/
def execLadderDrainComplete (s : State) : Host.Outcome State Fault Refusal :=
  liveP s ladderDrainCompleteEffect

/-- LADDER_DRAIN_TIMEOUT (R182): the drain has not completed within DRAIN_MS; the entry is refused with cause DRAIN. -/
def execLadderDrainTimeout (s : State) : Host.Outcome State Fault Refusal :=
  liveP s fun s => if s.pwr.entering.isSome && s.pwr.draining then ladderRefuse 1 s else s

/-- HBM_SR_CONFIRM_TIMEOUT (R183): a stack did not confirm self-refresh; the entry is refused with cause HBM. -/
def execHbmSrConfirmTimeout (s : State) : Host.Outcome State Fault Refusal :=
  liveP s fun s =>
    match s.pwr.entering with
    | none => s
    | some r => if 2 ≤ r && !s.pwr.draining then ladderRefuse 4 s else s

/-- The effect of LADDER_ENTRY_COMPLETE out of reset (R181). -/
def ladderEntryCompleteEffect (s : State) : State :=
  match s.pwr.entering with
  | none => s
  | some r =>
    if s.pwr.draining then s
    else
      let src := s.ladder
      let s := entryEffects r s
      let s := { s with pwr := { s.pwr with entering := none } }
      let s := moveDone src r false s
      let s := (s.wr pgPWR F.PWR_STATUS_STALLED 0).bump pgPWR F.PWR_COUNTS_ENTRIES
      logEv pgPWR 0x0201 s src r

/-- LADDER_ENTRY_COMPLETE (R181): the steps of the rung are done; STATE, LAST_MOVE and event 0x0201. -/
def execLadderEntryComplete (s : State) : Host.Outcome State Fault Refusal :=
  liveP s ladderEntryCompleteEffect

/-- WAKE_MET_REACHED (R185): the Metronome reaches WAKE_MET while the MET wake is enabled. -/
def execWakeMetReached (s : State) : Host.Outcome State Fault Refusal :=
  liveP s fun s =>
    if atOrAfter 64 s.met (s.rd64 pgPWR F.PWR_WAKE_MET_LO_MET F.PWR_WAKE_MET_HI_MET) then wake 2 s else s

/-- LADDER_EXIT_COMPLETE (R174): the exit in progress completes. -/
def execLadderExitComplete (s : State) : Host.Outcome State Fault Refusal := liveP s exitDone

/-- REDESCEND_EXPIRE (R188): REDESCEND.US have passed without a further wake event; R177 resumes. -/
def execRedescendExpire (s : State) : Host.Outcome State Fault Refusal :=
  liveP s fun s =>
    if s.rd pgPWR F.PWR_REDESCEND_US = 0 then s else { s with pwr := { s.pwr with heldUp := false } }

/-! Operating points (R57, R192, R193). -/

/-- t_b_max of an operating point in ps (Table 0.6). -/
def tbMax (opp : Nat) : Nat := match opp with | 0 => 1600 | 1 => 1350 | 2 => 1150 | _ => 1050

/-- Requests the voltage of an operating point. -/
def avsRequest (opp : Nat) (s : State) : State :=
  { s with outbox := s.outbox ++ [.avs (s.rd pgPWR F.PWR_AVS_RAIL) (s.rd pgPWR F.PWR_OPP_MV_MV opp)] }

/-- A write of OPP (R192, R57, R69): nothing when it repeats the point in force or the target of the change. -/
def oppWrite (o : Nat) (s : State) : State :=
  let cur := match s.pwr.oppTarget with | some t => t | none => s.rd pgPWR F.PWR_STATUS_OPP_NOW
  if o = cur then s
  else
    let now := s.rd pgPWR F.PWR_STATUS_OPP_NOW
    let slow := min (match s.pwr.oppTarget with | some _ => s.pwr.oppSlow | none => now) o
    let s := { s with pwr := { s.pwr with oppTarget := some o, oppSlow := slow, naks := 0 } }
    let s := (s.wr pgPACE F.PACE_TB_GUAR_VALUE (tbMax slow)).wr pgPACE F.PACE_TB_GUAR_OPP slow
    let s := s.wr pgPACE F.PACE_TB_GUAR_TRANSITION 1
    avsRequest o (s.wr pgPWR F.PWR_STATUS_OPP_MOVING 1)

/-- The change of operating point ends at a point. -/
def oppEnd (o : Nat) (fail : Bool) (s : State) : State :=
  let s := { s with pwr := { s.pwr with oppTarget := none, naks := 0 } }
  let s := (s.wr pgPACE F.PACE_TB_GUAR_VALUE (tbMax o)).wr pgPACE F.PACE_TB_GUAR_OPP o
  let s := irq pgPACE 2 (s.wr pgPACE F.PACE_TB_GUAR_TRANSITION 0)
  let s := (s.wr pgPWR F.PWR_STATUS_OPP_NOW o).wr pgPWR F.PWR_STATUS_OPP_MOVING 0
  s.wr pgPWR F.PWR_STATUS_OPP_FAIL (b2n fail)

/-- The change fails (R193): the previous voltage is requested, and the slower point stands. -/
def oppFailed (s : State) : State :=
  let s := avsRequest (s.rd pgPWR F.PWR_STATUS_OPP_NOW) s
  logEv pgPWR 0x1206 (irq pgPWR 5 (oppEnd s.pwr.oppSlow true s))

/-- A write of PWR.CTRL (R177, R183, R192): STALLED and REFUSAL clear, the hold-down of R188 ends, TARGET takes 0-4 or
is refused as BAD_TARGET, and OPP and TACET_HBM take effect; a basic write derives TACET_SR (R81). -/
def ctrlWrite (v : Nat) (s : State) : State :=
  let s := { s with pwr := { s.pwr with heldUp := false } }
  let s := (s.wr pgPWR F.PWR_STATUS_STALLED 0).wr pgPWR F.PWR_STATUS_REFUSAL 0
  let s := (s.wr pgPWR F.PWR_CTRL_OPP (v / 8)).wr pgPWR F.PWR_CTRL_TACET_HBM (v / 32)
  let s := s.wr pgPWR F.PWR_HBM_SR_TACET_SR (if bitOf v 5 then 2 else 1)
  let s := s.wr pgPWR F.HDR_PAGE_STATUS_CUSTOM 0
  let s := oppWrite (v / 8 % 4) s
  if v % 8 ≤ 4 then s.wr pgPWR F.PWR_CTRL_TARGET v else ladderRefuse 3 s

/-- PWR_TARGET_WRITE (R177): a write of PWR.CTRL. -/
def execPwrTargetWrite (req : Nat) (v : Word) (s : State) : Host.Outcome State Fault Refusal :=
  liveP s (regWrite req (pgPWR + 0x100) (ctrlWrite v.toNat))

/-- PWR_OPP_WRITE (R192): a write of PWR.CTRL whose OPP differs from the point in force. -/
def execPwrOppWrite (req : Nat) (v : Word) (s : State) : Host.Outcome State Fault Refusal :=
  liveP s (regWrite req (pgPWR + 0x100) (ctrlWrite v.toNat))

/-- OPP_SETTLED (R192): the regulator reports the output settled. -/
def execOppSettled (s : State) : Host.Outcome State Fault Refusal :=
  live s fun s => match s.pwr.oppTarget with | none => s | some o => oppEnd o false s

/-- AVS_NAK (R193): the third successive NAK of a request fails the change; before that it is requested again. -/
def execAvsNak (s : State) : Host.Outcome State Fault Refusal :=
  live s fun s =>
    match s.pwr.oppTarget with
    | none => s
    | some o =>
      if 2 ≤ s.pwr.naks then oppFailed s
      else avsRequest o { s with pwr := { s.pwr with naks := s.pwr.naks + 1 } }

/-- OPP_SETTLE_TIMEOUT (R193): the regulator did not report settled within SETTLE_MS. -/
def execOppSettleTimeout (s : State) : Host.Outcome State Fault Refusal :=
  live s fun s => if s.pwr.oppTarget.isSome then oppFailed s else s

/-- AVS_TELEMETRY_POLL (R199, Table 6.11): the regulator's voltage and current are read; CORE_W in units of 0.1 W, the
rounding being a free choice (log 3). -/
def execAvsTelemetryPoll (mv cur : Nat) (s : State) : Host.Outcome State Fault Refusal :=
  live s fun s =>
    let s := (s.wr pgPVT F.PVT_CORE_MV mv).wr pgPVT F.PVT_CORE_CURRENT cur
    let (up, s) := s.choose
    s.wr pgPVT F.PVT_CORE_W_POWER (satAt 16 (mv * cur / 1000 + b2n (up && !decide (mv * cur % 1000 = 0))))

/-! REST (R189-R191). -/

/-- A REST request (1) or its end (2) is announced: the fabric manager sends it to the conductor (16 R479-R481). -/
def notice (kind : Nat) (s : State) : State := { s with fab := { s.fab with out := s.fab.out ++ [kind] } }

/-- REST_REQUEST (R190): REQ = 1 sets PENDING, clears FAILED and announces REST to the conductor. -/
def restRequest (s : State) : State :=
  if s.flag pgPWR F.PWR_REST_ACKED || s.flag pgPWR F.PWR_REST_PENDING then s.wr pgPWR F.PWR_REST_REQ 1
  else
    let s := ((s.wr pgPWR F.PWR_REST_REQ 1).wr pgPWR F.PWR_REST_FAILED 0).wr pgPWR F.PWR_REST_PENDING 1
    notice 1 { s with pwr := { s.pwr with restWithdrawn := false } }

/-- The REST_NOTE a port sends to its partner (13 R390): BEGIN or END. -/
def restNote (g : Nat) (begin : Bool) (s : State) : State :=
  egressPush g { floodPacket s 7 0x32 1 (leBytes 4 (b2n begin)) with port := g } s

/-- A REST_NOTE on every ACTIVE port. -/
def restNotes (begin : Bool) (s : State) : State :=
  (List.range 24).foldl (fun s g => if portState s g = 3 then restNote g begin s else s) s

/-- The end of REST goes to the partners and the conductor once every planned port is trained (R191). -/
def restAnnounceEnd (s : State) : State :=
  if s.pwr.restEnding && s.flag pgPWR F.PWR_STATUS_LINKS_LOCKED then notice 2 (restNotes false s) else s

/-- A write of REQ = 0 (R191): withdraws a pending request, clears FAILED, or ends an acknowledged REST after a wake to
MEZZO. -/
def restEnd (s : State) : State :=
  let s := s.wr pgPWR F.PWR_REST_REQ 0
  if s.flag pgPWR F.PWR_REST_PENDING then
    notice 2 { s.wr pgPWR F.PWR_REST_PENDING 0 with pwr := { s.pwr with restWithdrawn := true } }
  else if s.flag pgPWR F.PWR_REST_FAILED then s.wr pgPWR F.PWR_REST_FAILED 0
  else if s.flag pgPWR F.PWR_REST_ACKED then restAnnounceEnd { s with pwr := { s.pwr with restEnding := true } }
  else s

/-- A write of PWR.REST. Local firmware writes REQ; TRANSIT is the conductor's, who writes as the management domain. -/
def restWrite (v : Nat) (s : State) : State := if bitOf v 0 then restRequest s else restEnd s

/-- The conductor acknowledges REST; the link partners are told. -/
def restAcked (s : State) : State :=
  if s.flag pgPWR F.PWR_REST_PENDING && !s.pwr.restWithdrawn then
    let s := (s.wr pgPWR F.PWR_REST_ACKED 1).wr pgPWR F.PWR_REST_PENDING 0
    let s := restNotes true s
    logEv pgPWR 0x0204 (irq pgPWR 3 s)
  else s

/-- REST_ACK_RECEIVE (R190): the conductor acknowledges. -/
def execRestAckReceive (s : State) : Host.Outcome State Fault Refusal := liveP s restAcked

/-- REST_TIMEOUT (R190): no acknowledgement within REST_MS. -/
def execRestTimeout (s : State) : Host.Outcome State Fault Refusal :=
  liveP s fun s =>
    if s.flag pgPWR F.PWR_REST_PENDING then
      let s := (s.wr pgPWR F.PWR_REST_PENDING 0).wr pgPWR F.PWR_REST_FAILED 1
      logEv pgPWR 0x0205 (irq pgPWR 4 s)
    else s

/-- The conductor confirms the end of REST: ACKED clears. -/
def restEndConfirmed (s : State) : State :=
  if s.pwr.restEnding then { s.wr pgPWR F.PWR_REST_ACKED 0 with pwr := { s.pwr with restEnding := false } } else s

/-- REST_END_CONFIRM (R191): the conductor confirms the end; ACKED clears. -/
def execRestEndConfirm (s : State) : Host.Outcome State Fault Refusal := liveP s restEndConfirmed

/-- The conductor sets or clears TRANSIT. -/
def restTransit (on : Bool) (s : State) : State := s.wr pgPWR F.PWR_REST_TRANSIT (b2n on)

/-- REST_TRANSIT_WRITE (R189): the conductor sets or clears TRANSIT. -/
def execRestTransitWrite (on : Bool) (s : State) : Host.Outcome State Fault Refusal := liveP s (restTransit on)

/-! Sensors (R195-R197). -/

/-- A 16-bit field as a signed number. -/
def s16 (v : Nat) : Int := if v < 0x8000 then v else (v : Int) - 0x10000

/-- A signed number in 16 bits. -/
def u16 (v : Int) : Nat := (v % 65536).toNat

/-- PVT.SENSOR_OK of a sensor. -/
def sensorOk (s : State) (k : Nat) : Bool :=
  if k < 32 then bitOf (s.rd pgPVT F.PVT_SENSOR_OK_OK) k else bitOf (s.rd pgPVT F.PVT_SENSOR_OK_HI_OK) (k - 32)

/-- Marks a sensor failed: its bit clears, and event 0x1222 is logged (R195). -/
def sensorFail (k : Nat) (s : State) : State :=
  let s := if k < 32 then s.wr pgPVT F.PVT_SENSOR_OK_OK (s.rd pgPVT F.PVT_SENSOR_OK_OK - 2 ^ k)
           else s.wr pgPVT F.PVT_SENSOR_OK_HI_OK (s.rd pgPVT F.PVT_SENSOR_OK_HI_OK - 2 ^ (k - 32))
  logEv pgPVT 0x1222 (irq pgPVT 2 s) k

/-- Stores the reading of one sensor and marks it failed outside -40 to 150 °C. -/
def sensorRead (k : Nat) (t : Int) (s : State) : State :=
  let s := s.wr pgPVT F.PVT_TEMP_VALUE (u16 t) k
  if sensorOk s k && (t < -320 || 1200 < t) then sensorFail k s else s

/-- The largest reading among the good sensors, and the sensor that gives it. -/
def hottest (s : State) (ts : List Int) : Option (Int × Nat) :=
  (List.range 48).foldl (fun m k =>
    if sensorOk s k then
      let t := ts.getD k 0
      match m with
      | none => some (t, k)
      | some (x, _) => if x < t then some (t, k) else m
    else m) none

/-- The warning of R197 on TJ.MAX. -/
def tjWarn (t : Int) (k : Nat) (s : State) : State :=
  let th := s16 (s.rd pgPVT F.PVT_WARN_THRESH)
  let s := if t < th - 8 * (s.rd pgPVT F.PVT_WARN_HYST : Int) then { s with pwr := { s.pwr with warnOff := false } } else s
  if th < t && !s.pwr.warnOff then
    logEv pgPVT 0x0220 (irq pgPVT 0 { s with pwr := { s.pwr with warnOff := true } }) k
  else s

/-- The warning of R197 on a stack's temperature. -/
def hbmWarn (n : Nat) (t : Int) (s : State) : State :=
  let th := s16 (s.rd pgPVT F.PVT_HBM_WARN_THRESH)
  let s := s.wr pgPVT F.PVT_HBM_TEMP_VALUE (u16 t) n
  let s := if t < th - 8 * (s.rd pgPVT F.PVT_WARN_HYST : Int) then
      { s with pwr := { s.pwr with hbmWarnOff := s.pwr.hbmWarnOff.filter (· ≠ n) } } else s
  if th < t && !s.pwr.hbmWarnOff.contains n then
    logEv pgPVT 0x0221 (irq pgPVT 1 { s with pwr := { s.pwr with hbmWarnOff := s.pwr.hbmWarnOff ++ [n] } }) n
  else s

/-- The trip (R196): THERMTRIP_N is asserted and every block stops as on entry into reset. -/
def thermalTrip (s : State) : State := { resetBody s with pwr := { State.reset.pwr with tripped := true } }

/-- The effect of THERMAL_SAMPLE out of reset (R195-R197). -/
def thermalSampleEffect (ts hbm : List Int) (s : State) : State :=
  let s := (List.range 48).foldl (fun s k => sensorRead k (ts.getD k 0) s) s
  let bad := (List.range 48).filter fun k => !sensorOk s k
  let hot := (List.range 48).any fun k => sensorOk s k && 880 ≤ ts.getD k 0
  if hot || 4 < bad.length then thermalTrip s
  else
    let before := s16 (s.rd pgPVT F.PVT_TJ_MAX)
    let s := (List.range 8).foldl (fun s n => hbmWarn n (hbm.getD n 0) s) s
    match hottest s ts with
    | none => s
    | some (t, k) =>
      let s := (s.wr pgPVT F.PVT_TJ_MAX (u16 t)).wr pgPVT F.PVT_TJ_SENSOR k
      let s := if s16 (s.rd pgPVT F.PVT_MAX_SEEN_VALUE) < t then
          (s.wr pgPVT F.PVT_MAX_SEEN_VALUE (u16 t)).wr pgPVT F.PVT_MAX_SEEN_SENSOR k else s
      let s := tjWarn t k s
      let th := s16 (s.rd pgPVT F.PVT_WARN_THRESH)
      if th < t && before ≤ th then wake 3 s else s

/-- THERMAL_SAMPLE (R195-R197): every sensor and stack is sampled. -/
def execThermalSample (ts hbm : List Int) (s : State) : Host.Outcome State Fault Refusal :=
  liveP s (thermalSampleEffect ts hbm)

/-- CLEAR_SEEN of PVT_CTRL resets MAX_SEEN (Table 6.11). -/
def pvtCtrlWrite (v : Nat) (s : State) : State := if bitOf v 0 then s.setWord (pgPVT + 0x120) 0 else s

/-- PVT_CLEAR_SEEN (R201): a write of PVT_CTRL. -/
def execPvtClearSeen (req : Nat) (v : Word) (s : State) : Host.Outcome State Fault Refusal :=
  live s (regWrite req (pgPVT + 0x11C) (pvtCtrlWrite v.toNat))

/-! The pace (R59-R66). -/

/-- Folds one cluster's beat time into the largest and its lowest index. -/
def slowest (tb : List Nat) : Nat × Nat :=
  (List.range 160).foldl (fun m c => if m.1 < tb.getD c 0 then (tb.getD c 0, c) else m) (0, 0)

/-- The effect of PACE_WINDOW_END out of reset (R59, R60). -/
def paceWindowEndEffect (tb : List Nat) (s : State) : State :=
  if 2 ≤ s.ladder || !s.flag pgPACE F.HDR_PAGE_CTRL_ENABLE then s
  else
    let s := (List.range 160).foldl (fun s c => s.wr pgPACE F.PACE_CLUSTER_TB_VALUE (tb.getD c 0) c) s
    let m := slowest tb
    let s := (s.wr pgPACE F.PACE_TB_NOW_VALUE m.1).wr pgPACE F.PACE_TB_NOW_STALE 0
    let s := s.wr pgPACE F.PACE_SLOWEST_CLUSTER m.2
    let s := if s.rd pgPACE F.PACE_TB_MAX_SEEN_VALUE < m.1 then
        (s.wr pgPACE F.PACE_TB_MAX_SEEN_VALUE m.1).wr pgPACE F.PACE_TB_MAX_SEEN_CLUSTER m.2 else s
    let s := if m.1 < s.rd pgPACE F.PACE_TB_MIN_SEEN_VALUE then s.wr pgPACE F.PACE_TB_MIN_SEEN_VALUE m.1 else s
    let th := s.rd pgPACE F.PACE_TB_WARN_THRESH
    let s := if th < m.1 && th ≠ 0xFFFF then irq pgPACE 0 s else s
    if s.rd pgPACE F.PACE_TB_GUAR_VALUE < m.1 then
      let s := (irq pgPACE 1 s).bump pgPACE F.PACE_OVER_COUNT_COUNT
      if s.pwr.overEpisode then s
      else logEv pgPACE 0x0210 { s with pwr := { s.pwr with overEpisode := true } } (s.rd pgPVT F.PVT_TJ_MAX)
    else { s with pwr := { s.pwr with overEpisode := false } }

/-- PACE_WINDOW_END (R59, R60): a window ends with each cluster's measured beat time in ps, rounded up. The monitors are
stopped in PIANO and deeper (R65). -/
def execPaceWindowEnd (tb : List Nat) (s : State) : Host.Outcome State Fault Refusal :=
  live s (paceWindowEndEffect tb)

/-- A write of PACE_CTRL: WINDOW, and CLEAR_SEEN resets the records. -/
def paceCtrlWrite (v : Nat) (s : State) : State :=
  let s := s.wr pgPACE F.PACE_PACE_CTRL_WINDOW (v / 2)
  if bitOf v 0 then
    let s := (s.setWord (pgPACE + 0x108) 0).wr pgPACE F.PACE_TB_MIN_SEEN_VALUE 0xFFFF
    s.wr pgPACE F.PACE_OVER_COUNT_COUNT 0
  else s

/-- PACE_CLEAR_SEEN (R63): a write of PACE_CTRL. -/
def execPaceClearSeen (req : Nat) (v : Word) (s : State) : Host.Outcome State Fault Refusal :=
  live s (regWrite req (pgPACE + 0x114) (paceCtrlWrite v.toNat))

end Sys2Proof.Machine
end

