-- ==== Sys2Proof/Machine/Stream.lean ====
section
/-! DEFINITION. The host streams (22 R656-R658). -/
namespace Sys2Proof.Machine
open Sys2Proof

/-- A stream beside the HIF page. -/
def State.stream (s : State) (k : Nat) : HostStream := fget (fun _ => HostStream.fresh) s.streams k

/-- The state with a stream changed. -/
def State.modStream (s : State) (k : Nat) (f : HostStream → HostStream) : State :=
  { s with streams := fset (fun _ => HostStream.fresh) s.streams k (f (s.stream k)) }

/-- A field of the block of a stream. -/
def stRd (s : State) (k : Nat) (f : Fld) : Nat := s.rd pgHIF f 0 k
def stWr (k : Nat) (f : Fld) (v : Nat) (s : State) : State := s.wr pgHIF f v 0 k

/-- A stream runs: EN, the link is up, and the MGC is not off (R659, R662). -/
def streamOn (s : State) (k : Nat) : Bool :=
  decide (stRd s k F.HIF_ST_CTRL_EN = 1) && s.flag pgHIF F.HIF_LINK_STATUS_DL_ACTIVE && decide (s.ladder < 4)

/-- The open page of a stream closes, and takes the next SEQ (R657). -/
def streamClose (k : Nat) (s : State) : State :=
  let lost := stRd s k F.HIF_ST_COUNTS_LOST
  s.modStream k fun x =>
    if x.pages.any fun p => p.seq.isNone then
      { x with pages := x.pages.map (fun p => if p.seq.isNone then { p with seq := some x.seq, lost := lost } else p),
               seq := (x.seq + 1) % 2 ^ 32 }
    else x

/-- The 4 KiB of a closed page: header (Table 22.7) and records; what lies past USED is free. -/
def pageBytes (k : Nat) (p : StreamPage) (s : State) : List Byte × State :=
  let used := 32 + p.data.length
  let h := leBytes 4 0x4D414552 ++ leBytes 4 k ++ leBytes 4 (p.seq.getD 0) ++ leBytes 4 used ++ leBytes 4 p.records
    ++ leBytes 4 p.lost ++ leBytes 8 p.met
  let f := freeBytes (4096 - used) s
  (h ++ p.data ++ f.1, f.2)

/-- Bytes go to host memory at a function's bus address. -/
def hostWrite (fn addr : Nat) (bs : List Byte) (s : State) : State := { s with outbox := s.outbox ++ [Output.hostWrite fn addr bs] }

/-- The ring has room for a page: (TAIL + 1) mod N ≠ HEAD. -/
def ringRoom (s : State) (k : Nat) : Bool :=
  decide ((stRd s k F.HIF_ST_TAIL_TAIL + 1) % stRd s k F.HIF_ST_RING_N ≠ stRd s k F.HIF_ST_RING_HEAD)

/-- A page is discarded (R658). -/
def streamDiscard (k : Nat) (s : State) : State :=
  let s := s.modStream k fun x => { x with pages := x.pages.drop 1 }
  let s := irq pgHIF 3 (s.bump pgHIF F.HIF_ST_COUNTS_DROPPED 1 0 k)
  if s.host.dropLogged then s else logEv pgHIF 0x1B05 { s with host := { s.host with dropLogged := true } }

/-- The oldest closed page of a stream is written to the ring, or meets POLICY (R657, R658); `ok` says whether the host
write succeeds. -/
def streamPublish (k : Nat) (ok : Bool) (s : State) : State :=
  match (s.stream k).pages with
  | [] => s
  | p :: _ =>
    if p.seq.isNone || !streamOn s k then s
    else if ringRoom s k then
      let b := pageBytes k p s
      let addr := stRd s k F.HIF_ST_BASE_LO_BASE * 4096 + stRd s k F.HIF_ST_BASE_HI_BASE * 2 ^ 32
      let s := hostWrite 0 (addr + stRd s k F.HIF_ST_TAIL_TAIL * 4096) b.1 b.2
      if !ok then irq pgHIF 4 (stWr k F.HIF_ST_CTRL_EN 0 s)
      else
        let t := (stRd s k F.HIF_ST_TAIL_TAIL + 1) % stRd s k F.HIF_ST_RING_N
        let ta := stRd s k F.HIF_ST_TADDR_LO_ADDR * 8 + stRd s k F.HIF_ST_TADDR_HI_ADDR * 2 ^ 32
        let s := if ta = 0 then s else hostWrite 0 ta (leBytes 4 t ++ leBytes 4 (p.seq.getD 0)) s
        let s := stWr k F.HIF_ST_TAIL_TAIL t (s.modStream k fun x => { x with pages := x.pages.drop 1 })
        if stRd s k F.HIF_ST_CTRL_IRQ_EN = 1 then msixRaise 0 (stRd s k F.HIF_ST_CTRL_VECTOR) s else s
    else if stRd s k F.HIF_ST_CTRL_POLICY = 1 then streamDiscard k s
    else s

/-- Whether a stream can take a record now: its open page has room, or a buffer is free. -/
def streamRoom (s : State) (k n : Nat) : Bool :=
  (s.stream k).pages.any (fun p => p.seq.isNone && decide (32 + p.data.length + n ≤ 4096)) ||
  decide ((s.stream k).pages.length < 2)

/-- A record goes into the open page of a stream, or closes it and opens another; with no buffer left the oldest closed page
is published or discarded first (R657). Whether the record was taken. -/
def streamAdd (k typ : Nat) (payload : List Byte) (s : State) : Bool × State :=
  if !streamOn s k then (false, s)
  else
    let r := leBytes 2 (4 + payload.length) ++ leBytes 2 typ ++ payload
    let fits := (s.stream k).pages.any fun p => p.seq.isNone && decide (32 + p.data.length + r.length ≤ 4096)
    let s := if fits then s else streamClose k s
    let s := if fits || streamRoom s k r.length then s else streamPublish k true s
    if !fits && decide (2 ≤ (s.stream k).pages.length) then (false, s)
    else
      let met := s.met
      (true, s.modStream k fun x =>
        if x.pages.any fun p => p.seq.isNone then
          { x with pages := x.pages.map fun p => if p.seq.isNone then { p with data := p.data ++ r, records := p.records + 1 } else p }
        else { x with pages := x.pages ++ [{ data := r, records := 1, met := met, seq := none, lost := 0 }] })

/-- The 28 bytes of an event entry (Table 24.3). -/
def entryBytes (e : LogEntry) : List Byte :=
  leBytes 4 (e.ev.code + e.ev.page * 2 ^ 16 + b2n e.ev.injected * 2 ^ 28) ++ leBytes 4 e.seq ++ leBytes 8 e.ev.met
    ++ leBytes 4 e.ev.d0 ++ leBytes 4 e.ev.d1 ++ leBytes 4 e.ev.d2

/-- The EVENT stream mirrors what log 0 has taken, in SEQ order (R656, R658, R692). -/
def eventMirror : Nat → State → State
  | 0, s => s
  | fuel + 1, s =>
    match (s.stream 0).backlog with
    | [] => s
    | e :: r =>
      let a := streamAdd 0 0x0002 (entryBytes e) s
      if a.1 then eventMirror fuel (a.2.modStream 0 fun x => { x with backlog := r }) else a.2

/-- STREAM_FLUSH_TIMEOUT (R657): FLUSH_MS after its first record a page closes. -/
def execStreamFlushTimeout (k : Nat) (s : State) : Host.Outcome State Fault Refusal :=
  live s fun s => if stRd s k F.HIF_ST_CTRL_FLUSH_MS ≠ 0 && streamOn s k then streamClose k s else s

/-- STREAM_PAGE_PUBLISH (R657, R658): the oldest closed page of a stream goes to the ring or meets POLICY; `ok` says whether
the host write succeeds. -/
def execStreamPagePublish (k : Nat) (ok : Bool) (s : State) : Host.Outcome State Fault Refusal :=
  live s fun s => eventMirror 128 (streamPublish k ok s)

/-- The effect of STREAM_TELEMETRY_SAMPLE out of reset (R656, R658). -/
def streamTelemetrySampleEffect (s : State) : State :=
  if !streamOn s 2 then s
  else
    let w := fun a => leBytes 4 (s.word a).toNat
    let d := w (pgPVT + fldOff F.PVT_TJ_MAX 0 0) ++ w (pgPVT + fldOff F.PVT_CORE_MV 0 0) ++ w (pgPVT + fldOff F.PVT_CORE_W_POWER 0 0)
      ++ w (pgPWR + fldOff F.PWR_STATUS_STATE 0 0) ++ leBytes 4 (holdsNow s) ++ leBytes 8 s.met
    let a := streamAdd 2 0x0001 d s
    if a.1 then a.2 else a.2.bump pgHIF F.HIF_ST_COUNTS_LOST 1 0 2

/-- STREAM_TELEMETRY_SAMPLE (R656, R658): a TELEMETRY record is due; one without room is skipped and counts in LOST. -/
def execStreamTelemetrySample (s : State) : Host.Outcome State Fault Refusal :=
  live s streamTelemetrySampleEffect

/-- STREAM_TRACE_RECORD (R656, R658): the management firmware adds a trace record; without room it waits. -/
def execStreamTraceRecord (typ : Nat) (bs : List Byte) (s : State) : Host.Outcome State Fault Refusal :=
  live s fun s => if decide ((4 + bs.length) % 8 = 0) && decide (bs.length ≤ 4060) then (streamAdd 1 typ bs s).2 else s

/-- A write of ST_CTRL (Table 22.8): EN written 1 zeroes HEAD and TAIL and starts the stream. -/
def stCtrlWrite (k v : Nat) (s : State) : State :=
  let v := if getBits v 24 8 = 0 then v + 2 ^ 24 else v
  let s := s.setWord (pgHIF + 0x148 + 0x20 * k) (BitVec.ofNat 32 (v % 2 ^ 11 + getBits v 16 16 * 2 ^ 16))
  if bitOf v 0 then
    let s := stWr k F.HIF_ST_TAIL_TAIL 0 (stWr k F.HIF_ST_RING_HEAD 0 s)
    s.modStream k fun x => { x with pages := [], backlog := [] }
  else s

/-- STREAM_ENABLE (R665): a write of ST_CTRL. -/
def execStreamEnable (req k : Nat) (v : Word) (s : State) : Host.Outcome State Fault Refusal :=
  live s (regWrite req (pgHIF + 0x148 + 0x20 * k) (stCtrlWrite k v.toNat))

/-- A write of ST_RING: HEAD, and N only while EN = 0, held within 2-4,095 (Table 22.8). -/
def stRingWrite (k v : Nat) (s : State) : State :=
  let s := stWr k F.HIF_ST_RING_HEAD (v / 2 ^ 16) s
  if stRd s k F.HIF_ST_CTRL_EN = 0 then stWr k F.HIF_ST_RING_N (max 2 (v % 4096)) s else s

/-- STREAM_HEAD_WRITE (R657): a write of ST_RING. -/
def execStreamHeadWrite (req k : Nat) (v : Word) (s : State) : Host.Outcome State Fault Refusal :=
  live s (regWrite req (pgHIF + 0x14C + 0x20 * k) (stRingWrite k v.toNat))

end Sys2Proof.Machine
end

