-- ==== Sys2Proof/Machine/PageOps.lean ====
section
/-! DEFINITION. The common header and the ownership area of a page (R77-R93), the logs (R693-R697) and the ERR page
(R700-R702). -/
namespace Sys2Proof.Machine
open Sys2Proof

/-- A write of IRQ_ENABLE (R83): the page's vector is raised when IRQ_PENDING goes from 0 to non-zero (R653). -/
def irqEnableWrite (pg : Nat) (v : Word) (s : State) : State :=
  let before := irqPending s pg
  let s := s.setWord (pg + 0x14) v
  if before = 0 && !decide (irqPending s pg = 0) then pageVector pg s else s

/-- A write of IRQ_PENDING: each 1 clears the bit of IRQ_RAW (R83). -/
def irqPendingWrite (pg : Nat) (v : Word) (s : State) : State := s.setWord (pg + 0x10) (s.word (pg + 0x10) &&& ~~~v)

/-- SNP.HELD_PAGES counts the pages of the window that read HELD = 1 (17 R505). -/
def heldSync (s : State) : State :=
  s.wr pgSNP F.SNP_HELD_PAGES_COUNT
    (s.regs.filter fun x => decide (x.1 < 0x1000000) && x.1 % 0x1000 = 0x20 && bitOf x.2.toNat 2).length

/-- A write of SNAP_CTRL: ENABLE and HOLD_MODE are stored, and RELEASE clears HELD (Table 3.3). -/
def snapCtrlWrite (pg v : Nat) (s : State) : State :=
  let s := (s.wr pg F.HDR_SNAP_CTRL_ENABLE v).wr pg F.HDR_SNAP_CTRL_HOLD_MODE (v / 2)
  if bitOf v 3 then heldSync (s.wr pg F.HDR_SNAP_CTRL_HELD 0) else s

/-- A write of PAGE_OWNER by the management domain (R91, R93): OWNER unless fixed, SHARED_READ unless fixed, and LOCK
clears. -/
def ownerWrite (pg v : Nat) (s : State) : State :=
  let k := kindOf pg
  let s := if ownerFixed k then s else s.wr pg F.OWN_PAGE_OWNER_OWNER v
  let s := if sharedFixed k then s else s.wr pg F.OWN_PAGE_OWNER_SHARED_READ (v / 2 ^ 8)
  s.wr pg F.OWN_PAGE_LOCK_LOCK 0

/-- A write of PAGE_LOCK: 1 sets LOCK, 0 is ignored. -/
def lockWrite (pg v : Nat) (s : State) : State := if bitOf v 0 then s.wr pg F.OWN_PAGE_LOCK_LOCK 1 else s

/-- A write of PAGE_FAULT_CLR: 1 zeroes PAGE_FAULT and FAULT_MET. -/
def faultClrWrite (pg v : Nat) (s : State) : State :=
  if bitOf v 0 then s.zeroWords [pg + 0xF08, pg + 0xF10, pg + 0xF14] else s

/-- IRQ_PENDING_CLEAR (R83): a write of IRQ_PENDING. -/
def execIrqPendingClear (req pg : Nat) (v : Word) (s : State) : Host.Outcome State Fault Refusal :=
  live s (regWrite req (pg + 0x18) (irqPendingWrite pg v))

/-- IRQ_FORCE (R77): each 1 sets the bit of IRQ_RAW. -/
def execIrqForce (req pg : Nat) (v : Word) (s : State) : Host.Outcome State Fault Refusal :=
  live s (regWrite req (pg + 0x1C) (irqSet pg v))

/-- SNAP_RELEASE (R77): a write of SNAP_CTRL. -/
def execSnapRelease (req pg : Nat) (v : Word) (s : State) : Host.Outcome State Fault Refusal :=
  live s (regWrite req (pg + 0x20) (snapCtrlWrite pg v.toNat))

/-- PAGE_OWNER_WRITE (R93): a write of PAGE_OWNER. -/
def execPageOwnerWrite (req pg : Nat) (v : Word) (s : State) : Host.Outcome State Fault Refusal :=
  live s (regWrite req (pg + 0xF00) (ownerWrite pg v.toNat))

/-- PAGE_LOCK_SET (R93): a write of PAGE_LOCK. -/
def execPageLockSet (req pg : Nat) (v : Word) (s : State) : Host.Outcome State Fault Refusal :=
  live s (regWrite req (pg + 0xF04) (lockWrite pg v.toNat))

/-- PAGE_FAULT_CLEAR (R92): a write of PAGE_FAULT_CLR. -/
def execPageFaultClear (req pg : Nat) (v : Word) (s : State) : Host.Outcome State Fault Refusal :=
  live s (regWrite req (pg + 0xF0C) (faultClrWrite pg v.toNat))

/-- PAGE_STATUS as a read gives it: ENABLED, QUIESCED, CUSTOM and BLOCK as stored, and the bits that other registers
decide (Table 3.3). -/
def pageStatus (s : State) (pg : Nat) : Nat :=
  let w := (s.word (pg + 0xC)).toNat
  let w := putBits w 3 1 (b2n (s.flag pg F.OWN_PAGE_LOCK_LOCK))
  let w := putBits w 4 1 (b2n (!decide (s.rd pg F.OWN_PAGE_FAULT_COUNT = 0)))
  let w := putBits w 5 1 (b2n (s.flag pg F.HDR_SNAP_CTRL_HELD))
  let w := putBits w 6 1 (b2n (hasLop (kindOf pg) && s.lopActive pg))
  putBits w 7 1 (b2n (!decide (irqPending s pg = 0)))

/-! The logs. -/

/-- The write port takes the oldest event of a page (R693). -/
def evAccept (page : Nat) (s : State) : State :=
  match fget (fun _ => []) s.evl.pend page with
  | [] => s
  | e :: r =>
    logWrite e { s with evl := { s.evl with pend := fset (fun _ => []) s.evl.pend page r, lastPage := page } }

/-- The page the write port serves next: the first with an event pending after the one served last, in rotation by page
number (R43, R693). -/
def evNext (s : State) : Option Nat :=
  match s.evl.pend.find? fun x => decide (s.evl.lastPage < x.1) with
  | some x => some x.1
  | none => match s.evl.pend with | [] => none | x :: _ => some x.1

/-- EVL_EVENT_ACCEPT (R693): the write port accepts one pending event. -/
def execEvlEventAccept (s : State) : Host.Outcome State Fault Refusal :=
  live s fun s => match evNext s with | none => s | some p => eventMirror 4 (evAccept p s)

/-- A write of LOG[l].CTL (R695): RELEASE discards the oldest entries, CLEAR empties the log and zeroes LOST. -/
def logCtlWrite (l v : Nat) (s : State) : State :=
  let n := v % 2 ^ 13
  let s := if l = 0 then { s with evl := { s.evl with log0 := s.evl.log0.drop n } }
           else { s with evl := { s.evl with log1 := s.evl.log1.drop n } }
  let s := if bitOf v 16 then
      let s := if l = 0 then { s with evl := { s.evl with log0 := [], lost0 := false, wrapped0 := false } }
               else { s with evl := { s.evl with log1 := [], lost1 := false } }
      s.wr pgEVL F.EVL_LOG_LOST_COUNT 0 0 l
    else s
  syncLog l s

/-- EVL_LOG_RELEASE (R695): a write of LOG[l].CTL with RELEASE. -/
def execEvlLogRelease (req l : Nat) (v : Word) (s : State) : Host.Outcome State Fault Refusal :=
  live s (regWrite req (pgEVL + 0x11C + 0x10 * l) (logCtlWrite l v.toNat))

/-- EVL_LOG_CLEAR (R695): a write of LOG[l].CTL with CLEAR. -/
def execEvlLogClear (req l : Nat) (v : Word) (s : State) : Host.Outcome State Fault Refusal :=
  live s (regWrite req (pgEVL + 0x11C + 0x10 * l) (logCtlWrite l v.toNat))

/-- The seven words of a log entry (Table 24.3). -/
def entryWords (e : LogEntry) : List Nat :=
  [e.ev.code + e.ev.page % 2 ^ 12 * 2 ^ 16 + b2n e.ev.injected * 2 ^ 28, e.seq, e.ev.met % 2 ^ 32, e.ev.met / 2 ^ 32,
   e.ev.d0, e.ev.d1, e.ev.d2]

/-- The entry of log l at a ring position, if the position holds one. -/
def entryAt (s : State) (l pos : Nat) : Option LogEntry :=
  let es := if l = 0 then s.evl.log0 else s.evl.log1
  es[(pos + 4096 - s.rd pgEVL F.EVL_LOG_STATUS_FIRST 0 l) % 4096]?

/-- A write of RD_SEL (R696): ENTRY and VALID take the entry at the position. -/
def rdSelWrite (v : Nat) (s : State) : State :=
  match entryAt s (v / 4096 % 2) (v % 4096) with
  | none =>
    (List.range 7).foldl (fun s i => s.wr pgEVL F.EVL_ENTRY_WORD 0 i) (s.wr pgEVL F.EVL_RD_STATUS_VALID 0)
  | some e =>
    (List.range 7).foldl (fun s i => s.wr pgEVL F.EVL_ENTRY_WORD ((entryWords e).getD i 0) i)
      (s.wr pgEVL F.EVL_RD_STATUS_VALID 1)

/-- EVL_READ_SELECT (R696): a write of RD_SEL. -/
def execEvlReadSelect (req : Nat) (v : Word) (s : State) : Host.Outcome State Fault Refusal :=
  live s (regWrite req (pgEVL + 0x134) (rdSelWrite v.toNat))

/-- EVENT_RAISE (R689): a page raises an event, charged to a partition or to none. -/
def execEventRaise (page code : Nat) (d0 d1 d2 : Word) (charge : Nat) (s : State) : Host.Outcome State Fault Refusal :=
  liveP s fun s =>
    if code / 0x1000 ≤ 4 then
      raise { code := code, page := page, injected := false, met := s.met, d0 := d0.toNat, d1 := d1.toNat, d2 := d2.toNat }
        charge s
    else s

/-- A write of ERR.INJECT (R702): the event is counted, logged, presented to the downbeat source and interrupts; it
fences nothing and resets nothing, and a code of no class does nothing. -/
def injectWrite (v : Nat) (s : State) : State :=
  if 5 ≤ v % 0x10000 / 0x1000 then s
  else raiseBase { mkEvent s pgERR (v % 0x10000) (v / 0x10000) 0 0 with injected := true } s

/-- ERR_INJECT (R702): a write of ERR.INJECT. -/
def execErrInject (req : Nat) (v : Word) (s : State) : Host.Outcome State Fault Refusal :=
  live s (regWrite req (pgERR + 0x140) (injectWrite v.toNat))

/-- A write of ERR.CNT_CLR: zeroes the counters and the records of the page (Table 24.5). -/
def errCntClr (v : Nat) (s : State) : State :=
  if bitOf v 0 then s.zeroWords ((List.range 16).map fun k => pgERR + 0x100 + 4 * k) else s

/-- ERR_CNT_CLR (R700): a write of ERR.CNT_CLR. -/
def execErrCntClr (req : Nat) (v : Word) (s : State) : Host.Outcome State Fault Refusal :=
  live s (regWrite req (pgERR + 0x144) (errCntClr v.toNat))

end Sys2Proof.Machine
end

