-- ==== Sys2Proof/Machine/Mem.lean ====
section
/-! DEFINITION. Byte memories: HBM with its poison markers (R312-R320), and the two flash devices (R144, R145). -/
namespace Sys2Proof.Machine
open Sys2Proof

/-- One step of CRC-32 over a bit. -/
def crcBit (c : BitVec 32) : BitVec 32 := if c.getLsbD 0 then (c >>> 1) ^^^ 0xEDB88320#32 else c >>> 1

/-- CRC-32 over a byte. -/
def crcByte (c : BitVec 32) (b : Byte) : BitVec 32 :=
  crcBit (crcBit (crcBit (crcBit (crcBit (crcBit (crcBit (crcBit (c ^^^ b.setWidth 32))))))))

/-- CRC-32 as IEEE 802.3 defines it, with a given initial value and final XOR (R575). -/
def crc32With (init xorout : BitVec 32) (bs : List Byte) : BitVec 32 := bs.foldl crcByte init ^^^ xorout

/-- CRC-32 with the usual initial value and final XOR. -/
def crc32 (bs : List Byte) : Nat := (crc32With 0xFFFFFFFF#32 0xFFFFFFFF#32 bs).toNat

/-- The SHA-384 of a byte string, as 48 bytes. -/
def sha (bs : List Byte) : List Byte := (List.range 48).map fun i => (Sys2Proof.Config.sha384 bs).getD i 0

/-! Memory as a sparse map of bytes. -/

/-- Reads n bytes from an address on. -/
def mread (d : Nat → Byte) (m : Fmap Byte) (a : Nat) : Nat → List Byte
  | 0 => []
  | n + 1 => fget d m a :: mread d m (a + 1) n

/-- Writes bytes from an address on. -/
def mwrite (d : Nat → Byte) (m : Fmap Byte) (a : Nat) : List Byte → Fmap Byte
  | [] => m
  | b :: r => mwrite d (fset d m a b) (a + 1) r

/-- Removes every listed byte of a range. -/
def mclear {α : Type} (m : Fmap α) (a n : Nat) : Fmap α := m.filter fun x => !(decide (a ≤ x.1) && decide (x.1 < a + n))

/-- What an unlisted HBM byte reads as: 0 (log 2), or a free value in a block whose contents are unspecified (R315). -/
def hbmBlank (f : Fmap Nat) (a : Nat) : Byte :=
  match fget (fun _ => 0) f (a / 2 ^ 33) with
  | 0 => 0
  | k + 1 => BitVec.ofNat 8 (Sys2Proof.Config.freeNat (k + a % 2 ^ 33))

/-- An unlisted code word carries no poison. -/
def noPoison (_ : Nat) : Bool := false

/-- The size of HBM: 512 GiB (R25). -/
def hbmSize : Nat := 0x8000000000

/-- Reads n bytes of HBM. -/
def State.hbmRead (s : State) (a n : Nat) : List Byte := mread (hbmBlank s.hbmFree) s.hbm a n

/-- A code word that the bytes touch carries a poison marker. -/
def State.hbmPoisoned (s : State) (a n : Nat) : Bool :=
  (List.range ((a + n + 31) / 32 - a / 32)).any fun k => fget noPoison s.poison (a / 32 + k)

/-- Clears the marker of every code word that a write covers whole (R320). -/
def clearCovered (m : Fmap Bool) (a n : Nat) : Fmap Bool :=
  m.filter fun x => !(decide (a ≤ 32 * x.1) && decide (32 * x.1 + 32 ≤ a + n))

/-- Writes bytes of HBM; whole code words lose their poison (R320). -/
def State.hbmWrite (s : State) (a : Nat) (bs : List Byte) : State :=
  { s with hbm := mwrite (hbmBlank s.hbmFree) s.hbm a bs, poison := clearCovered s.poison a bs.length }

/-- Zeroes a range of HBM and clears its poison. -/
def State.hbmZero (s : State) (a n : Nat) : State :=
  if s.hbmFree.isEmpty then { s with hbm := mclear s.hbm a n, poison := clearCovered s.poison a n }
  else s.hbmWrite a (List.replicate n 0)

/-- What an unlisted flash byte reads as: erased. -/
def flashBlank (_ : Nat) : Byte := 0xFF

/-- The key of an address of a flash device. -/
def flashKey (dev a : Nat) : Nat := dev * 0x4000000 + a

/-- Whether a device answers. -/
def devOk (s : State) (dev : Nat) : Bool := match s.devs[dev]? with | none => false | some d => d.present

/-- Reads n bytes of a flash device. -/
def State.flashRead (s : State) (dev a n : Nat) : List Byte := mread flashBlank s.flash (flashKey dev a) n

/-- Erases a range of a device: every byte reads 0xFF. -/
def State.flashErase (s : State) (dev a n : Nat) : State := { s with flash := mclear s.flash (flashKey dev a) n }

/-- Programs bytes of a device: programming only clears bits, as NOR flash does (log 9). -/
def State.flashProgram (s : State) (dev a : Nat) (bs : List Byte) : State :=
  let old := s.flashRead dev a bs.length
  { s with flash := mwrite flashBlank s.flash (flashKey dev a) (List.zipWith (· &&& ·) old bs) }

/-- A little-endian number inside a byte string. -/
def fieldOf (bs : List Byte) (off n : Nat) : Nat := leNat ((bs.drop off).take n)

/-- The bytes of a list from an offset on. -/
def slice (bs : List Byte) (off n : Nat) : List Byte := (bs.drop off).take n

/-- The words of a page from an offset on, as bytes. -/
def State.wordBytes (s : State) (a n : Nat) : List Byte :=
  ((List.range n).map fun k => leBytes 4 (s.word (a + 4 * k)).toNat).flatten

end Sys2Proof.Machine
end

