-- ==== Sys2Proof/Machine/Bundle.lean ====
section
/-! DEFINITION. Firmware bundles and seals (R153-R155), boot records (R156-R158), licences (R163-R167) and the cabling
plan (R422-R428). -/
namespace Sys2Proof.Machine
open Sys2Proof

/-! Bundles. -/

/-- Address and size of a slot's bundle area and of its seal (Table 5.1). -/
def slotBase : Nat := 0x100000
def slotSize : Nat := 1007 * 65536
def sealBase : Nat := 0x3FF0000

/-- The 4 KiB header of the bundle in a slot (Table 5.2). -/
def header (s : State) (slot : Nat) : List Byte := s.flashRead slot slotBase 4096

/-- The seal of a slot: MAGIC, digest and CRC. -/
def sealBytes (s : State) (slot : Nat) : List Byte := s.flashRead slot sealBase 56

/-- Every byte is erased. -/
def erased (bs : List Byte) : Bool := bs.all (· == 0xFF)

/-- The seal is valid: its MAGIC and CRC are right (R155). -/
def sealValid (s : State) (slot : Nat) : Bool :=
  let z := sealBytes s slot
  fieldOf z 0 4 = 0x4C414553 && fieldOf z 52 4 = crc32 (z.take 52)

/-- The seal is valid and matches the header now in the slot. -/
def sealMatches (s : State) (slot : Nat) : Bool :=
  sealValid s slot && slice (sealBytes s slot) 4 48 == sha (header s slot)

/-- SLOT_STATE of a slot (R155): 0 BLANK, 1 INCOMPLETE, 2 SEALED, 3 UNREADABLE. -/
def slotState (s : State) (slot : Nat) : Nat :=
  if !devOk s slot then 3
  else if sealMatches s slot then 2
  else if erased (sealBytes s slot) && erased (header s slot) then 0
  else 1

/-- One entry of the section table. -/
structure Section where
  typ : Nat
  flags : Nat
  off : Nat
  len : Nat
  crc : Nat
  digest : List Byte
  deriving DecidableEq, Repr

/-- The sections a header names. -/
def sections (h : List Byte) : List Section :=
  (List.range (min (fieldOf h 0x1C 4) 16)).map fun i =>
    let e := slice h (0x100 + 64 * i) 64
    { typ := fieldOf e 0 2, flags := fieldOf e 2 2, off := fieldOf e 4 4, len := fieldOf e 8 4, crc := fieldOf e 12 4,
      digest := slice e 16 48 }

/-- The fused hash in a key slot equals the SHA-384 of a public key. -/
def keyKnown (keys : List (Option (List Byte))) (k : Nat) (pub : List Byte) : Bool :=
  match keys[k]? with
  | some (some h) => h == sha pub
  | _ => false

/-- BOOT.SVN.FUSED, from the fuses (R169). -/
def svnFused (s : State) : Nat := s.fuses.svn

/-- The first section whose bytes do not match its digest. -/
def badDigest (s : State) (slot : Nat) (h : List Byte) : Option Nat :=
  (List.range (sections h).length).find? fun i =>
    match (sections h)[i]? with
    | none => false
    | some x => !(sha (s.flashRead slot (slotBase + x.off) x.len) == x.digest)

/-- The verdict of R155 on the checks of R154, in that order; [15:8] is the section index of a DIGEST verdict. -/
def bundleVerdict (s : State) (slot : Nat) : Nat :=
  let h := header s slot
  let len := fieldOf h 0x10 4
  let n := fieldOf h 0x1C 4
  if !(fieldOf h 0 4 = 0x314E5950 && fieldOf h 4 4 = 1 && decide (1 ≤ n) && decide (n ≤ 16)) then 1
  else if !(fieldOf h 0x14 4 = 0x504E0004 && fieldOf h 0x18 1 = 0xA1) then 4
  else if !keyKnown s.fuses.fwKeys (fieldOf h 0x20 1) (slice h 0x40 96) then 2
  else if !Sys2Proof.Config.ecdsaValid (slice h 0x40 96) (slice h 0 0xA0 ++ slice h 0x100 0xF00) (slice h 0xA0 96) then 3
  else if fieldOf h 0xC 4 < svnFused s then 5
  else if slotSize < len || (sections h).any (fun x => decide (len < x.off + x.len)) then 6
  else if !((sections h).any (fun x => x.typ = 1) && (sections h).any (fun x => x.typ = 2)) then 1
  else if (sections h).any (fun x => !(decide (1 ≤ x.typ) && decide (x.typ ≤ 4)) && bitOf x.flags 0) then 7
  else match badDigest s slot h with | some i => 8 + i * 256 | none => 0

/-- A slot verifies for the ROM: R154 and a valid seal that matches (R158). -/
def slotBoots (s : State) (slot : Nat) : Bool := devOk s slot && sealMatches s slot && bundleVerdict s slot = 0

/-- The sequencer image of a slot's bundle, and the CRC-32 its entry gives. -/
def seqImage (s : State) (slot : Nat) : List Byte × Nat :=
  match (sections (header s slot)).find? fun x => x.typ = 2 with
  | none => ([], 0)
  | some x => (s.flashRead slot (slotBase + x.off) x.len, x.crc)

/-! Boot records. -/

/-- The 60 bytes of a record that its CRC covers. -/
def recBody (r : BootRec) : List Byte :=
  leBytes 4 0x31425250 ++ leBytes 4 r.seq ++ leBytes 1 r.active ++ leBytes 1 r.st ++ leBytes 1 r.trials ++
    leBytes 1 r.previous ++ leBytes 4 r.activeVersion ++ leBytes 4 r.previousVersion ++ leBytes 40 0

/-- A record copy on flash (Table 5.3), if it is valid (R157). -/
def recCopy (s : State) (n : Nat) : Option BootRec :=
  let b := s.flashRead n 0 64
  if devOk s n && fieldOf b 0 4 = 0x31425250 && fieldOf b 60 4 = crc32 (b.take 60) then
    some { seq := fieldOf b 4 4, active := fieldOf b 8 1, st := fieldOf b 9 1, trials := fieldOf b 10 1,
           previous := fieldOf b 11 1, activeVersion := fieldOf b 12 4, previousVersion := fieldOf b 16 4 }
  else none

/-- Copy a is newer than copy b (R157). -/
def recNewer (a b : BootRec) : Bool := a.seq ≠ b.seq && atOrAfter 32 a.seq b.seq

/-- The number of the ruling copy (R157). -/
def rulingCopy (s : State) : Option Nat :=
  match recCopy s 0, recCopy s 1 with
  | none, none => none
  | some _, none => some 0
  | none, some _ => some 1
  | some a, some b => if recNewer b a then some 1 else some 0

/-- The ruling record. -/
def ruling (s : State) : Option BootRec := match rulingCopy s with | none => none | some n => recCopy s n

/-- Erases and programs one copy of a record. -/
def putCopy (n : Nat) (r : BootRec) (s : State) : State :=
  if devOk s n then (s.flashErase n 0 0x10000).flashProgram n 0 (recBody r ++ leBytes 4 (crc32 (recBody r))) else s

/-- The copy that R157 writes first: the one that is invalid or older; copy 1 when both hold the same SEQ. -/
def firstCopy (s : State) : Nat :=
  match recCopy s 0, recCopy s 1 with
  | none, _ => 0
  | _, none => 1
  | some a, some b => if recNewer b a then 0 else 1

/-- SEQ of a new record: one more than that of the newer valid copy. -/
def nextSeq (s : State) : Nat := match ruling s with | none => 1 | some r => (r.seq + 1) % 2 ^ 32

/-- Writes both copies of a new record. -/
def putRecord (r : BootRec) (s : State) : State :=
  let r := { r with seq := nextSeq s }
  let f := firstCopy s
  putCopy (1 - f) r (putCopy f r s)

/-- VERSION of the bundle in a slot. -/
def slotVersion (s : State) (slot : Nat) : Nat := fieldOf (header s slot) 8 4

/-- The BOOT page's view of the records and slots (Table 5.7). -/
def syncBoot (s : State) : State :=
  let s := s.wr pgBOOT F.BOOT_RECORD_COPY0_OK (b2n (recCopy s 0).isSome)
  let s := s.wr pgBOOT F.BOOT_RECORD_COPY1_OK (b2n (recCopy s 1).isSome)
  let s := match ruling s with
    | none => ((s.wr pgBOOT F.BOOT_RECORD_STATE 0).wr pgBOOT F.BOOT_RECORD_TRIALS 0).wr pgBOOT F.BOOT_RECORD_SEQ_SEQ 0
    | some r =>
      let s := (s.wr pgBOOT F.BOOT_RECORD_ACTIVE_SLOT r.active).wr pgBOOT F.BOOT_RECORD_STATE r.st
      (s.wr pgBOOT F.BOOT_RECORD_TRIALS r.trials).wr pgBOOT F.BOOT_RECORD_SEQ_SEQ r.seq
  let a := slotState s 0
  let b := slotState s 1
  let s := (s.wr pgBOOT F.BOOT_SLOT_STATE_A a).wr pgBOOT F.BOOT_SLOT_STATE_B b
  let s := s.wr pgBOOT F.BOOT_VERSION_A_VERSION (if a = 2 then slotVersion s 0 else 0)
  let s := s.wr pgBOOT F.BOOT_VERSION_B_VERSION (if b = 2 then slotVersion s 1 else 0)
  let s := s.wr pgBOOT F.BOOT_SVN_SVN_A (if a = 2 then fieldOf (header s 0) 0xC 4 else 0)
  let s := s.wr pgBOOT F.BOOT_SVN_SVN_B (if b = 2 then fieldOf (header s 1) 0xC 4 else 0)
  s.wr pgBOOT F.BOOT_SVN_FUSED s.fuses.svn

/-- How the image was chosen. -/
inductive ImageChoice where
  /-- Run the slot. -/
  | run (slot : Nat)
  /-- Run the previous slot after a failed trial. -/
  | reverted (slot : Nat)
  /-- Run the slot the record does not name. -/
  | fallback (slot : Nat)
  /-- Halt with code 0x81. -/
  | noImage
  deriving DecidableEq, Repr

/-- A confirmed record that names a slot. -/
def confirmedRec (s : State) (slot : Nat) : BootRec :=
  { seq := 0, active := slot, st := 1, trials := 0, previous := 1 - slot, activeVersion := slotVersion s slot,
    previousVersion := slotVersion s (1 - slot) }

/-- Repairs the other copy from the ruling record when it is invalid or older (R158, event 0x1113). -/
def repairCopy (r : BootRec) (s : State) : State :=
  match rulingCopy s with
  | none => s
  | some n =>
    if recCopy s (1 - n) = some r || !devOk s (1 - n) then s else logEv pgBOOT 0x1113 (putCopy (1 - n) r s) (1 - n)

/-- The ROM's choice of the image (R158), with the record writes it makes. -/
def chooseImage (s : State) : ImageChoice × State :=
  match ruling s with
  | none =>
    if slotBoots s 0 then (.run 0, putRecord (confirmedRec s 0) s)
    else if slotBoots s 1 then (.run 1, putRecord (confirmedRec s 1) s)
    else (.noImage, s)
  | some r =>
    let s := repairCopy r s
    if r.st = 2 then
      if r.trials = 0 || !slotBoots s r.active then
        if slotBoots s r.previous then (.reverted r.previous, putRecord (confirmedRec s r.previous) s) else (.noImage, s)
      else
        let s := putRecord { r with trials := r.trials - 1 } s
        (.run r.active, logEv pgBOOT 0x2110 s (r.trials - 1))
    else if slotBoots s r.active then (.run r.active, s)
    else if slotBoots s (1 - r.active) then (.fallback (1 - r.active), s)
    else (.noImage, s)

/-! Licences. -/

/-- FEATURES of a variant (R164). -/
def variantFeatures (v : Nat) : Nat := match v with | 0 => 0 | 1 => 0x0B | 2 => 0x1C | _ => 0x1F

/-- The checks of R165 on 512 bytes, as INSTALL's verdict reports them: 1 BAD_FORMAT, 2 KEY_UNKNOWN, 3 SIGNATURE,
4 WRONG_CHIP, 6 VARIANT_MISMATCH, 0 none. -/
def licVerdict (s : State) (b : List Byte) : Nat :=
  if !(fieldOf b 0 4 = 0x43494C50 && fieldOf b 4 4 = 1) then 1
  else if !keyKnown s.fuses.licKeys (fieldOf b 0x1C 4 % 4) (slice b 0x20 96) then 2
  else if !Sys2Proof.Config.ecdsaValid (slice b 0x20 96) (slice b 0 0x80 ++ slice b 0xE0 0x120) (slice b 0x80 96) then 3
  else if fieldOf b 0xC 8 ≠ s.fuses.serial then 4
  else if fieldOf b 0x18 4 % 32 ≠ variantFeatures (fieldOf b 0x14 4 % 4) then 6
  else 0

/-- Address of the licence copies (Table 5.1). -/
def licBase : Nat := 0x10000

/-- A licence copy on flash. -/
def licCopy (s : State) (n : Nat) : List Byte := s.flashRead n licBase 512

/-- LIC.COPY_STATE of a copy: 0 BLANK, 1 VALID, 2 INVALID, 3 OTHER_CHIP. -/
def licState (s : State) (n : Nat) : Nat :=
  if !devOk s n then 2
  else if erased (licCopy s n) then 0
  else match licVerdict s (licCopy s n) with | 0 => 1 | 4 => 3 | _ => 2

/-- LSN of a licence copy. -/
def licLsn (s : State) (n : Nat) : Nat := fieldOf (licCopy s n) 8 4

/-- The valid copy with the larger LSN; copy 0 on equal LSN (R165). -/
def bestLic (s : State) : Option Nat :=
  if licState s 0 = 1 then (if licState s 1 = 1 && decide (licLsn s 0 < licLsn s 1) then some 1 else some 0)
  else if licState s 1 = 1 then some 1 else none

/-- STORED and COPY_STATE follow the copies on flash, and PENDING the difference from ACTIVE (Table 5.7). -/
def syncLic (s : State) : State :=
  let s := (s.wr pgLIC F.LIC_COPY_STATE_COPY0 (licState s 0)).wr pgLIC F.LIC_COPY_STATE_COPY1 (licState s 1)
  let s := match bestLic s with
    | none => (s.setWord (pgLIC + 0x108) 0).wr pgLIC F.LIC_STORED_LSN_LSN 0
    | some n =>
      let b := licCopy s n
      let s := (s.wr pgLIC F.LIC_STORED_FEATURES (fieldOf b 0x18 4)).wr pgLIC F.LIC_STORED_VARIANT (fieldOf b 0x14 4)
      (s.wr pgLIC F.LIC_STORED_VALID 1).wr pgLIC F.LIC_STORED_LSN_LSN (licLsn s n)
  s.wr pgLIC F.LIC_PENDING_REBOOT_NEEDED
    (b2n (s.word (pgLIC + 0x100) ≠ s.word (pgLIC + 0x108) || s.word (pgLIC + 0x104) ≠ s.word (pgLIC + 0x10C)))

/-- Puts the best stored licence into force (R165, R7). -/
def enforceLic (s : State) : State :=
  let s := (List.range 2).foldl (fun s n => if licState s n = 2 || licState s n = 3 then logEv pgLIC 0x1121 s n else s) s
  let s := syncLic s
  let s := (s.setWord (pgLIC + 0x100) (s.word (pgLIC + 0x108))).setWord (pgLIC + 0x104) (s.word (pgLIC + 0x10C))
  let s := s.wr pgLIC F.LIC_PENDING_REBOOT_NEEDED 0
  match bestLic s with | none => logEv pgLIC 0x0122 s | some _ => s

/-- A feature bit of the licence in force (Table 5.6): 0 DISPLAY, 1 CAMERA, 2 SCALE, 3 PART32, 4 FP64_FULL. -/
def feature (s : State) (n : Nat) : Bool := bitOf (s.rd pgLIC F.LIC_ACTIVE_FEATURES) n

/-! The cabling plan. -/

/-- The words of a byte string. -/
def wordsOf : Nat → List Byte → List Nat
  | 0, _ => []
  | n + 1, b => fieldOf b 0 4 :: wordsOf n (b.drop 4)

/-- Pairs of neighbouring words. -/
def pairs : List Nat → List (Nat × Nat)
  | a :: b :: r => (a, b) :: pairs r
  | _ => []

/-- Address of the plan copies (Table 5.1). -/
def planBase : Nat := 0x20000

/-- The bytes of a plan copy as far as its LENGTH, at most 131,072. -/
def planBytes (s : State) (n : Nat) : List Byte :=
  s.flashRead n planBase (min (leNat (s.flashRead n (planBase + 0x10) 4)) 131072)

/-- The plan that bytes spell. -/
def planOf (b : List Byte) : Plan :=
  { id := fieldOf b 8 4, seq := fieldOf b 0xC 4, groups := wordsOf 256 (b.drop 256),
    chips := wordsOf (fieldOf b 0x14 4) (b.drop 1280),
    excs := pairs (wordsOf (2 * fieldOf b 0x18 4) (b.drop (1280 + 4 * fieldOf b 0x14 4))) }

/-- Fields of a chip table entry and of an exception (R425, R426). -/
def ctLoc (e : Nat) : Nat := e % 2 ^ 13
def ctNum (e : Nat) : Nat := getBits e 13 13
def exChip (x : Nat × Nat) : Nat := x.1 % 2 ^ 13
def exPort (x : Nat × Nat) : Nat := getBits x.1 13 5
def exKind (x : Nat × Nat) : Nat := getBits x.1 18 2

/-- Whether a group is PRESENT, and its STD_X, STD_Y, STD_Z bits and Z_FIBRE_M (R424). -/
def grp (p : Plan) (g : Nat) : Nat := p.groups.getD g 0

/-- No value appears twice. -/
def distinct (l : List Nat) : Bool := l.eraseDups.length = l.length

/-- Which check of R427 a plan copy fails first: 1 format, 2 key or signature, 3 chip table, 4 a port named twice,
5 an exception not mirrored, 6 a switch port misused, 7 a reserved field; 0 when it verifies. -/
def planCheck (s : State) (n : Nat) : Nat :=
  let b := planBytes s n
  let p := planOf b
  let ex1 := p.excs.filter fun x => exKind x = 1
  let ex2 := p.excs.filter fun x => exKind x = 2
  if !(devOk s n && fieldOf b 0 4 = 0x4E414C50 && fieldOf b 4 4 = 1 && fieldOf b 8 4 ≠ 0
      && fieldOf b 0x10 4 = 1280 + 4 * fieldOf b 0x14 4 + 8 * fieldOf b 0x18 4
      && decide (1 ≤ fieldOf b 0x14 4) && decide (fieldOf b 0x14 4 ≤ 8192) && decide (fieldOf b 0x18 4 ≤ 12000)
      && decide (fieldOf b 0x10 4 ≤ 131072)) then 1
  else if !(keyKnown s.fuses.licKeys (fieldOf b 0x1C 4 % 4) (slice b 0x40 96)
      && Sys2Proof.Config.ecdsaValid (slice b 0x40 96) (slice b 0 0xA0 ++ b.drop 0x100) (slice b 0xA0 96)) then 2
  else if !(distinct (p.chips.map ctLoc) && distinct (p.chips.map ctNum)
      && p.chips.all fun e => bitOf (grp p (ctNum e / 32)) 0) then 3
  else if !distinct (p.excs.map fun x => x.1 % 2 ^ 18) then 4
  else if !(ex1.all fun x => ex1.any fun y =>
      y.1 % 2 ^ 18 = x.2 % 2 ^ 18 && y.2 % 2 ^ 18 = x.1 % 2 ^ 18) then 5
  else if !((ex2.all fun x => decide (16 ≤ exPort x) && decide (exPort x < 24)) && distinct (ex2.map fun x => x.2 % 2 ^ 16)
      && p.excs.all fun x => exKind x ≠ 3) then 6
  else if !((slice b 0x20 32).all (· == 0) && p.groups.all (fun e => getBits e 4 12 = 0)
      && p.chips.all (fun e => e / 2 ^ 26 = 0) && fieldOf b 0x1C 4 / 4 = 0
      && p.excs.all fun x => x.1 / 2 ^ 20 = 0 && (exKind x ≠ 0 || x.2 = 0) && (exKind x ≠ 1 || x.2 / 2 ^ 18 = 0)
        && (exKind x ≠ 2 || x.2 / 2 ^ 16 = 0)) then 7
  else 0

/-- Puts the plan into force (R422): the valid copy with the larger PLAN_SEQ, copy 0 on equality. -/
def choosePlan (s : State) : State :=
  let c0 := planCheck s 0
  let c1 := planCheck s 1
  let s' := if c0 = 0 then s else logEv pgRTE 0x1650 s 0 c0
  let s' := if c1 = 0 then s' else logEv pgRTE 0x1650 s' 1 c1
  let p0 := planOf (planBytes s 0)
  let p1 := planOf (planBytes s 1)
  let best := if c0 = 0 then (if c1 = 0 && decide (p0.seq < p1.seq) then some p1 else some p0)
              else if c1 = 0 then some p1 else none
  match best with
  | none => { s'.wr pgCHIP F.CHIP_PLAN_ID_ID 0 with plan := none }
  | some p => { s'.wr pgCHIP F.CHIP_PLAN_ID_ID p.id with plan := some p }

/-- A chip is listed in the plan's chip table. -/
def listed (p : Plan) (c : Nat) : Bool := p.chips.any fun e => ctNum e = c

/-- The standard X partner of port g of a chip (R415, Table 15.1). -/
def stdX (c g : Nat) : Option (Nat × Nat) :=
  let j := g % 4
  let d := match j with | 2 => 1 | 0 => 2 | 1 => 3 | _ => 0
  if d = 0 then none else some (c - c % 4 + (c % 4 ^^^ d), (1 - g / 4) * 4 + j)

/-- The d of Table 15.2 for a Y port, and back. -/
def yDist (g : Nat) : Nat :=
  match g with | 15 => 1 | 8 => 2 | 9 => 3 | 10 => 4 | 11 => 5 | 12 => 6 | 13 => 7 | _ => 0
def yPort (d : Nat) : Nat :=
  match d with | 1 => 15 | 2 => 8 | 3 => 9 | 4 => 10 | 5 => 11 | 6 => 12 | _ => 13

/-- The standard Y partner of port g of a chip (R416). -/
def stdY (c g : Nat) : Option (Nat × Nat) :=
  let d := yDist g
  if d = 0 then none else some (c - c % 32 + (c / 4 % 8 + d) % 8 * 4 + c % 4, yPort (8 - d))

/-- The partner that the plan names for port g of a chip (R428). -/
def planPartner (s : State) (p : Plan) (c g : Nat) : Option (Nat × Nat) :=
  match p.excs.find? fun x => exChip x = c && exPort x = g && exKind x ≠ 2 with
  | some x => if exKind x = 0 then none else some (x.2 % 2 ^ 13, getBits x.2 13 5)
  | none =>
    if g < 16 then
      let std := if g < 8 then (if bitOf (grp p (c / 32)) 1 then stdX c g else none)
                 else (if bitOf (grp p (c / 32)) 2 then stdY c g else none)
      match std with
      | some (c', g') => if listed p c' then some (c', g') else none
      | none => none
    else if s.flag pgRTE F.RTE_ZPEER_VALID (g - 16) then
      some (s.rd pgRTE F.RTE_ZPEER_CHIP (g - 16), s.rd pgRTE F.RTE_ZPEER_PORT (g - 16))
    else none

/-- The switch and switch port of a Z port of a chip: by its exception, or by R418. -/
def switchOf (p : Plan) (c z : Nat) : Option (Nat × Nat) :=
  match p.excs.find? fun x => exChip x = c && exPort x = 16 + z with
  | some x => if exKind x = 2 then some (x.2 % 256, getBits x.2 8 8) else none
  | none =>
    let u := 8 * (c % 32) + z
    if bitOf (grp p (c / 32)) 3 && u ≠ 0 then some (u, c / 32) else none

/-- The partner the boot loads into ZPEER[z] (R428): the Z port of group g XOR u on the same switch. -/
def bootZpeer (p : Plan) (c z : Nat) : Option (Nat × Nat) :=
  let u := 8 * (c % 32) + z
  match switchOf p c z with
  | none => none
  | some (sw, _) =>
    let h := (c / 32) ^^^ u
    if !bitOf (grp p h) 0 then none
    else
      match (List.range 256).find? fun k =>
        listed p (h * 32 + k / 8) && (match switchOf p (h * 32 + k / 8) (k % 8) with | some (w, _) => w = sw | none => false) with
      | none => none
      | some k => some (h * 32 + k / 8, 16 + k % 8)

/-- The chip number (R130): from the plan by LOC, else LOC itself. -/
def setChipNum (s : State) : State :=
  let loc := s.rd pgCHIP F.CHIP_LOC_VALUE
  let s := s.wr pgCHIP F.CHIP_CHIP_NUM_VALID 1
  match s.plan with
  | none => (s.wr pgCHIP F.CHIP_CHIP_NUM_NUM loc).wr pgCHIP F.CHIP_CHIP_NUM_SOURCE 2
  | some p =>
    match p.chips.find? fun e => ctLoc e = loc with
    | none => (s.wr pgCHIP F.CHIP_CHIP_NUM_NUM loc).wr pgCHIP F.CHIP_CHIP_NUM_SOURCE 2
    | some e => (s.wr pgCHIP F.CHIP_CHIP_NUM_NUM (ctNum e)).wr pgCHIP F.CHIP_CHIP_NUM_SOURCE 1

/-- What the boot writes to the link pages from the plan (R417, R428): SPLIT 2, REACH, FIBRE_M, ZPEER; every
port the plan names starts to train (13 R366). -/
def loadPlanPorts (s : State) : State :=
  match s.plan with
  | none => s
  | some p =>
    let c := s.chipNum
    let s := (List.range 8).foldl (fun s z =>
      match bootZpeer p c z with
      | none => s.wr pgRTE F.RTE_ZPEER_VALID 0 z
      | some (c', g') =>
        ((s.wr pgRTE F.RTE_ZPEER_CHIP c' z).wr pgRTE F.RTE_ZPEER_PORT g' z).wr pgRTE F.RTE_ZPEER_VALID 1 z) s
    let s := (List.range 6).foldl (fun s l =>
      deriveEq l ((s.wr (pgLX l) F.LX_CFG_SPLIT 2).wr (pgLX l) F.LX_CFG_REACH (b2n (4 ≤ l)))) s
    (List.range 24).foldl (fun s g =>
      let m := if 16 ≤ g then grp p (c / 32) / 2 ^ 16 else 0
      let s := s.wr (pgLX (g / 4)) F.LX_PCTRL_FIBRE_M m 0 (g % 4)
      let s := s.wr (pgLX (g / 4)) F.LX_REPLAY_NAK_WAIT_NS (satAt 16 (420 + 10 * m)) 0 (g % 4)
      if (planPartner s p c g).isSome then
        startTraining g (if s.chip.fast then 1 else 0) true (s.wr (pgLX (g / 4)) F.LX_PCTRL_EN 1 0 (g % 4))
      else s) s

/-- The partner the chip expects on port g; none without a plan that lists LOC. -/
def expected (s : State) (g : Nat) : Option (Nat × Nat) :=
  match s.plan with
  | none => none
  | some p => if s.rd pgCHIP F.CHIP_CHIP_NUM_SOURCE = 1 then planPartner s p s.chipNum g else none

/-- The partner last seen on port g by its identity exchange. -/
def seen (s : State) (g : Nat) : Option (Nat × Nat) :=
  if s.flag (pgLX (g / 4)) F.LX_PARTNER_VALID 0 (g % 4) then
    some (s.rd (pgLX (g / 4)) F.LX_PARTNER_CHIP 0 (g % 4), s.rd (pgLX (g / 4)) F.LX_PARTNER_PORT 0 (g % 4))
  else none

/-- The outcome of a port (Table 4.6). -/
def portOutcome (s : State) (g : Nat) : Nat :=
  let short := portState s g = 6 && s.rd (pgLX (g / 4)) F.LX_PSTATUS_CAUSE 0 (g % 4) = 2
  match expected s g, seen s g with
  | none, none => 0
  | none, some _ => 3
  | some _, none => if short then 6 else if s.chip.topoFinal then 2 else 7
  | some e, some x =>
    if e = x then 1
    else if (List.range 24).any fun q => q ≠ g && expected s q == some x && seen s q == some e then 5
    else 4

/-- The chip's outcome (Table 4.7). -/
def chipOutcome (s : State) : Nat :=
  let os := (List.range 24).map (portOutcome s)
  if s.plan.isNone then 4
  else if s.rd pgCHIP F.CHIP_CHIP_NUM_SOURCE ≠ 1 then 5
  else if os.any (fun o => o = 3 || o = 4 || o = 5) then 3
  else if os.any (fun o => o = 2 || o = 6) then 2
  else 1

/-- Writes one port's word of TOPO_PORT, restricts it to TC7 when its outcome is not MATCH and it is not admitted (R133, R369, R478), and logs a new
fault outcome. -/
def topoPort (g : Nat) (s : State) : State :=
  let old := s.rd pgCHIP F.CHIP_TOPO_PORT_OUTCOME g
  let o := portOutcome s g
  let s := s.wr pgCHIP F.CHIP_TOPO_PORT_OUTCOME o g
  let s := s.wr pgCHIP F.CHIP_TOPO_PORT_PLANNED (b2n (expected s g).isSome) g
  let s := match seen s g with
    | none => (s.wr pgCHIP F.CHIP_TOPO_PORT_PARTNER_CHIP 0 g).wr pgCHIP F.CHIP_TOPO_PORT_PARTNER_PORT 0 g
    | some (c, q) => (s.wr pgCHIP F.CHIP_TOPO_PORT_PARTNER_CHIP c g).wr pgCHIP F.CHIP_TOPO_PORT_PARTNER_PORT q g
  let s := s.wr (pgLX (g / 4)) F.LX_PSTATUS_TC7_ONLY (b2n (o ≠ 1 && !bitOf (s.rd pgFAB F.FAB_ADMIT_PORTS) g)) 0 (g % 4)
  if o = old then s
  else
    let w := (s.word (pgCHIP + 0x1C0 + 4 * g)).toNat
    match o with
    | 4 => logEv pgRTE 0x0630 s g w
    | 5 => logEv pgRTE 0x0631 s g w (((List.range 24).find? fun h => expected s h == seen s g).getD 0)
    | 3 => logEv pgRTE 0x0632 s g w
    | _ => s

/-- Runs the check of R131 and R132 over every port. -/
def topoCheck (s : State) : State :=
  let s := (List.range 24).foldl (fun s g => topoPort g s) s
  let os := (List.range 24).map (portOutcome s)
  let s := s.wr pgCHIP F.CHIP_TOPO_STATUS_MATCHED (os.filter (· = 1)).length
  let s := s.wr pgCHIP F.CHIP_TOPO_STATUS_FAULTY (os.filter fun o => decide (2 ≤ o) && decide (o ≤ 6)).length
  if s.chip.topoFinal then s.wr pgCHIP F.CHIP_TOPO_STATUS_OUTCOME (chipOutcome s) else s

end Sys2Proof.Machine
end

