-- ==== Sys2Proof/Machine/Elect.lean ====
section
/-! DEFINITION. Fabric messages as packets, flooding, the roles of a chip and the start of an election (16 R453-R458). -/
namespace Sys2Proof.Machine
open Sys2Proof

/-- FAB.TERM. -/
def State.term (s : State) : Nat := s.rd pgFAB F.FAB_TERM_TERM

/-- This chip is conductor. -/
def State.isConductor (s : State) : Bool := s.flag pgFAB F.FAB_ROLE_CONDUCTOR

/-- The opcode of a body (Table 16.2). -/
def fabOp : FabBody → Nat
  | .candidate => 0x33 | .beat _ _ => 0x34 | .groupBeat => 0x34 | .join _ _ => 0x35 | .event _ => 0x36 | .order _ => 0x37
  | .orderAck _ => 0x38 | .resetReq => 0x39 | .mirror _ => 0x3A

/-- A group-scope message. -/
def fabGroup : FabBody → Bool
  | .groupBeat => true
  | _ => false

/-- The 16-byte header every message begins with (Table 16.3). -/
def fabHeader (term seq key : Nat) (group : Bool) : List Byte :=
  leBytes 4 term ++ leBytes 4 seq ++ leBytes 4 key ++ leBytes 4 (b2n group)

/-- The TC7 packet of a message. The spec lays out its header alone, so the packet carries the header and the body stands in
the outbox under its SEQ. -/
def fabPacket (s : State) (dst op : Nat) (hdr : List Byte) : Packet :=
  { floodPacket s 7 op 4 hdr with dst := dst }

/-- The next SEQ, with the body noted as sent. -/
def fabNote (dst : Nat) (b : FabBody) (s : State) : State :=
  let n := (s.fabSeq + 1) % 2 ^ 32
  { s with fabSeq := n, outbox := s.outbox ++ [.fab n dst b] }

/-- Floods a packet on the ports that are up but the one it came in on; a group-scope message on X and Y ports alone
(R456). -/
def fabForward (group : Bool) (p : Packet) (s : State) : State :=
  (List.range (if group then 16 else 24)).foldl (fun s g =>
    if g ≠ p.port && portUp s g then egressPush g { p with port := g } s else s) s

/-- Originates a flooded message. -/
def fabFlood (b : FabBody) (s : State) : State :=
  let s := fabNote 0x1FFF b s
  fabForward (fabGroup b) (fabPacket s 0x1FFF (fabOp b) (fabHeader s.term s.fabSeq (ownKey s) (fabGroup b))) s

/-! Roles (Table 16.1, Table 16.4). -/

/-- The state with the fabric manager changed. -/
def State.modFab (s : State) (f : Fab → Fab) : State := { s with fab := f s.fab }

/-- The fabric manager runs: from DONE on, while the MGC runs (R453). -/
def fabOn (s : State) : Bool := s.done && !s.halted && s.rd pgPWR F.PWR_STATUS_STATE ≠ 4

/-- A change of the role or conductor registers interrupts (R484): ROLE_CHANGED and CONDUCTOR_CHANGED, against the words of
ROLE and CONDUCTOR before it. -/
def roleIrqs (role cond : Word) (s : State) : State :=
  let s := if s.word (pgFAB + 0x104) = role then s else irq pgFAB 1 s
  if (s.word (pgFAB + 0x108)).toNat % 2 ^ 14 = cond.toNat % 2 ^ 14 then s else irq pgFAB 2 s

/-- Runs a change of roles and raises its interrupts. -/
def withRoles (f : State → State) (s : State) : State :=
  roleIrqs (s.word (pgFAB + 0x104)) (s.word (pgFAB + 0x108)) (f s)

/-- The chip starts an election (R458): ELECTING under its last term plus one, its own key being the best known; an eligible
chip floods a CANDIDATE. No conductor is recorded meanwhile. -/
def startElection (s : State) : State :=
  let el := s.flag pgFAB F.FAB_CFG_ELIGIBLE
  let s := withRoles (fun s =>
    let s := s.wr pgFAB F.FAB_TERM_TERM (s.term + 1)
    let s := ((s.setWord (pgFAB + 0x104) 0x10).setWord (pgFAB + 0x108) 0).setWord (pgFAB + 0x110) 0
    s.modFab fun x =>
      { x with best := if el then ownKey s + 1 else 0, condKey := 0, joined := [], leaders := [], queue := [], run := none,
               record := [], mirror := none, pend := [], fly := [], dgrams := [] }) s
  let s := s.bump pgFAB F.FAB_ELECTIONS_ELECTIONS
  if el then fabFlood .candidate s else s

end Sys2Proof.Machine
end

