-- ==== Sys2Proof/Machine/Chip.lean ====
section
/-! DEFINITION. Reset, boot, the floor plan, the sequencer-image broadcast and TILE_BIST (04), and the MGC page. -/
namespace Sys2Proof.Machine
open Sys2Proof

/-! Pins and reset sources (R104-R110, R733-R744). -/

/-- PWR_OK as the PN4 takes it: low while its own detectors find a supply out of tolerance (R735). -/
def State.powered (s : State) : Bool := s.chip.pwrOk && !s.chip.supplyLow

/-- The fall of PWR_OK: reset at once, and the trip latch, the retention record and every source are gone (R42, R143,
R734). -/
def powerLost (s : State) : State :=
  let s := if s.chip.inReset then s else resetBody s
  { s with chip := { s.chip with sources := [], retention := none }, pwr := { s.pwr with tripped := false } }

/-- The rise of PWR_OK: the power-on source of a cold reset (R104). -/
def powerGood (s : State) : State := { s with chip := { s.chip with inReset := true, sources := [1] } }

/-- PWR_OK_RISE (R104, R743, R744): TEST_EN is sampled, and the LOC pins hold their straps. -/
def execPwrOkRise (testEn : Bool) (loc : Nat) (s : State) : Host.Outcome State Fault Refusal :=
  let s := { s with chip := { s.chip with pwrOk := true, testEn := testEn, loc := loc % 2 ^ 13 } }
  .next (if s.powered then powerGood s else s)

/-- PWR_OK_FALL (R734): reset; the next boot is cold. -/
def execPwrOkFall (s : State) : Host.Outcome State Fault Refusal :=
  .next (powerLost { s with chip := { s.chip with pwrOk := false } })

/-- SUPPLY_TOLERANCE_DETECT (R735): the detectors find VDD_AON or VDDIO_1V8 leaving or regaining tolerance. -/
def execSupplyToleranceDetect (low : Bool) (s : State) : Host.Outcome State Fault Refusal :=
  let t := { s with chip := { s.chip with supplyLow := low } }
  .next (if s.powered && !t.powered then powerLost t else if !s.powered && t.powered then powerGood t else t)

/-- RESET_N_ASSERT (R106): a low pulse of so many µs. Shorter than 1 µs it is ignored, from 10 µs on it resets, and
between the two it may or may not reset (R143: a free choice, log 3). -/
def execResetNAssert (us : Nat) (s : State) : Host.Outcome State Fault Refusal :=
  let held (s : State) : State := enterReset 2 0 { s with chip := { s.chip with resetN := false } }
  if !s.powered || us < 1 then .next s
  else if 10 ≤ us then .next (held s)
  else
    let (hit, s) := s.choose
    .next (if hit then held s else s)

/-- A write of RESET_CMD (R108), by the management domain alone. -/
def resetCmd (req v : Nat) (s : State) : State :=
  if req ≠ mgmt then denyCount req s.chipNum 5 (winBase + 0x130) (pageFault pgCHIP causeNotOwner req true 0x130 s)
  else if v % 0x10000 = 0xC0DE && getBits v 16 2 = 1 then enterReset 4 0 s
  else if v % 0x10000 = 0xC0DE && getBits v 16 2 = 2 then enterReset 3 0 s
  else logEv pgCHIP 0x0002 s v

/-- RESET_CMD_WARM (R108): a write of RESET_CMD. -/
def execResetCmdWarm (req : Nat) (v : Word) (s : State) : Host.Outcome State Fault Refusal :=
  live s (regWrite req (pgCHIP + 0x130) (resetCmd req v.toNat))

/-- RESET_CMD_COLD (R108): a write of RESET_CMD. -/
def execResetCmdCold (req : Nat) (v : Word) (s : State) : Host.Outcome State Fault Refusal :=
  live s (regWrite req (pgCHIP + 0x130) (resetCmd req v.toNat))

/-- MGC.FW_STATUS.WDOG_ARMED follows the watchdog (Table 4.9). -/
def wdogSync (s : State) : State :=
  s.wr pgMGC F.MGC_FW_STATUS_WDOG_ARMED (b2n (s.chip.wdogOn && !decide (s.rd pgCHIP F.CHIP_WDOG_CTRL_PERIOD = 0)))

/-- WATCHDOG_EXPIRE (R116): source 0x7 after DONE, 0x8 before it; a PERIOD of 0 and HALTED stop the watchdog. -/
def execWatchdogExpire (s : State) : Host.Outcome State Fault Refusal :=
  live s fun s =>
    if s.chip.wdogOn && s.rd pgCHIP F.CHIP_WDOG_CTRL_PERIOD ≠ 0 then enterReset (if s.done then 7 else 8) 0 s else s

/-- WDOG_KICK (R116): any write restarts the watchdog, which the model keeps as armed. -/
def execWdogKick (req : Nat) (_v : Word) (s : State) : Host.Outcome State Fault Refusal :=
  live s (regWrite req (pgCHIP + 0x138) wdogSync)

/-! The floor plan (R122-R125). -/

/-- Floor-plan mark of a tile: 0 good, 1 FUSE, 2 BIST, 3 SEQ, 4 RUN. -/
def State.mark (s : State) (t : Nat) : Nat := fget (fun _ => 0) s.chip.fp t

/-- Marks a tile. -/
def setMark (t m : Nat) (s : State) : State := { s with chip := { s.chip with fp := fset (fun _ => 0) s.chip.fp t m } }

/-- The tile is good. -/
def State.good (s : State) (t : Nat) : Bool := decide (t < 2560) && decide (s.mark t = 0)

/-- How many tiles carry a mark. -/
def markCount (s : State) (m : Nat) : Nat := ((List.range 2560).filter fun t => s.mark t = m).length

/-- The cluster of a tile: cr × 16 + cc (02). -/
def clusterOf (t : Nat) : Nat := t / 64 / 4 * 16 + t % 64 / 4

/-- Bad tiles of a cluster. -/
def clusterBad (s : State) (c : Nat) : Nat := ((List.range 2560).filter fun t => clusterOf t = c && s.mark t ≠ 0).length

/-- The most bad tiles in any cluster, and the lowest-indexed cluster with that count. -/
def worstCluster (s : State) : Nat × Nat :=
  (List.range 160).foldl (fun m c => if m.1 < clusterBad s c then (clusterBad s c, c) else m) (0, 0)

/-- The words of TILE_MAP. -/
def mapWord (s : State) (k : Nat) : Nat :=
  (List.range 32).foldl (fun w j => if s.good (32 * k + j) then w + 2 ^ j else w) 0

/-- Publishes the floor plan in the CHIP page: counts, map, tick and CRC (Table 4.8). -/
def publishFp (s : State) : State :=
  let s := (s.wr pgCHIP F.CHIP_FP_TILES_GOOD (markCount s 0)).wr pgCHIP F.CHIP_FP_TILES_BAD_FUSE (markCount s 1)
  let s := (s.wr pgCHIP F.CHIP_FP_BAD_BIST (markCount s 2)).wr pgCHIP F.CHIP_FP_BAD_SEQ (markCount s 3)
  let s := s.wr pgCHIP F.CHIP_FP_RUN_RUN (markCount s 4)
  let w := worstCluster s
  let s := (s.wr pgCHIP F.CHIP_FP_RUN_CLUSTER_MAX w.1).wr pgCHIP F.CHIP_FP_RUN_CLUSTER_IDX w.2
  let s := (List.range 80).foldl (fun s k => s.wr pgCHIP F.CHIP_TILE_MAP_GOOD (mapWord s k) k) s
  let s := s.wr64 pgCHIP F.CHIP_FP_MET_LO_MET F.CHIP_FP_MET_HI_MET s.met
  s.wr pgCHIP F.CHIP_FP_CRC_CRC
    (crc32 (s.wordBytes (pgCHIP + 0x140) 4 ++ s.wordBytes (pgCHIP + 0x160) 14 ++ s.wordBytes (pgCHIP + 0x240) 80))

/-- PAGE_CAPS of an available tile (R227). -/
def tileCaps (s : State) : Nat := 1 + 2 * b2n (feature s 4) + 4

/-- The page of a tile becomes available or not (R76, R138). -/
def tileAvail (t : Nat) (on : Bool) (s : State) : State := setCaps (pgTILE t) (if on then tileCaps s else 0) s

/-- A tile's SRAM reads zero, its stores hold the image, and its engines are as after reset (R127, R138). -/
def tileFresh (t : Nat) (s : State) : State :=
  { s with sram := mclear s.sram (t * 0x40000) 0x40000, sramErr := mclear s.sramErr (t * 0x8000) 0x8000,
           tiles := fdel s.tiles t }

/-- The retention record of this moment (R117). -/
def writeRetention (s : State) : State :=
  let r : Retention := { image := s.bootOps.image, marks := s.chip.fp, seq := s.rd pgCHIP F.CHIP_FP_INFO_SEQ }
  { s with chip := { s.chip with retention := some r } }

/-- After DONE a tile becomes bad (R125). -/
def tileGoesBad (t m : Nat) (s : State) : State :=
  let s := setMark t m s
  let s := publishFp (s.inc pgCHIP F.CHIP_FP_INFO_SEQ)
  let s := tileAvail t false s
  logEv pgCHIP 0x1320 (irq pgCHIP 2 (writeRetention s)) t

/-! The boot (R113-R121). -/

/-- Enters a boot stage (R119). -/
def setStage (n : Nat) (s : State) : State := s.wr pgCHIP F.CHIP_BOOT_STATUS_STAGE n

/-- Sets the done bit of a parallel task. -/
def taskDone (n : Nat) (s : State) : State :=
  s.wr pgCHIP F.CHIP_BOOT_STATUS_TASKS (s.rd pgCHIP F.CHIP_BOOT_STATUS_TASKS ||| 2 ^ n)

/-- The done bits of the given tasks are set. -/
def tasksSet (s : State) (ns : List Nat) : Bool := ns.all fun n => bitOf (s.rd pgCHIP F.CHIP_BOOT_STATUS_TASKS) n

/-- MGC.FW_STATUS.STATE changes (R141). -/
def fwState (n : Nat) (s : State) : State :=
  if s.rd pgMGC F.MGC_FW_STATUS_STATE = n then s else irq pgMGC 0 (s.wr pgMGC F.MGC_FW_STATUS_STATE n)

/-- Milliseconds since the boot reference. -/
def bootMs (s : State) : Nat := s.ticks / 1000000

/-- The boot ends with a code of 0x80 or more (R120, R121). -/
def bootHalt (code : Nat) (s : State) : State :=
  let s := { s with chip := { s.chip with booting := false, wdogOn := false, retention := none } }
  let s := (setStage 0xF s).wr pgCHIP F.CHIP_BOOT_STATUS_CODE code
  let s := s.wr pgCHIP F.CHIP_BOOT_STATUS_HALTED 1
  let s := wdogSync (fwState 3 (s.wr pgCHIP F.CHIP_BOOT_MS_MS (bootMs s)))
  raiseBase (mkEvent s pgCHIP (0x4000 + code) 0 0 0) (irq pgCHIP 1 s)

/-- The boot code of a topology outcome (Table 4.7). -/
def outcomeCode (o : Nat) : Nat := if o ≤ 3 then o else 4

/-- Every planned port is trained (LINKS_LOCKED, Table 6.9). -/
def linksLocked (s : State) : Bool :=
  (List.range 24).all fun g => (expected s g).isNone || portState s g = 3 || portState s g = 4

/-- The boot ends at DONE (R115, R117), and the fabric manager starts with an election (16 R453, R458). -/
def bootDone (s : State) : State :=
  let s := { s with chip := { s.chip with booting := false }, doneTicks := s.ticks }
  let s := (setStage 9 s).wr pgCHIP F.CHIP_BOOT_STATUS_CODE (outcomeCode (chipOutcome s))
  let s := (s.wr pgCHIP F.CHIP_BOOT_STATUS_DONE 1).wr pgCHIP F.CHIP_BOOT_MS_MS (bootMs s)
  let s := s.wr pgPWR F.PWR_STATUS_LINKS_LOCKED (b2n (linksLocked s))
  let s := writeRetention s
  startElection <|
    logEv pgCHIP (0x0010 + s.rd pgCHIP F.CHIP_RESET_CAUSE_SOURCE) (irq pgCHIP 0 s) (s.word (pgCHIP + 0x120)).toNat

/-- The floor plan meets the limits of R123; otherwise the code the boot halts with. -/
def fpLimit (s : State) : Nat :=
  if markCount s 0 < 2432 then 0x84 else if 4 < (worstCluster s).1 then 0x85 else 0

/-- PAGE_CAPS of the TILE pages follow the floor plan (R76, R78). -/
def loadTileCaps (s : State) : State := (List.range 2560).foldl (fun s t => tileAvail t (s.good t) s) s

/-- The sequencer image is sent to every good tile (R127), unless it fails its CRC. -/
def seqBroadcast (s : State) : State :=
  let slot := s.rd pgBOOT F.BOOT_RECORD_RUNNING_SLOT
  let im := seqImage s slot
  if crc32 im.1 ≠ im.2 then bootHalt 0x86 s
  else
    let s := (s.wr pgCHIP F.CHIP_SEQ_VER_VER (slotVersion s slot)).wr pgCHIP F.CHIP_SEQ_CRC_CRC im.2
    (List.range 2560).foldl (fun s t =>
      if s.good t then { s with chip := { s.chip with seqLoad := fset (fun _ => .unsent) s.chip.seqLoad t (.waiting 0) } }
      else s) s

/-- Every good tile has acknowledged the image. -/
def seqAllAcked (s : State) : Bool :=
  (List.range 2560).all fun t => !s.good t || fget (fun _ => SeqLoad.unsent) s.chip.seqLoad t == .acked

/-- Some planned port is still PENDING. -/
def topoPending (s : State) : Bool := (List.range 24).any fun g => portOutcome s g = 7

/-- The readiness check finalises (R134). -/
def topoFinalise (s : State) : State :=
  let s := topoCheck { s with chip := { s.chip with topoFinal := true } }
  bootDone (taskDone 6 s)

/-- The TOPOLOGY stage begins; it ends at once when no planned port is pending. -/
def topoBegin (s : State) : State :=
  let s := topoCheck (setStage 8 s)
  if topoPending s then s else topoFinalise s

/-- The next stage of the boot starts once its predecessors are done (R113, Diagrams 4.1 and 4.2). -/
def bootAdvance (s : State) : State :=
  if !s.chip.booting then s
  else
    let stage := s.rd pgCHIP F.CHIP_BOOT_STATUS_STAGE
    if s.chip.fast then
      if stage = 5 && tasksSet s [0, 1, 2, 4] && seqAllAcked s then topoBegin (taskDone 5 s)
      else if stage = 8 && !topoPending s then topoFinalise s
      else s
    else if stage = 5 && tasksSet s [0, 1, 2, 3, 4] then
      let s := publishFp (setStage 6 s)
      if fpLimit s ≠ 0 then bootHalt (fpLimit s) s
      else seqBroadcast (setStage 7 (loadTileCaps s))
    else if stage = 7 && seqAllAcked s then topoBegin (taskDone 5 s)
    else if stage = 8 && !topoPending s then topoFinalise s
    else s

/-- The pages that answer at HALTED (R121). -/
def haltPages : List Nat := [pgCHIP, pgBOOT, pgFLASH, pgLIC, pgERR, pgEVL]

/-- PAGE_CAPS of every page but TILE from the licence in force (R166, Table 5.6, R434, R668). -/
def loadCaps (s : State) : State :=
  let disp := b2n (feature s 0)
  let cam := b2n (feature s 1)
  let set1 (ps : List Nat) (v : Nat) (s : State) : State := ps.foldl (fun s p => setCaps p v s) s
  let s := set1 (haltPages ++ [pgPWR, pgPACE, pgPVT, pgMET, pgSNP, pgMGC, pgHIF, pgHQ 0, pgHQ 1, pgMEMQ, pgFAB, pgBLT]) 1 s
  let s := set1 ((List.range 8).map pgMCU ++ (List.range 6).map pgLX ++ (List.range 6).map pgTSP) 1 s
  let s := setCaps pgRTE (1 + 2 * b2n (feature s 2)) s
  let s := setCaps pgPART (1 + 2 * (if feature s 3 then 32 else 8)) s
  let s := set1 ((List.range 4).map pgDH ++ (List.range 4).map pgDPTX ++ (List.range 8).map pgVID ++ (List.range 16).map pgGFX
    ++ (List.range 4).map pgPROT ++ (List.range 4).map pgSIG ++ [pgCMT]) disp s
  set1 ((List.range 4).map pgCSI ++ (List.range 4).map pgISP) cam s

/-- PAGE_CTRL.ENABLE of the pages the boot enables (R334, R395, R402, R452, R581, R603, R629). -/
def bootEnables (s : State) : State :=
  let on (p : Nat) (s : State) : State :=
    if s.avail p then ((s.wr p F.HDR_PAGE_CTRL_ENABLE 1).wr p F.HDR_PAGE_STATUS_ENABLED 1).wr p F.HDR_PAGE_STATUS_QUIESCED 0
    else s
  let ps := (List.range 8).map pgMCU ++ [pgMEMQ, pgRTE, pgBLT, pgCMT] ++ (List.range 6).map pgLX ++ (List.range 6).map pgTSP
    ++ (List.range 8).map pgVID ++ (List.range 16).map pgGFX ++ (List.range 4).map pgPROT ++ (List.range 4).map pgSIG
    ++ (List.range 4).map pgCSI
  ps.foldl (fun s p => on p s) s

/-- The conditions of Table 4.3 for the fast path. -/
def fastAllowed (s : State) (fatalWithin60s : Bool) : Bool :=
  let ev := s.rd pgCHIP F.CHIP_RESET_EVENT_CODE
  let fam := getBits ev 8 4
  s.chip.fastEnAtReset
  && (match s.chip.retention with | none => false | some r => r.image == s.bootOps.image)
  && s.rd pgCHIP F.CHIP_RESET_CAUSE_SOURCE ≠ 8
  && !(ev ≠ 0 && (fam = 3 || fam = 4))
  && !(s.chip.lastFatal && fatalWithin60s)
  && decide (s.rd pgCHIP F.CHIP_RESET_COUNT_FAST < s.rd pgCHIP F.CHIP_RESET_CFG_FAST_MAX)

/-- The marks a full path starts from: FUSE alone (R122). -/
def fuseMarks (s : State) : Fmap Nat := s.fuses.badTiles.foldl (fun m t => fset (fun _ => 0) m t 1) []

/-- The image runs: the BOOT page names it, the licence and the plan are put into force, and the boot goes on to CORE_UP
(R117, R158, R165, R422). -/
def imageRuns (slot : Nat) (fatalWithin60s : Bool) (s : State) : State :=
  let h := header s slot
  let s := { s with bootOps := { s.bootOps with image := sha h, svn := fieldOf h 0xC 4 } }
  let s := (s.wr pgBOOT F.BOOT_RECORD_RUNNING_SLOT slot).wr pgBOOT F.BOOT_RUNNING_VERSION (slotVersion s slot)
  let s := fwState 2 ((syncBoot s).wr pgMGC F.MGC_FW_VERSION_VERSION (slotVersion s slot))
  let fast := s.rd pgCHIP F.CHIP_RESET_CAUSE_KIND = 1 && fastAllowed s fatalWithin60s
  let s := { s with chip := { s.chip with fast := fast, lastFatal := decide (s.rd pgCHIP F.CHIP_RESET_CAUSE_SOURCE = 6) } }
  let s := s.wr pgCHIP F.CHIP_BOOT_STATUS_PATH (b2n fast)
  let s := if fast then s.bump pgCHIP F.CHIP_RESET_COUNT_FAST else s.wr pgCHIP F.CHIP_RESET_COUNT_FAST 0
  let s := loadCaps (enforceLic (setStage 3 s))
  let s := match fast, s.chip.retention with
    | true, some r =>
      let s := { s with chip := { s.chip with fp := r.marks } }
      let s := (s.wr pgCHIP F.CHIP_FP_INFO_CARRIED 1).wr pgCHIP F.CHIP_FP_INFO_SEQ r.seq
      loadTileCaps (publishFp s)
    | _, _ => { s with chip := { s.chip with fp := fuseMarks s, retention := none } }
  bootEnables (loadPlanPorts (setChipNum (choosePlan (setStage 4 s))))

/-- The ROM runs: the devices are read, the watchdog is armed and the image is chosen. -/
def romRun (fatalWithin60s : Bool) (s : State) : State :=
  let s := setStage 2 s
  let s := (List.range 2).foldl (fun s n =>
    match s.devs[n]? with
    | none => s
    | some d =>
      if d.present then
        let s := (s.wr pgFLASH F.FLASH_DEV_INFO_MFR d.mfr n).wr pgFLASH F.FLASH_DEV_INFO_SIZE_LOG2 d.sizeLog2 n
        (s.wr pgFLASH F.FLASH_DEV_INFO_PRESENT 1 n).wr pgFLASH F.FLASH_DEV_INFO_USABLE (b2n d.usable) n
      else s) s
  let (c, s) := chooseImage s
  match c with
  | .noImage => bootHalt 0x81 (syncLic (syncBoot s))
  | .run n => imageRuns n fatalWithin60s s
  | .reverted n => imageRuns n fatalWithin60s (logEv pgBOOT 0x1111 (irq pgBOOT 0 (s.wr pgBOOT F.BOOT_RECORD_REVERTED 1)))
  | .fallback n => imageRuns n fatalWithin60s (logEv pgBOOT 0x1112 (irq pgBOOT 1 (s.wr pgBOOT F.BOOT_RECORD_FALLBACK 1)))

/-- What the release of the internal reset records (R105, R112): the cause, and on a cold reset the ROS fields and the
logs start afresh and LOC is sampled. -/
def recordReset (s : State) : State :=
  let cold := s.chip.sources.any fun c => decide (c ≤ 3)
  let src := s.chip.sources.foldl min 9
  let s := if cold then
      let s := s.zeroWords [pgCHIP + 0x124, pgCHIP + 0x128, pgEVL + 0x104, pgEVL + 0x110, pgEVL + 0x114, pgEVL + 0x118,
        pgEVL + 0x120, pgEVL + 0x124, pgEVL + 0x128, pgEVL + 0x130]
      let s := { s with evl := State.reset.evl, chip := { s.chip with retention := none, lastFatal := false } }
      s.wr pgCHIP F.CHIP_LOC_VALUE s.chip.loc
    else s.bump pgCHIP F.CHIP_RESET_COUNT_WARM
  let s := (s.wr pgCHIP F.CHIP_RESET_CAUSE_SOURCE src).wr pgCHIP F.CHIP_RESET_CAUSE_KIND (b2n !cold)
  let also := s.chip.sources.foldl (fun w c => if c = src then w else w ||| 2 ^ (c - 1)) 0
  (s.wr pgCHIP F.CHIP_RESET_CAUSE_ALSO also).wr pgCHIP F.CHIP_BOOT_STATUS_KIND (b2n !cold)

/-- The fused and identity fields of the CHIP and MGC pages. -/
def fusedFields (s : State) : State :=
  let s := (s.wr pgCHIP F.CHIP_SERIAL_LO_SERIAL s.fuses.serial).wr pgCHIP F.CHIP_SERIAL_HI_SERIAL (s.fuses.serial / 2 ^ 32)
  let s := s.wr64 pgMGC F.MGC_ETH_MAC_LO_MAC F.MGC_ETH_MAC_HI_MAC s.fuses.mac
  s.wr pgBOOT F.BOOT_SVN_FUSED s.fuses.svn

/-- The chip leaves reset: the Metronome and the watchdog start, the sources are recorded and gone, and the ROM runs once
REFCLK_SYS is there (R105, R107, R487, R742). -/
def leaveReset (fatalWithin60s : Bool) (s : State) : State :=
  let s := fusedFields (recordReset s)
  let s := { s with met := 0, ticks := 0,
                    chip := { s.chip with inReset := false, resetN := true, sources := [], wdogOn := true, booting := true } }
  let s := haltPages.foldl (fun s p => setCaps p 1 s) s
  let s := wdogSync (fwState 1 (setStage 1 s))
  if s.chip.refSys then romRun fatalWithin60s s else s

/-- RESET_RELEASE (R107): RESET_N is high and no source holds the internal reset any more, and the boot starts. With TEST_EN
the chip stays in stage RESET (R744); without REFCLK_SYS the ROM waits (R742). -/
def execResetRelease (fatalWithin60s : Bool) (s : State) : Host.Outcome State Fault Refusal :=
  if !(s.chip.inReset && s.powered && !s.chip.testEn && !s.pwr.tripped)
      || s.chip.sources.isEmpty || (s.chip.sources.contains 5 && !s.chip.perstN) then .next s
  else .next (leaveReset fatalWithin60s s)

/-- VDD_CORE is at OPP3, and the Rink and the pace monitors start (step 6). -/
def coreUp (s : State) : State :=
  let s := (s.wr pgPWR F.PWR_CTRL_OPP 3).wr pgPWR F.PWR_STATUS_OPP_NOW 3
  let s := (s.wr pgPACE F.PACE_TB_GUAR_VALUE 1050).wr pgPACE F.PACE_TB_GUAR_OPP 3
  let s := (List.range 24).foldl (fun s g =>
    if s.flag (pgLX (g / 4)) F.LX_PCTRL_EN 0 (g % 4) then s.wr (pgLX (g / 4)) F.LX_PSTATUS_STATE 1 0 (g % 4) else s) s
  let s := setStage 5 s
  if s.chip.fast then seqBroadcast s else s

/-- HBM_REPAIR of every stack (R126); every pseudo-channel is in service (R323). -/
def hbmRepair (r : List (Nat × Nat)) (s : State) : State :=
  (List.range 8).foldl (fun s n =>
    let x := r.getD n (0, 0)
    let s := (s.wr pgCHIP F.CHIP_HBM_REPAIR_REPAIRED x.1 n).wr pgCHIP F.CHIP_HBM_REPAIR_SPARES_LEFT x.2 n
    let pg := pgMCU n
    let s := (s.wr pg F.MCU_LANE_REPAIR_REPAIRED x.1).wr pg F.MCU_LANE_REPAIR_SPARES_LEFT x.2
    ((s.wr pg F.MCU_ONLINE_LO_PC 0xFFFFFFFF).wr pg F.MCU_ONLINE_HI_PC 0xFFFFFFFF).wr pg F.MCU_STATUS_OFFLINE 0) s

/-- The effect of BOOT_TASK_COMPLETE out of reset (R113). -/
def bootTaskCompleteEffect (k : BootTask) (s : State) : State :=
  if !s.chip.booting then s
  else
    let stage := s.rd pgCHIP F.CHIP_BOOT_STATUS_STAGE
    let par := stage = 5
    match k with
    | .coreUp ok => if stage = 4 then (if ok then bootAdvance (coreUp s) else bootHalt 0x82 s) else s
    | .hbm r ok =>
      if par && !tasksSet s [0] then
        (if ok then bootAdvance (taskDone 0 (hbmRepair r s)) else bootHalt 0x83 s)
      else s
    | .zero =>
      if par && tasksSet s [0] && !tasksSet s [4] then bootAdvance (taskDone 4 (s.wr pgPWR F.PWR_STATUS_HBM_READY 1)) else s
    | .links => if par && !tasksSet s [1] then bootAdvance (taskDone 1 s) else s
    | .met => if par && tasksSet s [1] && !tasksSet s [2] then bootAdvance (taskDone 2 s) else s
    | .bist failed =>
      if par && !s.chip.fast && !tasksSet s [3] then
        bootAdvance (taskDone 3 (failed.foldl (fun s t => if s.mark t = 0 then setMark t 2 s else s) s))
      else s
    | .internal => bootHalt 0x8F s

/-- BOOT_TASK_COMPLETE (R113): a task ends, and the next stage starts once its predecessors are done. -/
def execBootTaskComplete (k : BootTask) (s : State) : Host.Outcome State Fault Refusal :=
  live s (bootTaskCompleteEffect k)

/-! The sequencer image (R127-R129). -/

/-- Sets the load state of a tile. -/
def setSeq (t : Nat) (x : SeqLoad) (s : State) : State :=
  { s with chip := { s.chip with seqLoad := fset (fun _ => .unsent) s.chip.seqLoad t x } }

/-- Resends the image to one tile. -/
def seqResend (t n : Nat) (s : State) : State :=
  let s := if n = 0 then s.bump pgCHIP F.CHIP_SEQ_ACK_RESENT else s
  setSeq t (.waiting (n + 1)) s

/-- A tile without a correct acknowledgement becomes bad with reason SEQ, and R123 is applied again. -/
def seqGivesUp (t : Nat) (s : State) : State :=
  let s := tileAvail t false (publishFp (setMark t 3 (setSeq t .unsent s)))
  if fpLimit s ≠ 0 then bootHalt (fpLimit s) s else bootAdvance s

/-- The effect of SEQ_IMAGE_ACK out of reset (R127-R129). -/
def seqImageAckEffect (t : Nat) (crc : Word) (s : State) : State :=
  match fget (fun _ => SeqLoad.unsent) s.chip.seqLoad t with
  | .waiting n =>
    if crc.toNat = s.rd pgCHIP F.CHIP_SEQ_CRC_CRC then
      let s := tileFresh t ((setSeq t .acked s).bump pgCHIP F.CHIP_SEQ_ACK_ACKED)
      let s := if seqAllAcked s then s.wr pgPWR F.PWR_STATUS_TILES_READY 1 else s
      bootAdvance s
    else if n < 2 then seqResend t n s
    else s
  | _ => s.bump pgCHIP F.CHIP_SEQ_ACK_STRAY

/-- SEQ_IMAGE_ACK (R127-R129): a tile acknowledges with the CRC of what it stored. -/
def execSeqImageAck (t : Nat) (crc : Word) (s : State) : Host.Outcome State Fault Refusal :=
  live s (seqImageAckEffect t crc)

/-- SEQ_ACK_TIMEOUT (R128): 2 ms without a correct acknowledgement. -/
def execSeqAckTimeout (t : Nat) (s : State) : Host.Outcome State Fault Refusal :=
  live s fun s =>
    match fget (fun _ => SeqLoad.unsent) s.chip.seqLoad t with
    | .waiting n => if n < 2 then seqResend t n s else seqGivesUp t s
    | _ => s

/-- TOPO_WAIT_EXPIRE (R134): the readiness check finalises. -/
def execTopoWaitExpire (s : State) : Host.Outcome State Fault Refusal :=
  live s fun s =>
    if s.chip.booting && s.rd pgCHIP F.CHIP_BOOT_STATUS_STAGE = 8 then topoFinalise s else s

/-- TILE_IMAGE_RELOAD_DONE (R175): the image is reloaded after an exit from TACET. -/
def execTileImageReloadDone (s : State) : Host.Outcome State Fault Refusal :=
  live s fun s => if s.done && s.ladder ≤ 1 then s.wr pgPWR F.PWR_STATUS_TILES_READY 1 else s

/-- REFCLK_SYS_LOSS (R742): the clock is lost, which raises FATAL event 0x4020 while the chip runs; or it is present
again, and a ROM that waited for it goes on. -/
def execRefclkSysLoss (present : Bool) (s : State) : Host.Outcome State Fault Refusal :=
  let t := { s with chip := { s.chip with refSys := present } }
  if s.chip.inReset then .next t
  else if present then .next (if t.chip.booting && t.rd pgCHIP F.CHIP_BOOT_STATUS_STAGE = 1 then romRun false t else t)
  else .next (raiseEv pgCHIP 0x4020 mgmt t)

/-! TILE_BIST (R138). -/

/-- A tile that TILE_BIST skips: bad by FUSE, its page enabled, or owned by a partition. -/
def bistSkips (s : State) (t : Nat) : Bool :=
  s.mark t = 1 || s.flag (pgTILE t) F.HDR_PAGE_CTRL_ENABLE || s.owner (pgTILE t) ≠ mgmt

/-- Gathers a batch of at most 160 tiles from tile t on over n tiles: the tiles, the tiles covered, the tiles skipped. -/
def bistGather (s : State) : Nat → Nat → Nat → List Nat × Nat × Nat
  | 0, _, _ => ([], 0, 0)
  | n + 1, t, room =>
    if bistSkips s t then let r := bistGather s n (t + 1) room; (r.1, r.2.1 + 1, r.2.2 + 1)
    else match room with
      | 0 => ([], 0, 0)
      | m + 1 => let r := bistGather s n (t + 1) m; (t :: r.1, r.2.1 + 1, r.2.2)

/-- The next batch starts: its tiles read AVAILABLE = 0. -/
def bistBatch (s : State) : State :=
  let p := s.rd pgCHIP F.LOP_LOP_PROGRESS_DONE
  let r := bistGather s (s.lopArg pgCHIP 1 % 2 ^ 12 - p) (s.lopArg pgCHIP 0 % 2 ^ 12 + p) 160
  let s := { s with chip := { s.chip with bistBatch := r.1, bistUnits := r.2.1, bistSkips := r.2.2 } }
  r.1.foldl (fun s t => tileAvail t false s) s

/-- A START of TILE_BIST. -/
def bistStart (req : Nat) : State → State :=
  wakeStart pgCHIP false (lopStart req pgCHIP 1 false fun s =>
    let f := s.lopArg pgCHIP 0 % 2 ^ 12
    let n := s.lopArg pgCHIP 1 % 2 ^ 12
    if n = 0 || 2560 < n || 2560 < f + n then lopFail pgCHIP resBAD_ARG 0 s else bistBatch s)

/-- TILE_BIST_START (R138): a START of CHIP's TILE_BIST; it needs FORTE and wakes the chip (R179). -/
def execTileBistStart (req : Nat) (s : State) : Host.Outcome State Fault Refusal :=
  liveP s (regWrite req (pgCHIP + 0x40) (bistStart req))

/-- One tested tile: failing it becomes bad with reason RUN, passing it is available again. -/
def bistTile (failed : List Nat) (t : Nat) (s : State) : State :=
  if failed.contains t then
    let d := s.rd pgCHIP F.LOP_LOP_RESULT_DETAIL
    let s := s.wr pgCHIP F.LOP_LOP_RESULT_DETAIL (putBits d 0 12 (getBits d 0 12 + 1))
    if s.mark t = 0 then tileGoesBad t 4 s else s
  else if s.mark t = 0 then tileFresh t (tileAvail t true s)
  else s

/-- The effect of TILE_BIST_BATCH_DONE out of reset (R138). -/
def tileBistBatchDoneEffect (failed : List Nat) (s : State) : State :=
  if !lopRuns s pgCHIP 1 then s
  else
    let s := s.chip.bistBatch.foldl (fun s t => bistTile failed t s) s
    let d := s.rd pgCHIP F.LOP_LOP_RESULT_DETAIL
    let s := s.wr pgCHIP F.LOP_LOP_RESULT_DETAIL (putBits d 12 12 (getBits d 12 12 + s.chip.bistSkips))
    let n := s.chip.bistUnits
    let s := { s with chip := { s.chip with bistBatch := [], bistUnits := 0, bistSkips := 0 } }
    let p := s.rd pgCHIP F.LOP_LOP_PROGRESS_DONE + n
    if s.lopArg pgCHIP 1 % 2 ^ 12 ≤ p && s.lop pgCHIP ≠ lopCANCELLING then
      lopFinish pgCHIP (s.wr pgCHIP F.LOP_LOP_PROGRESS_DONE p)
    else
      let s := lopUnits pgCHIP n s
      if s.lop pgCHIP = lopRUNNING then bistBatch s else s

/-- TILE_BIST_BATCH_DONE (R138): the batch ends with the given tiles failing. -/
def execTileBistBatchDone (failed : List Nat) (s : State) : Host.Outcome State Fault Refusal :=
  liveP s (tileBistBatchDoneEffect failed)

/-! The MGC page (R139-R141). -/

/-- MGC_ETH_LINK_CHANGE (R141): the SGMII link comes up or goes down. -/
def execMgcEthLinkChange (up : Bool) (s : State) : Host.Outcome State Fault Refusal :=
  live s fun s =>
    if s.flag pgMGC F.MGC_ETH_STATUS_LINK = up then s
    else
      let s := (s.wr pgMGC F.MGC_ETH_STATUS_LINK (b2n up)).wr pgMGC F.MGC_ETH_STATUS_AN_DONE (b2n up)
      logEv pgMGC (if up then 0x0030 else 0x0031) (irq pgMGC 1 s)

/-- The first increment of ETH_COUNTS after CNT_CLR interrupts. -/
def ethErr (s : State) : State :=
  if s.chip.ethErrSeen then s else irq pgMGC 2 { s with chip := { s.chip with ethErrSeen := true } }

/-- ETH_FRAME_RECEIVE (R140, R141): a frame arrives, erroneous or without a receive buffer. -/
def execEthFrameReceive (bad noBuffer : Bool) (s : State) : Host.Outcome State Fault Refusal :=
  live s fun s =>
    if bad then ethErr (s.bump pgMGC F.MGC_ETH_COUNTS_RX_ERR)
    else if noBuffer then s.bump pgMGC F.MGC_ETH_DROPS_RX_DROPS
    else s

/-- A write of MGC.CNT_CLR. -/
def mgcCntClr (v : Nat) (s : State) : State :=
  if bitOf v 0 then { s.zeroWords [pgMGC + 0x11C, pgMGC + 0x120] with chip := { s.chip with ethErrSeen := false } } else s

/-- MGC_CNT_CLR (R140): a write of MGC.CNT_CLR. -/
def execMgcCntClr (req : Nat) (v : Word) (s : State) : Host.Outcome State Fault Refusal :=
  live s (regWrite req (pgMGC + 0x124) (mgcCntClr v.toNat))

end Sys2Proof.Machine
end

