-- ==== Sys2Proof/Machine/Flash.lean ====
section
/-! DEFINITION. The FLASH, BOOT and LIC operations (05), and the SMBus target and test port (R748, R749). -/
namespace Sys2Proof.Machine
open Sys2Proof

/-- The chip may carry out FLASH, BOOT and LIC operations (R152). -/
def bootEnded (s : State) : Bool := s.done || s.halted

/-- A START on FLASH, BOOT or LIC; before DONE or HALTED it fails with UNAVAILABLE (R152). -/
def mgmtStart (req pg op : Nat) (run : State → State) (s : State) : State :=
  wakeStart pg false (lopStart req pg op false fun s => if bootEnded s then run s else lopFail pg resUNAVAILABLE 0 s) s

/-- An image runs: its slot is the one it was loaded from. -/
def runningSlot (s : State) : Option Nat :=
  if s.bootOps.image = [] then none else some (s.rd pgBOOT F.BOOT_RECORD_RUNNING_SLOT)

/-- A range touches the slot of its device, its seal included. -/
def touchesSlot (a n : Nat) : Bool := decide (0 < n) && decide (slotBase < a + n)

/-- The bad arguments of R147 for a range of a device. -/
def flashBadRange (s : State) (dev a n : Nat) : Bool :=
  n = 0 || decide (0x4000000 < a + n) || decide (a < 0x20000)
  || (decide (a < slotBase) && decide (0x40000 < a + n))
  || (touchesSlot a n && (runningSlot s == some dev
      || match ruling s with | some r => r.st = 2 && r.previous = dev | none => false))

/-- BOOT VERIFY runs on a slot. -/
def verifyOn (s : State) (slot : Nat) : Bool :=
  s.lopActive pgBOOT && s.lopOp pgBOOT = 1 && s.lopArg pgBOOT 0 % 2 = slot

/-- FLASH WRITE or ERASE runs on a slot. -/
def flashOn (s : State) (slot : Nat) : Bool :=
  let n := if s.lopOp pgFLASH = 1 then 256 * (s.lopArg pgFLASH 2 % 2 ^ 20) else 65536 * (s.lopArg pgFLASH 2 % 2 ^ 10)
  s.lopActive pgFLASH && s.lopArg pgFLASH 0 % 2 = slot && touchesSlot (s.lopArg pgFLASH 1 % 2 ^ 26) n

/-- A START of FLASH WRITE. -/
def flashWriteStart (req : Nat) : State → State :=
  mgmtStart req pgFLASH 1 fun s =>
    let dev := s.lopArg pgFLASH 0 % 2
    let a := s.lopArg pgFLASH 1 % 2 ^ 26
    let n := s.lopArg pgFLASH 2 % 2 ^ 20
    let src := s.lopArg pgFLASH 3
    let bad := flashBadRange s dev a (256 * n) || a % 256 ≠ 0
      || (if bitOf src 31 then s.halted || decide (hbmSize < src % 2 ^ 31 * 256 + 256 * n) else src % 2 ^ 31 ≠ 0)
    if bad then lopFail pgFLASH resBAD_ARG 0 s
    else if touchesSlot a (256 * n) && verifyOn s dev then lopFail pgFLASH resCONFLICT 0 s
    else s

/-- FLASH_WRITE_START (R146, R147): a START of FLASH WRITE. -/
def execFlashWriteStart (req : Nat) (s : State) : Host.Outcome State Fault Refusal :=
  liveP s (regWrite req (pgFLASH + 0x40) (flashWriteStart req))

/-- A START of FLASH ERASE. -/
def flashEraseStart (req : Nat) : State → State :=
  mgmtStart req pgFLASH 2 fun s =>
    let dev := s.lopArg pgFLASH 0 % 2
    let a := s.lopArg pgFLASH 1 % 2 ^ 26
    let n := s.lopArg pgFLASH 2 % 2 ^ 10
    if flashBadRange s dev a (65536 * n) || a % 65536 ≠ 0 then lopFail pgFLASH resBAD_ARG 0 s
    else if touchesSlot a (65536 * n) && verifyOn s dev then lopFail pgFLASH resCONFLICT 0 s
    else s

/-- FLASH_ERASE_START (R146, R147): a START of FLASH ERASE. -/
def execFlashEraseStart (req : Nat) (s : State) : Host.Outcome State Fault Refusal :=
  liveP s (regWrite req (pgFLASH + 0x40) (flashEraseStart req))

/-- A write of WIN_CTRL with PUSH (R148): the window is latched, or the push counts as OVERRUN while BUSY. -/
def winPush (v : Nat) (s : State) : State :=
  if !bitOf v 0 then s
  else if s.flag pgFLASH F.FLASH_WIN_CTRL_BUSY then s.bump pgFLASH F.FLASH_WIN_CTRL_OVERRUN
  else if lopRuns s pgFLASH 1 && !bitOf (s.lopArg pgFLASH 3) 31 then
    let s := { s with bootOps := { s.bootOps with latch := s.wordBytes (pgFLASH + 0x200) 64 } }
    s.wr pgFLASH F.FLASH_WIN_CTRL_BUSY 1
  else s

/-- FLASH_WIN_PUSH (R148): a write of WIN_CTRL. -/
def execFlashWinPush (req : Nat) (v : Word) (s : State) : Host.Outcome State Fault Refusal :=
  live s (regWrite req (pgFLASH + 0x110) (winPush v.toNat))

/-- Breaks a valid seal before the first change to its slot (R149). -/
def breakSeal (dev a n : Nat) (s : State) : State :=
  if touchesSlot a n && sealValid s dev then s.flashProgram dev sealBase (leBytes 4 0) else s

/-- A device error ends the operation (R151): the bytes of the failed unit hold a free value (log 3). -/
def flashFail (dev a n : Nat) (f : Fld) (s : State) : State :=
  let (x, s) := s.free (8 * n)
  let s := { s with flash := mwrite flashBlank s.flash (flashKey dev a) (leBytes n x) }
  let u := s.rd pgFLASH F.LOP_LOP_PROGRESS_DONE
  let s := (irq pgFLASH 0 (s.bump pgFLASH f)).wr pgFLASH F.FLASH_WIN_CTRL_BUSY 0
  syncBoot (lopFail pgFLASH resHW_ERROR (u % 2 ^ 20) s)

/-- One unit is programmed or erased: progress advances, or the operation is done. -/
def flashAdvance (total : Nat) (s : State) : State :=
  let p := s.rd pgFLASH F.LOP_LOP_PROGRESS_DONE + 1
  let s := syncBoot s
  if p = total && s.lop pgFLASH ≠ lopCANCELLING then lopFinish pgFLASH (s.wr pgFLASH F.LOP_LOP_PROGRESS_DONE p)
  else lopUnits pgFLASH 1 s

/-- The effect of FLASH_UNIT_DONE out of reset (R151). -/
def flashUnitDoneEffect (ok : Bool) (s : State) : State :=
  let dev := s.lopArg pgFLASH 0 % 2
  let u := s.rd pgFLASH F.LOP_LOP_PROGRESS_DONE
  if lopRuns s pgFLASH 1 then
    let a := s.lopArg pgFLASH 1 % 2 ^ 26 + 256 * u
    let src := s.lopArg pgFLASH 3
    let hbm := bitOf src 31
    let h := src % 2 ^ 31 * 256 + 256 * u
    if !hbm && !s.flag pgFLASH F.FLASH_WIN_CTRL_BUSY then s
    else if hbm && s.hbmPoisoned h 256 then
      lopFail pgFLASH resHW_ERROR (u % 2 ^ 20) (irq pgERR 5 (s.bump pgERR F.ERR_POISON_C_MGC))
    else
      let s := breakSeal dev a 256 s
      if ok && devOk s dev then
        let s := s.flashProgram dev a (if hbm then s.hbmRead h 256 else s.bootOps.latch)
        flashAdvance (s.lopArg pgFLASH 2 % 2 ^ 20) (s.wr pgFLASH F.FLASH_WIN_CTRL_BUSY 0)
      else flashFail dev a 256 F.FLASH_FLASH_ERR_PROG s
  else if lopRuns s pgFLASH 2 then
    let a := s.lopArg pgFLASH 1 % 2 ^ 26 + 65536 * u
    let s := breakSeal dev a 65536 s
    if ok && devOk s dev then flashAdvance (s.lopArg pgFLASH 2 % 2 ^ 10) (s.flashErase dev a 65536)
    else flashFail dev a 65536 F.FLASH_FLASH_ERR_ERASE s
  else s

/-- FLASH_UNIT_DONE (R151): the device finishes a unit or a sector, or reports an error. -/
def execFlashUnitDone (ok : Bool) (s : State) : Host.Outcome State Fault Refusal :=
  liveP s (flashUnitDoneEffect ok)

/-- The three pages that share the QSPI controller. -/
def qspiPage (k : Nat) : Nat := match k with | 0 => pgFLASH | 1 => pgBOOT | _ => pgLIC

/-- FLASH_DEVICE_TIMEOUT (R151): the device stays busy for more than 5 s on one command of a FLASH, BOOT or LIC
operation. -/
def execFlashDeviceTimeout (k : Nat) (s : State) : Host.Outcome State Fault Refusal :=
  liveP s fun s =>
    let pg := qspiPage k
    if s.lopHolds pg then
      let s := if k = 0 then s.wr pgFLASH F.FLASH_WIN_CTRL_BUSY 0 else s
      lopFail pg resTIMEOUT (s.rd pg F.LOP_LOP_PROGRESS_DONE % 2 ^ 20) s
    else s

/-! BOOT. -/

/-- A START of BOOT VERIFY. -/
def bootVerifyStart (req : Nat) : State → State :=
  mgmtStart req pgBOOT 1 fun s =>
    if flashOn s (s.lopArg pgBOOT 0 % 2) then lopFail pgBOOT resCONFLICT 0 s else s

/-- BOOT_VERIFY_START (R155): a START of BOOT VERIFY. -/
def execBootVerifyStart (req : Nat) (s : State) : Host.Outcome State Fault Refusal :=
  liveP s (regWrite req (pgBOOT + 0x40) (bootVerifyStart req))

/-- The 64 KiB units of the bundle in a slot: at least one, at most the slot. -/
def bundleUnits (s : State) (slot : Nat) : Nat := max 1 (min 1007 ((fieldOf (header s slot) 0x10 4 + 65535) / 65536))

/-- The verdict of VERIFY (R155): a broken seal rules. -/
def verifyVerdict (s : State) (slot : Nat) : Nat :=
  if !sealValid s slot && !erased (sealBytes s slot) then 9 else bundleVerdict s slot

/-- The bytes of a seal over the header now in the slot. -/
def newSeal (s : State) (slot : Nat) : List Byte :=
  let b := leBytes 4 0x4C414553 ++ sha (header s slot)
  b ++ leBytes 4 (crc32 b)

/-- The effect of BOOT_VERIFY_UNIT_DONE out of reset (R155). -/
def bootVerifyUnitDoneEffect (ok : Bool) (s : State) : State :=
  if !lopRuns s pgBOOT 1 then s
  else
    let slot := s.lopArg pgBOOT 0 % 2
    let p := s.rd pgBOOT F.LOP_LOP_PROGRESS_DONE + 1
    if !(ok && devOk s slot) then
      lopFail pgBOOT resHW_ERROR ((p - 1) % 2 ^ 20) (irq pgFLASH 0 (s.bump pgFLASH F.FLASH_FLASH_ERR_READ))
    else if bundleUnits s slot ≤ p && s.lop pgBOOT ≠ lopCANCELLING then
      let v := verifyVerdict s slot
      let s := if v = 0 && erased (sealBytes s slot) then s.flashProgram slot sealBase (newSeal s slot) else s
      let s := (s.wr pgBOOT F.LOP_LOP_PROGRESS_DONE p).wr pgBOOT F.LOP_LOP_RESULT_DETAIL v
      lopFinish pgBOOT (syncBoot s)
    else lopUnits pgBOOT 1 s

/-- BOOT_VERIFY_UNIT_DONE (R155): a unit has been checked; the last writes the verdict and, when it is VALID and the
seal is blank, the seal. -/
def execBootVerifyUnitDone (ok : Bool) (s : State) : Host.Outcome State Fault Refusal :=
  liveP s (bootVerifyUnitDoneEffect ok)

/-- Starts writing a record. -/
def recordStart (r : BootRec) (s : State) : State :=
  { s with bootOps := { s.bootOps with newRec := some { r with seq := nextSeq s }, copies := 0 } }

/-- A START of BOOT ACTIVATE. -/
def bootActivateStart (req : Nat) : State → State :=
  mgmtStart req pgBOOT 2 fun s =>
    let slot := s.lopArg pgBOOT 0 % 2
    let run := s.rd pgBOOT F.BOOT_RECORD_RUNNING_SLOT
    let bad := slotState s slot ≠ 2 || match ruling s with
      | none => false
      | some r => r.active = slot || (r.st = 2 && r.previous ≠ slot)
    let trial := match ruling s with | none => false | some r => r.st = 2
    if bad then lopFail pgBOOT resBAD_ARG 0 s
    else if trial then recordStart (confirmedRec s slot) s
    else recordStart { confirmedRec s slot with st := 2, trials := 3, previous := run, previousVersion := slotVersion s run } s

/-- BOOT_ACTIVATE_START (R159): a START of BOOT ACTIVATE. -/
def execBootActivateStart (req : Nat) (s : State) : Host.Outcome State Fault Refusal :=
  liveP s (regWrite req (pgBOOT + 0x40) (bootActivateStart req))

/-- A START of BOOT CONFIRM. -/
def bootConfirmStart (req : Nat) : State → State :=
  mgmtStart req pgBOOT 3 fun s =>
    match ruling s with
    | some r =>
      if r.st = 2 && r.active = s.rd pgBOOT F.BOOT_RECORD_RUNNING_SLOT then recordStart { r with st := 1, trials := 0 } s
      else lopFail pgBOOT resBAD_ARG 0 s
    | none => lopFail pgBOOT resBAD_ARG 0 s

/-- BOOT_CONFIRM_START (R160): a START of BOOT CONFIRM. -/
def execBootConfirmStart (req : Nat) (s : State) : Host.Outcome State Fault Refusal :=
  liveP s (regWrite req (pgBOOT + 0x40) (bootConfirmStart req))

/-- The effect of BOOT_RECORD_COPY_WRITTEN out of reset (R157, R160). -/
def bootRecordCopyWrittenEffect (ok : Bool) (s : State) : State :=
  match s.bootOps.newRec with
  | none => s
  | some r =>
    if !(lopRuns s pgBOOT 2 || lopRuns s pgBOOT 3) then s
    else
      let n := firstCopy s
      let act := s.lopOp pgBOOT = 2
      if !(ok && devOk s n) then
        let s := { s.flashErase n 0 0x10000 with bootOps := { s.bootOps with newRec := none } }
        syncBoot (lopFail pgBOOT resHW_ERROR s.bootOps.copies s)
      else
        let s := putCopy n r s
        let c := s.bootOps.copies + 1
        let s := { s with bootOps := { s.bootOps with copies := c } }
        let s := syncBoot (if act then (s.wr pgBOOT F.LOP_LOP_PROGRESS_DONE c).wr pgBOOT F.LOP_LOP_RESULT_DETAIL c else s)
        if c < 2 then s
        else
          let s := { s with bootOps := { s.bootOps with newRec := none } }
          if act then lopFinish pgBOOT (logEv pgBOOT 0x0101 s)
          else
            let s := { s with fuses := { s.fuses with svn := max s.fuses.svn s.bootOps.svn } }
            let s := syncBoot (s.wr pgBOOT F.LOP_LOP_PROGRESS_DONE 1)
            lopFinish pgBOOT (logEv pgBOOT 0x0102 s)

/-- BOOT_RECORD_COPY_WRITTEN (R157, R160): one copy is erased and programmed, or torn; the second ends the operation, and
CONFIRM then blows the SVN fuses. -/
def execBootRecordCopyWritten (ok : Bool) (s : State) : Host.Outcome State Fault Refusal :=
  liveP s (bootRecordCopyWrittenEffect ok)

/-! LIC. -/

/-- A START of LIC INSTALL. -/
def licInstallStart (req : Nat) : State → State :=
  mgmtStart req pgLIC 1 fun s =>
    let a := s.lopArg pgLIC 0
    let bad := if bitOf a 31 then s.halted || decide (hbmSize < a % 2 ^ 31 * 256 + 512) else a % 2 ^ 31 ≠ 0
    if bad then lopFail pgLIC resBAD_ARG 0 s else { s with bootOps := { s.bootOps with verdict := 0 } }

/-- LIC_INSTALL_START (R167): a START of LIC INSTALL. -/
def execLicInstallStart (req : Nat) (s : State) : Host.Outcome State Fault Refusal :=
  liveP s (regWrite req (pgLIC + 0x40) (licInstallStart req))

/-- INSTALL ends with a verdict. -/
def installEnd (v : Nat) (s : State) : State := lopFinish pgLIC (s.wr pgLIC F.LOP_LOP_RESULT_DETAIL v)

/-- The effect of LIC_INSTALL_STEP_DONE out of reset (R167). -/
def licInstallStepDoneEffect (ok : Bool) (s : State) : State :=
  if !lopRuns s pgLIC 1 then s
  else
    let p := s.rd pgLIC F.LOP_LOP_PROGRESS_DONE
    let a := s.lopArg pgLIC 0
    let b := s.bootOps.licBuf
    let v := licVerdict s b
    if p = 0 then
      let h := a % 2 ^ 31 * 256
      if bitOf a 31 && s.hbmPoisoned h 512 then
        lopFail pgLIC resHW_ERROR 0 (irq pgERR 5 (s.bump pgERR F.ERR_POISON_C_MGC))
      else
        let bs := if bitOf a 31 then s.hbmRead h 512 else s.wordBytes (pgLIC + 0x200) 128
        lopUnits pgLIC 1 { s with bootOps := { s.bootOps with licBuf := bs } }
    else if p = 1 then
      if v = 1 || v = 2 || v = 3 then installEnd v (s.wr pgLIC F.LOP_LOP_PROGRESS_DONE 2) else lopUnits pgLIC 1 s
    else if p = 2 then
      if v ≠ 0 then installEnd v (s.wr pgLIC F.LOP_LOP_PROGRESS_DONE 3)
      else if fieldOf b 8 4 ≤ s.rd pgLIC F.LIC_STORED_LSN_LSN then installEnd 5 (s.wr pgLIC F.LOP_LOP_PROGRESS_DONE 3)
      else lopUnits pgLIC 1 s
    else if ok && devOk s 0 && devOk s 1 then
      let s := (s.flashErase 0 licBase 0x10000).flashProgram 0 licBase b
      let s := (s.flashErase 1 licBase 0x10000).flashProgram 1 licBase b
      let s := irq pgLIC 0 (syncLic (s.wr pgLIC F.LOP_LOP_PROGRESS_DONE 4))
      installEnd 0 (logEv pgLIC 0x0120 s)
    else lopFail pgLIC resHW_ERROR 3 (irq pgFLASH 0 (s.bump pgFLASH F.FLASH_FLASH_ERR_PROG))

/-- LIC_INSTALL_STEP_DONE (R167): one of the four steps completes. -/
def execLicInstallStepDone (ok : Bool) (s : State) : Host.Outcome State Fault Refusal :=
  liveP s (licInstallStepDoneEffect ok)

/-! SMBus and the test port. -/

/-- An SMBus Block Read of a word; in reset, and before the ROM answers, the address is NAKed (R748). -/
def smbRead (a : Nat) (s : State) : State :=
  { s with outbox := s.outbox ++ [.smb (if s.chip.inReset then none else some (s.word a).toNat)] }

/-- SMB_READ_CHIP_ID (R748). -/
def execSmbReadChipId (s : State) : Host.Outcome State Fault Refusal := .next (smbRead (pgCHIP + 0x100) s)
/-- SMB_READ_CHIP_STEP (R748). -/
def execSmbReadChipStep (s : State) : Host.Outcome State Fault Refusal := .next (smbRead (pgCHIP + 0x104) s)
/-- SMB_READ_BOOT_STATUS (R748). -/
def execSmbReadBootStatus (s : State) : Host.Outcome State Fault Refusal := .next (smbRead (pgCHIP + 0x118) s)
/-- SMB_READ_TJ (R748). -/
def execSmbReadTj (s : State) : Host.Outcome State Fault Refusal := .next (smbRead (pgPVT + 0x100) s)
/-- SMB_READ_PWR_STATUS (R748). -/
def execSmbReadPwrStatus (s : State) : Host.Outcome State Fault Refusal := .next (smbRead (pgPWR + 0x104) s)
/-- SMB_READ_CHIP_NUM (R748). -/
def execSmbReadChipNum (s : State) : Host.Outcome State Fault Refusal := .next (smbRead (pgCHIP + 0x114) s)
/-- SMB_OTHER (R748): NAKed. -/
def execSmbOther (s : State) : Host.Outcome State Fault Refusal := .next { s with outbox := s.outbox ++ [.smb none] }

/-- Selects a register of the test port. -/
def jtagSel (n : Nat) (s : State) : State := { s with jtag := { s.jtag with sel := n, driving := false } }

/-- JTAG_BYPASS (R749). -/
def execJtagBypass (s : State) : Host.Outcome State Fault Refusal := .next (jtagSel 0 s)

/-- JTAG_IDCODE (R749): version 0x1 and part number 0x504E; the manufacturer field is a free value, and bit 0 is 1 as
IEEE 1149.1 has it (log 10). -/
def execJtagIdcode (s : State) : Host.Outcome State Fault Refusal :=
  let (m, s) := s.free 11
  let s := jtagSel 1 s
  .next { s with outbox := s.outbox ++ [.jtag (2 ^ 28 + 0x504E * 2 ^ 12 + 2 * m + 1)] }

/-- JTAG_SAMPLE_PRELOAD (R749): while RESET_N is low the chain takes the pins; otherwise it acts as BYPASS. -/
def execJtagSamplePreload (pins : Nat) (s : State) : Host.Outcome State Fault Refusal :=
  .next (if s.chip.resetN then jtagSel 0 s
         else let s := jtagSel 2 s; { s with jtag := { s.jtag with chain := pins } })

/-- JTAG_EXTEST (R749): while RESET_N is low the pins are driven; otherwise it acts as BYPASS. -/
def execJtagExtest (pins : Nat) (s : State) : Host.Outcome State Fault Refusal :=
  .next (if s.chip.resetN then jtagSel 0 s
         else let s := jtagSel 2 s; { s with jtag := { s.jtag with chain := pins, driving := true } })

end Sys2Proof.Machine
end

