-- ==== Sys2Proof/Machine/Net.lean ====
section
/-! DEFINITION. Requests, responses and tags (12 R341-R356). -/
namespace Sys2Proof.Machine
open Sys2Proof

/-- Opcodes of Table 12.2. -/
def opREAD : Nat := 0x01
def opWRITE : Nat := 0x02
def opCSIG : Nat := 0x04
def opATOMIC (aop : Nat) : Nat := 0x10 + aop
def opRD_DATA : Nat := 0x20
def opWR_ACK : Nat := 0x21
def opAT_DATA : Nat := 0x22
def opSIG_ACK : Nat := 0x23
def opERR : Nat := 0x2F

/-- Error statuses of Table 12.4. -/
def stUNMAPPED : Nat := 1
def stBAD_TILE : Nat := 2
def stNOT_IN_SLICE : Nat := 3
def stDENIED : Nat := 4
def stBAD_ACCESS : Nat := 5
def stOFFLINE : Nat := 6
def stMALFORMED : Nat := 7

/-- Chip offsets (Table 1.2). -/
def sramBase : Nat := 0x40000000000
def offMask : Nat := 2 ^ 43

/-- The chip and the offset of a global address (R23). -/
def gaChip (g : Nat) : Nat := g / 2 ^ 43 % 2 ^ 13
def gaOff (g : Nat) : Nat := g % 2 ^ 43

/-- The context a partition runs in, when bound. -/
def ctxOfPart (s : State) (p : Nat) : Option Nat :=
  if s.flag pgPART F.PART_P_STATE_CTX_VALID p then some (s.rd pgPART F.PART_P_STATE_CTX p) else none

/-- The context that holds a slice ID. -/
def ctxOfSlice (s : State) (sl : Nat) : Option Nat :=
  (List.range 32).find? fun c => s.flag pgRTE F.RTE_CTX_ALLOCATED c && s.rd pgRTE F.RTE_CTX_SLICE c = sl

/-- The partition bound to a context. -/
def partOfCtx (s : State) (c : Nat) : Option Nat :=
  (List.range 32).find? fun p => ctxOfPart s p == some c && s.rd pgPART F.PART_P_STATE_STATE p ≠ 0

/-- The slice ID the source writes (R343). -/
def sliceOf (s : State) (req : Nat) : Nat :=
  if req = mgmt then 0xFFF else match ctxOfPart s req with | none => 0xFFF | some c => s.rd pgRTE F.RTE_CTX_SLICE c

/-- Base of a context's tables in the routing table window (Table 15.8). -/
def ctxBase (c : Nat) : Nat := 0x100000 + c * 0x2000

/-- The reach mask of the partition's context admits a chip, and the context is ACTIVE (R433). -/
def reachOk (s : State) (req dst : Nat) : Bool :=
  req = mgmt ||
  match ctxOfPart s req with
  | none => false
  | some c => s.flag pgRTE F.RTE_CTX_ACTIVE c && bitOf (s.word (ctxBase c + 0x800 + 4 * (dst / 32))).toNat (dst % 32)

/-- The lowest context number an endpoint does not use (R345, R356). -/
def freeTag (s : State) (ep : Nat) : Nat :=
  ((List.range 256).find? fun c => !s.outst.any fun t => t.ep = ep && t.ctx = c).getD 0




/-- What an endpoint asks for: the target, the operation, and what it sent it for. -/
structure Ask where
  ep : Nat
  req : Nat
  dst : Nat
  offset : Nat
  op : Nat
  words : Nat
  data : List Byte
  tc : Nat
  ordered : Bool
  use : Nat
  arg : Nat
  arg2 : Nat
  deriving DecidableEq, Repr

/-- The response packet to a request. -/
def respond (p : Packet) (op words : Nat) (data : List Byte) (poison : Bool) : Packet :=
  { p with dst := p.src, src := p.dst, op := op, len := flitsLess1 data.length, poison := poison, mark := false,
           detour := false, words := words, data := data, ordered := false, port := 31 }

/-- The ERR response with a status (Table 12.4). -/
def errResp (p : Packet) (status : Nat) : Packet := respond p opERR 1 (leBytes 4 status) false

/-- Puts a packet on the Rink. -/
def State.put (s : State) (p : Packet) : State := { s with rink := s.rink ++ [p] }

/-- Sends a request: it is tracked, and goes onto the Rink; a request that the reach mask stops is answered at its source
with NOT_IN_SLICE (R433). -/
def send (a : Ask) (s : State) : State :=
  let c := freeTag s a.ep
  let p : Packet :=
    { dst := a.dst, src := s.chipNum, slice := sliceOf s a.req, tc := a.tc, op := a.op, len := flitsLess1 a.data.length,
      offset := a.offset, tag := a.ep * 256 + c, ordered := a.ordered, poison := false, mark := false, detour := false,
      words := a.words, data := a.data, req := a.req, port := 31 }
  let t : Track := { ep := a.ep, ctx := c, dst := a.dst, offset := a.offset, op := a.op, req := a.req, use := a.use,
                     arg := a.arg, arg2 := a.arg2, quar := false }
  let s := { s with outst := s.outst ++ [t] }
  if reachOk s a.req a.dst then s.put p
  else (s.bump pgRTE F.RTE_NOT_IN_SLICE_COUNT).put { errResp p stNOT_IN_SLICE with dst := s.chipNum }

/-- How a tracked request ends. -/
inductive Res where
  /-- RD_DATA or AT_DATA: the data, and whether it is poisoned. -/
  | data (bs : List Byte) (poison : Bool)
  /-- WR_ACK or SIG_ACK. -/
  | ack
  /-- ERR with a status. -/
  | err (st : Nat)
  /-- No response within the timeout. -/
  | timeout
  deriving DecidableEq, Repr

/-- The result a response packet carries. -/
def resOf (p : Packet) : Res :=
  if p.op = opERR then .err (fieldOf p.data 0 1)
  else if p.op = opRD_DATA || p.op = opAT_DATA then .data p.data p.poison
  else .ack

/-- Requests of an endpoint that still wait for their response. -/
def State.waitingOf (s : State) (ep : Nat) : List Track := s.outst.filter fun t => t.ep = ep && !t.quar

/-- A global address names chip and offset of at most 56 bits (R341). -/
def gaOk (g : Nat) : Bool := decide (g < 2 ^ 56)

end Sys2Proof.Machine
end

