-- ==== Sys2Proof/Machine/Num.lean ====
section
/-! DEFINITION. The number formats of 09: encodings (R267-R270), exact arithmetic on decoded values, rounding (R277),
conversions (R274, R275) and the stochastic generator (R278). A value is exact: a sign, a whole mantissa and a power of
two. -/
namespace Sys2Proof.Machine
open Sys2Proof

/-- A decoded element: a NaN and whether it is signalling, an infinity and its sign, or ± m × 2^e. -/
inductive Num where
  | nan (sig : Bool)
  | inf (neg : Bool)
  | fin (neg : Bool) (m : Nat) (e : Int)
  deriving DecidableEq, Repr

/-- A floating-point format of Table 9.1: mantissa bits, least and greatest exponent, exponent bits, bias, and kind: 0 with
infinities and NaNs, 1 E4M3, 2 neither. -/
structure Fmt where
  mb : Nat
  emin : Int
  emax : Int
  eb : Nat
  bias : Nat
  kind : Nat
  deriving DecidableEq, Repr

def fFP64 : Fmt := { mb := 52, emin := -1022, emax := 1023, eb := 11, bias := 1023, kind := 0 }
def fFP32 : Fmt := { mb := 23, emin := -126, emax := 127, eb := 8, bias := 127, kind := 0 }

/-- FP32 and FP64 precision with an exponent range no value of the model leaves (R304). -/
def unbounded (f : Fmt) : Fmt := { f with emin := -100000, emax := 100000 }

/-- The format of a code below 0xA (Table 9.1). -/
def fmtOf (code : Nat) : Fmt :=
  match code with
  | 0 => fFP64
  | 1 => fFP32
  | 2 => { mb := 15, emin := -126, emax := 127, eb := 8, bias := 127, kind := 0 }
  | 3 => { mb := 10, emin := -14, emax := 15, eb := 5, bias := 15, kind := 0 }
  | 4 => { mb := 7, emin := -126, emax := 127, eb := 8, bias := 127, kind := 0 }
  | 5 => { mb := 2, emin := -14, emax := 15, eb := 5, bias := 15, kind := 0 }
  | 6 => { mb := 3, emin := -6, emax := 8, eb := 4, bias := 7, kind := 1 }
  | 7 => { mb := 2, emin := -2, emax := 4, eb := 3, bias := 3, kind := 2 }
  | 8 => { mb := 3, emin := 0, emax := 2, eb := 2, bias := 1, kind := 2 }
  | _ => { mb := 1, emin := 0, emax := 2, eb := 2, bias := 1, kind := 2 }

/-- The bits of an element (R270). -/
def fmtBits (code : Nat) : Nat :=
  match code with
  | 0 => 64 | 1 => 32 | 2 => 24 | 3 => 16 | 4 => 16 | 5 => 8 | 6 => 8 | 7 => 6 | 8 => 6 | 9 => 4 | 10 => 8 | _ => 4

/-- The formats that carry E8M0 scales. -/
def isMx (code : Nat) : Bool := code = 7 || code = 8 || code = 9

/-- INT8 and INT4. -/
def isInt (code : Nat) : Bool := code = 10 || code = 11

/-- The bytes that n elements of a format occupy. -/
def fmtBytes (code n : Nat) : Nat := (fmtBits code * n + 7) / 8

/-- The value an integer element holds. -/
def decInt (wid v : Nat) : Num :=
  if v < 2 ^ (wid - 1) then .fin false v 0 else .fin true (2 ^ wid - v) 0

/-- The value of a floating-point element (R267). -/
def decFlt (f : Fmt) (v : Nat) : Num :=
  let neg := v / 2 ^ (f.eb + f.mb) % 2 == 1
  let e := v / 2 ^ f.mb % 2 ^ f.eb
  let m := v % 2 ^ f.mb
  if f.kind = 0 && e = 2 ^ f.eb - 1 then (if m = 0 then .inf neg else .nan (decide (m < 2 ^ (f.mb - 1))))
  else if f.kind = 1 && e = 15 && m = 7 then .nan false
  else if e = 0 then .fin neg m (f.emin - f.mb)
  else .fin neg (m + 2 ^ f.mb) ((e : Int) - f.bias - f.mb)

/-- The value of an element without its scale. -/
def dec (code v : Nat) : Num := if isInt code then decInt (fmtBits code) v else decFlt (fmtOf code) v

/-- The value of an element of a microscaling block with scale byte b (R272). -/
def decMx (code v b : Nat) : Num :=
  if b = 0xFF then .nan false
  else match dec code v with
    | .fin n m e => .fin n m (e + b - 127)
    | x => x

/-- Element i of a packed array (R270). -/
def elemAt (code i : Nat) (bs : List Byte) : Nat :=
  let w := fmtBits code
  fieldOf bs (i * w / 8) ((i * w % 8 + w + 7) / 8) / 2 ^ (i * w % 8) % 2 ^ w

/-- Packs elements (R270). -/
def packElems (code : Nat) (vs : List Nat) : List Byte :=
  let w := fmtBits code
  if w % 8 = 0 then (vs.map (leBytes (w / 8))).flatten
  else leBytes (fmtBytes code vs.length) (vs.foldr (fun v acc => v % 2 ^ w + acc * 2 ^ w) 0)

/-! Flags, as bits of ARITH_FLAGS (R280). -/

def flINVALID : Nat := 1
def flOVERFLOW : Nat := 2
def flUNDERFLOW : Nat := 4
def flINEXACT : Nat := 8
def flINT_SAT : Nat := 16

/-- A flag when a condition holds. -/
def flIf (b : Bool) (f : Nat) : Nat := if b then f else 0

/-- The exponent of the leading bit of m × 2^e. -/
def topExp (m : Nat) (e : Int) : Int := e + Nat.log2 m

/-- Compares m1 × 2^e1 with m2 × 2^e2: whether the first is smaller. -/
def magLt (m1 : Nat) (e1 : Int) (m2 : Nat) (e2 : Int) : Bool :=
  let e := min e1 e2
  decide (m1 * 2 ^ (e1 - e).toNat < m2 * 2 ^ (e2 - e).toNat)

/-- Rounds m × 2^e up where a fraction rem / 2^d of the last place calls for it (R277): RND 0 to nearest even, 1
stochastic with draw r, 2 toward zero. -/
def roundsUp (rnd r q rem d : Nat) : Bool :=
  match rnd with
  | 0 => decide (2 ^ d < 2 * rem) || (2 * rem = 2 ^ d && q % 2 = 1)
  | 1 => decide (2 ^ 16 ≤ rem * 2 ^ 16 / 2 ^ d + r)
  | _ => false

/-- Rounds a magnitude to a precision of mb + 1 bits with no exponent below emin: mantissa, exponent and whether it is
inexact. -/
def roundMag (mb : Nat) (emin : Int) (rnd r m : Nat) (e : Int) : Nat × Int × Bool :=
  let qe := max (topExp m e) emin - mb
  if qe ≤ e then (m * 2 ^ (e - qe).toNat, qe, false)
  else
    let d := (qe - e).toNat
    let q := m / 2 ^ d
    let rem := m % 2 ^ d
    (if roundsUp rnd r q rem d then q + 1 else q, qe, !decide (rem = 0))

/-- The largest finite mantissa and its exponent. -/
def maxMant (f : Fmt) : Nat := if f.kind = 1 then 14 else 2 ^ (f.mb + 1) - 1
def maxExp (f : Fmt) : Int := f.emax - f.mb

/-- The bits of a sign. -/
def signBits (f : Fmt) (neg : Bool) : Nat := b2n neg * 2 ^ (f.eb + f.mb)

/-- The bits of a magnitude q × 2^qe that the format holds. -/
def encMag (f : Fmt) (q : Nat) (qe : Int) : Nat :=
  let (q, qe) := if q = 2 ^ (f.mb + 1) then (2 ^ f.mb, qe + 1) else (q, qe)
  if q < 2 ^ f.mb then q else (qe + f.mb + f.bias).toNat * 2 ^ f.mb + (q - 2 ^ f.mb)

/-- The canonical NaN (R269). -/
def nanBits (f : Fmt) : Nat := if f.kind = 1 then 0x7F else (2 ^ f.eb - 1) * 2 ^ f.mb + 2 ^ (f.mb - 1)

/-- Infinity; ±448 in E4M3 (Table 9.2). -/
def infBits (f : Fmt) (neg : Bool) : Nat :=
  signBits f neg + (if f.kind = 1 then 0x7E else (2 ^ f.eb - 1) * 2 ^ f.mb)

/-- The largest finite value. -/
def maxBits (f : Fmt) (neg : Bool) : Nat := signBits f neg + encMag f (maxMant f) (maxExp f)

/-- A magnitude beyond the largest finite value. -/
def isOver (f : Fmt) (q : Nat) (qe : Int) : Bool := magLt (maxMant f) (maxExp f) q qe

/-- Converts a value to a floating-point format of kind 0 or 1: bits and flags (R274, R275, R277, R280). -/
def toFlt (f : Fmt) (rnd r : Nat) (x : Num) : Nat × Nat :=
  match x with
  | .nan _ => (nanBits f, 0)
  | .inf neg => (infBits f neg, flIf (f.kind = 1) flOVERFLOW)
  | .fin neg m e =>
    if m = 0 then (signBits f neg, 0)
    else
      let a := roundMag f.mb f.emin rnd r m e
      let hi := roundMag f.mb f.emin 1 0xFFFF m e
      let a := if rnd = 1 && isOver f hi.1 hi.2.1 then roundMag f.mb f.emin 0 0 m e else a
      if isOver f a.1 a.2.1 then
        (if rnd = 2 then maxBits f neg else infBits f neg, flOVERFLOW + flINEXACT)
      else
        (signBits f neg + encMag f a.1 a.2.1,
         flIf a.2.2 flINEXACT + flIf (a.2.2 && decide (a.1 < 2 ^ f.mb)) flUNDERFLOW)

/-- Converts a value to a two's complement integer of a width: bits and flags (Table 9.2). -/
def toInt (wid rnd r : Nat) (x : Num) : Nat × Nat :=
  match x with
  | .nan _ => (0, flINVALID)
  | .inf neg => (if neg then 2 ^ (wid - 1) else 2 ^ (wid - 1) - 1, flINT_SAT + flINEXACT)
  | .fin neg m e =>
    let lim := if neg then 2 ^ (wid - 1) else 2 ^ (wid - 1) - 1
    let round := fun rnd =>
      if 0 ≤ e then (m * 2 ^ e.toNat, false)
      else
        let d := (-e).toNat
        let q := m / 2 ^ d
        let rem := m % 2 ^ d
        (if roundsUp rnd r q rem d then q + 1 else q, !decide (rem = 0))
    let a := round rnd
    let a := if rnd = 1 && a.2 && decide (lim < m / 2 ^ (-e).toNat + 1) then round 0 else a
    if lim < a.1 then (if neg then lim else lim, flINT_SAT + flINEXACT)
    else (if neg then (2 ^ wid - a.1) % 2 ^ wid else a.1, flIf a.2 flINEXACT)

/-- Converts a value to an element of a format other than E3M2, E2M3 and E2M1: bits and flags. -/
def toElem (code rnd r : Nat) (x : Num) : Nat × Nat :=
  if isInt code then toInt (fmtBits code) rnd r x else toFlt (fmtOf code) rnd r x

/-- Converts a value of a block, already divided by its scale, to an element of E3M2, E2M3 or E2M1 (R273 step 3). -/
def toMx (code rnd r : Nat) (x : Num) : Nat × Nat :=
  let f := fmtOf code
  match x with
  | .nan _ => (0, 0)
  | .inf neg => (maxBits f neg, flOVERFLOW)
  | .fin neg m e =>
    if m = 0 then (signBits f neg, 0)
    else
      let a := roundMag f.mb f.emin rnd r m e
      let hi := roundMag f.mb f.emin 1 0xFFFF m e
      let a := if rnd = 1 && isOver f hi.1 hi.2.1 then roundMag f.mb f.emin 0 0 m e else a
      if isOver f a.1 a.2.1 then (maxBits f neg, flINEXACT)
      else (signBits f neg + encMag f a.1 a.2.1,
            flIf a.2.2 flINEXACT + flIf (a.2.2 && decide (a.1 < 2 ^ f.mb)) flUNDERFLOW)

/-- A value as a format of FP32 or FP64 precision holds it after rounding to nearest even (R301). -/
def rnd0 (f : Fmt) (x : Num) : Num :=
  match x with
  | .fin neg m e =>
    if m = 0 then .fin neg 0 0
    else
      let a := roundMag f.mb f.emin 0 0 m e
      if isOver f a.1 a.2.1 then .inf neg else .fin neg a.1 a.2.1
  | _ => x

/-! Exact arithmetic. A result comes with whether a NaN arose from operands that are no NaN. -/

/-- A signalling NaN. -/
def Num.isSig : Num → Bool
  | .nan s => s
  | _ => false

/-- A NaN of either kind. -/
def Num.isNan : Num → Bool
  | .nan _ => true
  | _ => false

/-- An infinity. -/
def Num.isInf : Num → Bool
  | .inf _ => true
  | _ => false

/-- A zero. -/
def Num.isZero : Num → Bool
  | .fin _ m _ => m == 0
  | _ => false

/-- The sign bit. -/
def Num.neg? : Num → Bool
  | .nan _ => false
  | .inf n => n
  | .fin n _ _ => n

/-- Negation; a NaN stays a NaN. -/
def Num.negate : Num → Num
  | .nan s => .nan s
  | .inf n => .inf (!n)
  | .fin n m e => .fin (!n) m e

/-- Magnitude. -/
def Num.abs : Num → Num
  | .nan s => .nan s
  | .inf _ => .inf false
  | .fin _ m e => .fin false m e

/-- One. -/
def Num.one : Num := .fin false 1 0

/-- The product. -/
def mulN : Num → Num → Num × Bool
  | .nan _, _ => (.nan false, false)
  | _, .nan _ => (.nan false, false)
  | .inf a, .inf b => (.inf (a != b), false)
  | .inf a, .fin b m _ => if m = 0 then (.nan false, true) else (.inf (a != b), false)
  | .fin a m _, .inf b => if m = 0 then (.nan false, true) else (.inf (a != b), false)
  | .fin a m e, .fin b k f => (.fin (a != b) (m * k) (e + f), false)

/-- A finite value as a whole multiple of 2^q, for q at most its exponent. -/
def scaled (neg : Bool) (m : Nat) (e q : Int) : Int :=
  let v : Int := m * 2 ^ (e - q).toNat
  if neg then -v else v

/-- The value of a whole multiple of 2^q; an exact zero is +0. -/
def ofScaled (v q : Int) : Num := .fin (decide (v < 0)) v.natAbs q

/-- The sum. An exact zero sum is +0 unless both terms are −0. -/
def addN : Num → Num → Num × Bool
  | .nan _, _ => (.nan false, false)
  | _, .nan _ => (.nan false, false)
  | .inf a, .inf b => if a = b then (.inf a, false) else (.nan false, true)
  | .inf a, .fin _ _ _ => (.inf a, false)
  | .fin _ _ _, .inf b => (.inf b, false)
  | .fin a m e, .fin b k f =>
    if m = 0 && k = 0 then (.fin (a && b) 0 0, false)
    else
      let q := min e f
      (ofScaled (scaled a m e q + scaled b k f q) q, false)

/-- The difference. -/
def subN (a b : Num) : Num × Bool := addN a b.negate

/-- Whether a < b, for values that are no NaN; −0 and +0 are equal. -/
def ltN : Num → Num → Bool
  | .nan _, _ => false
  | _, .nan _ => false
  | .inf a, .inf b => a && !b
  | .inf a, .fin _ _ _ => a
  | .fin _ _ _, .inf b => !b
  | .fin a m e, .fin b k f => decide (scaled a m e (min e f) < scaled b k f (min e f))

/-- The smaller or the larger of two values. Of a NaN and a number, and of +0 and −0, the spec does not say which:
`ch` chooses (log 11). -/
def minMaxN (wantMax : Bool) (ch : Bool) (a b : Num) : Num :=
  if a.isNan && b.isNan then .nan false
  else if a.isNan then (if ch then .nan false else b)
  else if b.isNan then (if ch then .nan false else a)
  else if ltN a b then (if wantMax then b else a)
  else if ltN b a then (if wantMax then a else b)
  else (if ch then a else b)

/-! The stochastic generator. -/

/-- One advance of a stream (R278). -/
def xorshift (s : BitVec 64) : BitVec 64 :=
  let s := s ^^^ (s <<< 13)
  let s := s ^^^ (s >>> 7)
  s ^^^ (s <<< 17)

/-- The value a stream is loaded with; 0 is replaced (R278). -/
def seedOf (v : Nat) : Nat := if v % 2 ^ 64 = 0 then 0x9E3779B97F4A7C15 else v % 2 ^ 64

/-- What the vector stream is loaded with for a seed. -/
def vectorSeed (v : Nat) : Nat := seedOf (Nat.xor (v % 2 ^ 64) 0xD1B54A32D192ED03)

/-- A stream after n advances, with the 16-bit draw of each. -/
def draws : Nat → Nat → List Nat × Nat
  | 0, st => ([], st)
  | n + 1, st =>
    let st := (xorshift (BitVec.ofNat 64 st)).toNat
    let r := draws n st
    (st / 2 ^ 48 :: r.1, r.2)

end Sys2Proof.Machine
end

