-- ==== Sys2Proof/Machine/Pix.lean ====
section
/-! DEFINITION. Pixels: the formats of Table 19.1, working values (19 R552), bilinear sampling (R554), colour matrices
(R556), blending (R558), and writing a pixel in a format (20 R592). A colour or alpha value is a whole number of 2^-24, in
which a binary16 component is exact; each stage rounds to a whole number of 2^-16. -/
namespace Sys2Proof.Machine
open Sys2Proof

/-- One pixel: three channels and alpha. -/
structure Px where
  c0 : Int
  c1 : Int
  c2 : Int
  a : Int
  deriving DecidableEq, Repr

/-- The value 1. -/
def pxOne : Int := 2 ^ 24

/-- n / d rounded to nearest even. -/
def rne (n : Int) (d : Nat) : Int :=
  let q := n.fdiv d
  let r := 2 * (n - q * d)
  if r < d then q else if (d : Int) < r then q + 1 else if q % 2 = 0 then q else q + 1

/-- A value of 2^-(24 + k) rounded to 16 fractional bits. -/
def rnd16 (k : Nat) (v : Int) : Int := rne v (2 ^ (8 + k)) * 256

/-- A value clamped to [0, 1]. -/
def clamp01 (v : Int) : Int := max 0 (min v pxOne)

/-- The working value of an unsigned component of n bits (R552). -/
def unsignedValue (n v : Nat) : Int := rne (v * 65536) (2 ^ n - 1) * 256

/-- The working value of a binary16 component: exact, a NaN as 0, clamped to [-8, 8) (R552). -/
def halfValue (v : Nat) : Int :=
  match decFlt (fmtOf 3) v with
  | .nan _ => 0
  | .inf neg => if neg then -8 * pxOne else 8 * pxOne - 256
  | .fin neg m e =>
    let x : Int := m * 2 ^ (e + 24).toNat
    max (-8 * pxOne) (min (if neg then -x else x) (8 * pxOne - 256))

/-- B, the bytes per pixel (Table 19.1). -/
def fmtB (fmt : Nat) : Nat :=
  match fmt with | 3 => 2 | 5 => 2 | 4 => 8 | _ => 4

/-- The 4:2:2 formats. -/
def is422 (fmt : Nat) : Bool := fmt = 5 || fmt = 6

/-- The mean of two values, rounded once. -/
def mean2 (x y : Int) : Int := rnd16 1 (x + y)

/-- Pixel x of a line of w pixels; `rd off n` is the little-endian number of n bytes at an offset of the line (Table 19.1,
R552). -/
def pxAt (fmt w : Nat) (rd : Nat → Nat → Nat) (x : Nat) : Px :=
  let o := fmtB fmt * x
  match fmt with
  | 0 => ⟨unsignedValue 8 (rd (o + 2) 1), unsignedValue 8 (rd (o + 1) 1), unsignedValue 8 (rd o 1), unsignedValue 8 (rd (o + 3) 1)⟩
  | 1 => ⟨unsignedValue 8 (rd (o + 2) 1), unsignedValue 8 (rd (o + 1) 1), unsignedValue 8 (rd o 1), pxOne⟩
  | 2 =>
    let v := rd o 4
    ⟨unsignedValue 10 (getBits v 20 10), unsignedValue 10 (getBits v 10 10), unsignedValue 10 (getBits v 0 10),
     unsignedValue 2 (getBits v 30 2)⟩
  | 3 =>
    let v := rd o 2
    ⟨unsignedValue 5 (getBits v 11 5), unsignedValue 6 (getBits v 5 6), unsignedValue 5 (getBits v 0 5), pxOne⟩
  | 4 => ⟨halfValue (rd (o + 4) 2), halfValue (rd (o + 2) 2), halfValue (rd o 2), halfValue (rd (o + 6) 2)⟩
  | _ =>
    let n := if fmt = 5 then 1 else 2
    let comp := fun k => if fmt = 5 then unsignedValue 8 (rd (k * n) 1) else unsignedValue 10 (rd (k * n) 2 / 64 % 1024)
    let i := x / 2
    let chroma := fun k =>
      if x % 2 = 0 || w ≤ 2 * (i + 1) then comp (4 * i + k) else mean2 (comp (4 * i + k)) (comp (4 * (i + 1) + k))
    ⟨comp (4 * i + 2 * (x % 2)), chroma 1, chroma 3, pxOne⟩

/-- The taps of bilinear sampling along an axis (R554): the first and second tap and the weight of the second, for output i of
n outputs from m inputs. -/
def taps (m n i : Nat) : Nat × Nat × Nat :=
  let step := m * 65536 / n
  let p := ((((2 * i + 1 : Nat) : Int) * step - 65536) / 2)
  let p := (max 0 (min p (((m - 1) * 65536 : Nat) : Int))).toNat
  let x0 := p / 65536
  (x0, min (x0 + 1) (m - 1), p / 256 % 256)

/-- The blend of two samples by a weight of 256, rounded once. -/
def lerp (w : Nat) (x y : Int) : Int := rnd16 8 (x * ((256 - w : Nat) : Int) + y * w)

/-- The same on pixels; a weight of 0 copies. -/
def lerpPx (w : Nat) (p q : Px) : Px :=
  if w = 0 then p else ⟨lerp w p.c0 q.c0, lerp w p.c1 q.c1, lerp w p.c2 q.c2, lerp w p.a q.a⟩

/-- Samples a source of sw × sh pixels for output (i, j) of dw × dh: the horizontal pass on both tap rows, then the vertical
one (R554). -/
def sample (sw sh dw dh : Nat) (get : Nat → Nat → Px) (i j : Nat) : Px :=
  let h := taps sw dw i
  let v := taps sh dh j
  let row := fun y => lerpPx h.2.2 (get h.1 y) (get h.2.1 y)
  lerpPx v.2.2 (row v.1) (row v.2.1)

/-- A signed 16-bit number. -/
def signed16v (v : Nat) : Int := if v % 65536 < 32768 then (v % 65536 : Nat) else (v % 65536 : Nat) - 65536

/-- A colour matrix of twelve raw values on three channels (R556). -/
def matrix (m : List Int) (p : Px) : Px :=
  let out := fun i =>
    rnd16 12 (m.getD (3 * i) 0 * p.c0 + m.getD (3 * i + 1) 0 * p.c1 + m.getD (3 * i + 2) 0 * p.c2 + m.getD (9 + i) 0 * pxOne)
  ⟨out 0, out 1, out 2, p.a⟩

/-- The identity matrix. -/
def idMatrix : List Int := [4096, 0, 0, 0, 4096, 0, 0, 0, 4096, 0, 0, 0]

/-- Every colour and alpha value clamped to [0, 1] (R552). -/
def clampPx (p : Px) : Px := ⟨clamp01 p.c0, clamp01 p.c1, clamp01 p.c2, clamp01 p.a⟩

/-- A layer's c′ and a′ from its alpha mode and its plane alpha P = plane / 255, each rounded once (R558). -/
def alphaForm (mode plane : Nat) (p : Px) : Px :=
  let byP := fun (x : Int) => rne (x * plane) (255 * 2 ^ 8) * 256
  let byAP := fun (x : Int) => rne (x * p.a * plane) (255 * 2 ^ 32) * 256
  match mode with
  | 0 => ⟨byP p.c0, byP p.c1, byP p.c2, byP pxOne⟩
  | 1 => ⟨byAP p.c0, byAP p.c1, byAP p.c2, byP p.a⟩
  | _ => ⟨byP p.c0, byP p.c1, byP p.c2, byP p.a⟩

/-- One value blended: c′ + dst × (1 − a′), rounded once and clamped to [0, 1] (R558). -/
def blend1 (c a d : Int) : Int := clamp01 (rnd16 24 (c * pxOne + d * (pxOne - a)))

/-- A formed layer pixel blended over a pixel. -/
def blendPx (l d : Px) : Px := ⟨blend1 l.c0 l.a d.c0, blend1 l.c1 l.a d.c1, blend1 l.c2 l.a d.c2, blend1 l.a l.a d.a⟩

/-- A value as an unsigned component of n bits, rounded to nearest even (R592). -/
def toUnsigned (n : Nat) (v : Int) : Nat := (rne (clamp01 v * (2 ^ n - 1)) (2 ^ 24)).toNat

/-- A value as binary16, rounded to nearest even. -/
def toHalf (v : Int) : Nat := (toFlt (fmtOf 3) 0 0 (.fin (decide (v < 0)) v.natAbs (-24))).1

/-- The bytes of a pixel in formats 0-4 (R592 step 3). -/
def pxBytes (fmt : Nat) (p : Px) : List Byte :=
  match fmt with
  | 0 => leBytes 1 (toUnsigned 8 p.c2) ++ leBytes 1 (toUnsigned 8 p.c1) ++ leBytes 1 (toUnsigned 8 p.c0) ++ leBytes 1 (toUnsigned 8 p.a)
  | 1 => leBytes 1 (toUnsigned 8 p.c2) ++ leBytes 1 (toUnsigned 8 p.c1) ++ leBytes 1 (toUnsigned 8 p.c0) ++ leBytes 1 0xFF
  | 2 => leBytes 4 (toUnsigned 10 p.c2 + toUnsigned 10 p.c1 * 2 ^ 10 + toUnsigned 10 p.c0 * 2 ^ 20 + toUnsigned 2 p.a * 2 ^ 30)
  | 3 => leBytes 2 (toUnsigned 5 p.c2 + toUnsigned 6 p.c1 * 2 ^ 5 + toUnsigned 5 p.c0 * 2 ^ 11)
  | _ => leBytes 2 (toHalf p.c2) ++ leBytes 2 (toHalf p.c1) ++ leBytes 2 (toHalf p.c0) ++ leBytes 2 (toHalf p.a)

/-- Whether a format stores alpha. -/
def hasAlpha (fmt : Nat) : Bool := fmt = 0 || fmt = 2 || fmt = 4

/-- A line of pixels in a format: pixel by pixel in formats 0-4, in pairs with the chroma averaged in 5 and 6 (R532, R615). -/
def lineBytes (fmt : Nat) (ps : List Px) : List Byte :=
  if is422 fmt then
    let n := if fmt = 5 then 1 else 2
    let enc := fun v => if fmt = 5 then leBytes n (toUnsigned 8 v) else leBytes n (toUnsigned 10 v * 64)
    (List.range (ps.length / 2)).flatMap fun i =>
      let p := ps.getD (2 * i) ⟨0, 0, 0, 0⟩
      let q := ps.getD (2 * i + 1) p
      enc p.c0 ++ enc (mean2 p.c1 q.c1) ++ enc q.c0 ++ enc (mean2 p.c2 q.c2)
  else ps.flatMap (pxBytes fmt)

end Sys2Proof.Machine
end

