-- ==== Sys2Proof/Machine/Head.lean ====
section
/-! DEFINITION. Display heads: timing (18 R512-R516), HEADOK_N (R528-R530), the line store and the fetch (R522-R526), and
genlock (R518-R521). -/
namespace Sys2Proof.Machine
open Sys2Proof

/-! Timing. -/

/-- DH.STATUS.STATE (Table 18.2). -/
def dhState (s : State) (n : Nat) : Nat := s.rd (pgDH n) F.DH_STATUS_STATE
def dhOFF : Nat := 0
def dhSTARTING : Nat := 1
def dhRUN : Nat := 2
def dhSTOPPING : Nat := 3

/-- The head's timing generator counts lines. -/
def scanning (s : State) (n : Nat) : Bool := dhState s n = dhRUN || dhState s n = dhSTOPPING

/-- Enters a head state: STATE, ENABLED and QUIESCED. -/
def setDhState (n st : Nat) (s : State) : State :=
  let pg := pgDH n
  let s := s.wr pg F.DH_STATUS_STATE st
  let s := s.wr pg F.HDR_PAGE_STATUS_ENABLED (b2n (!decide (st = 0)))
  s.wr pg F.HDR_PAGE_STATUS_QUIESCED (b2n (st = 0 && !s.running pg))

/-- A DH field in force (R516). -/
def dhNow (s : State) (n : Nat) (f : Fld) : Nat := s.rd (pgDH n + inForce) f

/-- Copies the staged words of a page at the given offsets to their values in force. -/
def takeStaged (pg : Nat) (offs : List Nat) (s : State) : State :=
  offs.foldl (fun s o => s.setWord (pg + inForce + o) (s.word (pg + o))) s

/-- The words that a start of the head takes: timing, polarity, pixel clock, FETCH, PLL and LS (R516). -/
def dhStartWords : List Nat := [0x100, 0x104, 0x108, 0x10C, 0x110, 0x114, 0x118, 0x400, 0x404, 0x414]

/-- The words that a frame boundary takes: BG and the genlock settings. -/
def dhFrameWords : List Nat := [0x11C, 0x120, 0x124, 0x128, 0x12C, 0x130]

/-- MODE_PENDING: a stored value differs from the value in force (R516). -/
def modePending (n : Nat) (s : State) : State :=
  let pg := pgDH n
  s.wr pg F.DH_STATUS_MODE_PENDING (b2n (dhStartWords.any fun o => !decide (s.word (pg + o) = s.word (pg + inForce + o))))

/-- The head's geometry in force. -/
def activeH (s : State) (n : Nat) : Nat := dhNow s n F.DH_TIMING_H_ACTIVE
def totalH (s : State) (n : Nat) : Nat := dhNow s n F.DH_TIMING_H_TOTAL
def activeV (s : State) (n : Nat) : Nat := dhNow s n F.DH_TIMING_V_ACTIVE
def totalV (s : State) (n : Nat) : Nat := dhNow s n F.DH_TIMING_V_TOTAL
def firstActive (s : State) (n : Nat) : Nat := dhNow s n F.DH_TIMING_V2_SYNC + dhNow s n F.DH_TIMING_V2_BACK
def pixHz (s : State) (n : Nat) : Nat := dhNow s n F.DH_PIXCLK_HZ

/-- A signed 32-bit number. -/
def signed32v (v : Nat) : Int := if v % 2 ^ 32 < 2 ^ 31 then (v % 2 ^ 32 : Nat) else (v % 2 ^ 32 : Nat) - 2 ^ 32

/-- f × 10^9: the pixel frequency with the pull applied (R512). -/
def pixRate (s : State) (n : Nat) : Int := pixHz s n * (1000000000 + signed32v (s.rd (pgDH n) F.DH_GL_PULL_PPB))

/-- Pixel periods since the last frame boundary. -/
def pixelsSince (s : State) (n : Nat) : Nat :=
  (((s.ticks - (s.head n).bound : Nat) : Int) * pixRate s n / 1000000000000000000).toNat

/-- The line the head is in, counted from the last frame boundary. -/
def lineNow (s : State) (n : Nat) : Nat := if totalH s n = 0 then 0 else pixelsSince s n / totalH s n

/-- POS as a read finds it (R541). -/
def posFresh (n : Nat) (s : State) : State :=
  if scanning s n && decide (0 < totalH s n) then
    (s.wr (pgDH n) F.DH_POS_LINE (lineNow s n)).wr (pgDH n) F.DH_POS_PIXEL (pixelsSince s n % totalH s n)
  else s

/-- Whether the stored timing lies within Table 18.1. -/
def timingOk (s : State) (n : Nat) : Bool :=
  let r := fun (f : Fld) => s.rd (pgDH n) f
  let ah := r F.DH_TIMING_H_ACTIVE
  let th := r F.DH_TIMING_H_TOTAL
  let sh := r F.DH_TIMING_H2_SYNC
  let bh := r F.DH_TIMING_H2_BACK
  let av := r F.DH_TIMING_V_ACTIVE
  let tv := r F.DH_TIMING_V_TOTAL
  let sv := r F.DH_TIMING_V2_SYNC
  let bv := r F.DH_TIMING_V2_BACK
  let hz := r F.DH_PIXCLK_HZ
  decide (320 ≤ ah) && decide (ah ≤ 7680) && ah % 2 = 0 && decide (8 ≤ sh) && decide (8 ≤ bh)
    && decide (sh + bh + ah + 8 ≤ th) && decide (th ≤ 16383) && decide (tv ≤ 16383)
    && decide (200 ≤ av) && decide (av ≤ 4320) && decide (1 ≤ sv) && decide (1 ≤ bv)
    && decide (sv + bv + av + 1 ≤ tv) && decide (r F.DH_FETCH_LEAD ≤ sv + bv)
    && decide (25000000 ≤ hz) && decide (hz ≤ 2400000000) && decide (15 * (th * tv) ≤ hz) && decide (hz ≤ 240 * (th * tv))

/-- Line units reserved by the heads that are not OFF (R523). -/
def reservedUnits (s : State) : Nat :=
  (List.range 4).foldl (fun u n => if dhState s n = 0 then u else u + dhNow s n F.DH_LS_RESERVE) 0

/-! HEADOK_N. -/

/-- The conditions of R528 that do not hold, as REL_CAUSE shows them. -/
def hokCauses (s : State) (n : Nat) : Nat :=
  let pg := pgDH n
  b2n (!decide (dhState s n = dhRUN) || !s.flag pg F.DH_HEADOK_ARM)
    + 2 * b2n (!decide (s.rd (pgDPTX n) F.DPTX_LINK_STATUS_STATE = 3))
    + 4 * b2n (s.head n).lateNow
    + 8 * b2n (s.flag (pgSIG n) F.SIG_STATUS_MISMATCH)
    + 16 * b2n (s.flag pg F.DH_HEADOK_LOCK_REQ && !decide (s.rd pg F.DH_GL_STATUS_STATE = 2))
    + 32 * b2n (s.flag pg F.DH_HEADOK_FORCE_RELEASE || s.flag pg F.DH_STATUS_LATCHED)

/-- HEADOK_N[n] as the conditions stand (R529): the pin is released when one of them has ceased to hold. -/
def hokJudge (n : Nat) (s : State) : State :=
  let pg := pgDH n
  let c := hokCauses s n
  if c = 0 then s
  else
    let s := s.modHead n fun h => { h with held := false }
    if !s.flag pg F.DH_STATUS_HEADOK_ON then s
    else
      let s := (s.wr pg F.DH_STATUS_HEADOK_ON 0).wr pg F.DH_STATUS_REL_CAUSE c
      let s := if s.flag pg F.DH_HEADOK_LATCH && !decide (c / 2 % 8 = 0) then s.wr pg F.DH_STATUS_LATCHED 1 else s
      logEv pg 0x1808 (irq pg 4 (s.bump pg F.DH_BAD_FRAMES_RELEASES)) c

/-- At a frame boundary HEADOK_N[n] is asserted after RECOVER whole frames in which every condition has held (R529). -/
def hokRecover (n : Nat) (s : State) : State :=
  let pg := pgDH n
  let clean := if (s.head n).held then (s.head n).clean + 1 else 0
  let ok := decide (hokCauses s n = 0)
  let s := s.modHead n fun h => { h with clean := clean, held := ok }
  if ok && !s.flag pg F.DH_STATUS_HEADOK_ON && decide (s.rd pg F.DH_HEADOK_RECOVER ≤ clean) then
    logEv pg 0x0809 (irq pg 5 (s.wr pg F.DH_STATUS_HEADOK_ON 1))
  else s

/-- A write of HEADOK by the management domain (R529, R530): ARM to RECOVER take effect at once, and REARM clears
LATCHED. -/
def headokWrite (n v : Nat) (s : State) : State :=
  let pg := pgDH n
  let s := (s.wr pg F.DH_HEADOK_ARM v).wr pg F.DH_HEADOK_LATCH (v / 2)
  let s := (s.wr pg F.DH_HEADOK_LOCK_REQ (v / 4)).wr pg F.DH_HEADOK_FORCE_RELEASE (v / 16)
  let s := s.wr pg F.DH_HEADOK_RECOVER (max 1 (v / 256 % 16))
  let s := if bitOf v 3 then s.wr pg F.DH_STATUS_LATCHED 0 else s
  hokJudge n s

/-- The write as any requester makes it: all but the management domain are recorded with cause NOT_OWNER (R530). -/
def headokAccess (req n v : Nat) (s : State) : State :=
  if req = mgmt then headokWrite n v s else pageFault (pgDH n) causeNotOwner req true 0x134 s

/-- DH_HEADOK_REARM (R529): a write of HEADOK with REARM. -/
def execDhHeadokRearm (req n : Nat) (v : Word) (s : State) : Host.Outcome State Fault Refusal :=
  live s (regWrite req (pgDH n + 0x134) (headokAccess req n v.toNat))

/-- A write of DH.CNT_CLR (R541). -/
def dhCntClr (n v : Nat) (s : State) : State :=
  if bitOf v 0 then s.zeroWords [pgDH n + 0x14C, pgDH n + 0x150, pgDH n + 0x154, pgDH n + 0x164] else s

/-- DH_CNT_CLR (R541). -/
def execDhCntClr (req n : Nat) (v : Word) (s : State) : Host.Outcome State Fault Refusal :=
  live s (regWrite req (pgDH n + 0x174) (dhCntClr n v.toNat))

/-! The fetch. -/

/-- A layer's configuration in force, as its page shows it (R583). -/
def layerNow (s : State) (l : Nat) : LayerEntry :=
  let r := fun (f : Fld) => s.rd (layerPg l) f
  { layer := l, fmt := r F.LAYER_STATE_FMT, alpha := r F.LAYER_STATE_ALPHA, plane := r F.LAYER_STATE_PLANE_ALPHA,
    icscEn := decide (r F.LAYER_STATE_ICSC_EN = 1), base := r F.LAYER_BASE_LO_BASE + r F.LAYER_BASE_HI_BASE * 2 ^ 32,
    stride := r F.LAYER_STRIDE_BYTES, sx := r F.LAYER_SRC_XY_X, sy := r F.LAYER_SRC_XY_Y, sw := r F.LAYER_SRC_WH_W,
    sh := r F.LAYER_SRC_WH_H, dx := r F.LAYER_DST_XY_X, dy := r F.LAYER_DST_XY_Y, dw := r F.LAYER_DST_WH_W,
    dh := r F.LAYER_DST_WH_H, icsc := (List.range 12).map fun i => s.rd (layerPg l) F.LAYER_ICSC_VALUE i }

/-- The layers SHOWN on a head, from the bottom up (R557). -/
def shownOn (s : State) (n : Nat) : List LayerEntry :=
  ((List.range 12).filterMap fun z =>
    (List.range 24).find? fun l =>
      layerCond s l = 2 && layerHead s l = n && s.rd (layerPg l) F.LAYER_STATE_Z = z).map (layerNow s)

/-- Whether a layer covers active line a. -/
def coversLine (e : LayerEntry) (a : Nat) : Bool := decide (e.dy ≤ a) && decide (a < e.dy + e.dh)

/-- The source rows a layer fetches for active line a: both tap rows of a layer scaled vertically (R555). -/
def rowsFor (e : LayerEntry) (a : Nat) : List Nat :=
  if e.sh = e.dh then [a - e.dy]
  else
    let t := taps e.sh e.dh (a - e.dy)
    [t.1, t.2.1]

/-- The chip offset of the first fetched byte of a source row (R553). -/
def rowStart (e : LayerEntry) (row : Nat) : Nat := gaOff (e.base + (e.sy + row) * e.stride + e.sx * fmtB e.fmt)

/-- The aligned 256-byte blocks of n bytes from an offset on. -/
def blocks256 (o n : Nat) : List Nat :=
  if n = 0 then [] else (List.range ((o + n - 1) / 256 - o / 256 + 1)).map fun k => (o / 256 + k) * 256

/-- The fetch of active line a: the units it needs and its reads (R522, R524). -/
def lineJob (s : State) (n a : Nat) : LineJob :=
  let es := ((shownOn s n).filter fun e => coversLine e a).flatMap fun e => (rowsFor e a).map fun r => (e, r)
  { line := a, units := es.foldl (fun u x => u + (x.1.sw * fmtB x.1.fmt + 16383) / 16384) 0, granted := false,
    reads := es.flatMap fun x => blocks256 (rowStart x.1 x.2) (x.1.sw * fmtB x.1.fmt), flying := 0, got := [], bad := [],
    late := false }

/-- Line units a head's granted lines hold. -/
def unitsUsed (s : State) (n : Nat) : Nat :=
  (s.head n).jobs.foldl (fun u j => if j.granted then u + j.units else u) 0

/-- Units a head uses beyond its reserve, with u more. -/
def overReserve (s : State) (n u : Nat) : Nat := unitsUsed s n + u - dhNow s n F.DH_LS_RESERVE

/-- Whether a line's units are free: its head's free reserved units, and any shortfall from units that no head reserves
(R524). -/
def unitsFree (s : State) (n u : Nat) : Bool :=
  decide ((List.range 4).foldl (fun t m => t + (if m = n then overReserve s n u else overReserve s m 0)) 0 + reservedUnits s ≤ 256)

/-- The line a head fetches next: the first whose requests have not all been issued. -/
def fetchJob (s : State) (n : Nat) : Option LineJob := (s.head n).jobs.find? fun j => !j.granted || !j.reads.isEmpty

/-- Changes the job of a line. -/
def modLine (n a : Nat) (f : LineJob → LineJob) (s : State) : State :=
  s.modHead n fun h => { h with jobs := h.jobs.map fun j => if j.line = a then f j else j }

/-- The endpoint of a head's line fetch. -/
def epLine (n : Nat) : Nat := 0xA10 + n

/-- A read of n bytes of local memory by the display subsystem; `arg` and `arg2` are the endpoint's own. -/
def displayRead (ep use off n arg arg2 : Nat) (s : State) : State :=
  send { ep := ep, req := mgmt, dst := s.chipNum, offset := off, op := opREAD, words := n / 4, data := [], tc := 0,
         ordered := false, use := use, arg := arg, arg2 := arg2 } s

/-- Issues up to `fuel` reads of a head's line fetch: lines in order, at most OUTSTANDING in flight (R524). -/
def fetchIssue (n : Nat) : Nat → State → State
  | 0, s => s
  | fuel + 1, s =>
    match fetchJob s n with
    | none => s
    | some j =>
      match j.reads with
      | [] => s
      | o :: r =>
        if !j.granted || decide (s.rd (pgDH n) F.DH_FETCH_X_OUTSTANDING ≤ (s.waitingOf (epLine n)).length) then s
        else
          fetchIssue n fuel
            (displayRead (epLine n) 1 o 256 j.line o
              (modLine n j.line (fun j => { j with reads := r, flying := j.flying + 1 }) s))

/-- The head that waits for line units and is served next at the fetch arbiter (R43, R44). -/
def unitsTurn (s : State) : Option (Nat × LineJob) :=
  ((List.range 4).map fun k => (s.lsLast + 1 + k) % 4).findSome? fun n =>
    match fetchJob s n with
    | none => none
    | some j => if j.granted then none else some (n, j)

/-- One arbitration step of the line store: waiting heads are served in rotating order while each is met in full (R44). -/
def unitsStep : Nat → State → State
  | 0, s => s
  | fuel + 1, s =>
    match unitsTurn s with
    | none => s
    | some (n, j) =>
      if unitsFree s n j.units then
        unitsStep fuel
          (fetchIssue n 128 { modLine n j.line (fun j => { j with granted := true }) s with lsLast := n })
      else s

/-- DH_LINE_FETCH_START (R524): the fetch of active line a begins; it takes its units and issues its reads, or waits. -/
def execDhLineFetchStart (n a : Nat) (s : State) : Host.Outcome State Fault Refusal :=
  live s fun s =>
    if !scanning s n || decide (activeV s n ≤ a) || (s.head n).jobs.any (fun j => j.line == a) then s
    else unitsStep 4 (s.modHead n fun h => { h with jobs := h.jobs ++ [lineJob s n a] })

/-- DH_LINE_UNITS_GRANT (R524): units have become free, and waiting fetches are served. -/
def execDhLineUnitsGrant (s : State) : Host.Outcome State Fault Refusal := live s (unitsStep 4)

/-- The response to a read of a line fetch: data are kept, a poisoned read is marked (Table 24.2), and a read that failed
leaves free bytes (log 3). -/
def lineResult (n a o : Nat) (r : Res) (s : State) : State :=
  let down := fun (j : LineJob) => { j with flying := j.flying - 1 }
  let keep := fun (bs : List Byte) (s : State) =>
    modLine n a (fun j => { down j with got := mwrite (fun _ => 0) j.got o bs }) s
  let s := match r with
    | .data bs false => keep bs s
    | .data bs true =>
      let s := poisonSeen F.ERR_POISON_B_DISPLAY (keep bs (modLine n a (fun j => { j with bad := j.bad ++ [o] }) s))
      if (s.head n).poisNow then s else logEv (pgDH n) 0x2810 (s.modHead n fun h => { h with poisNow := true })
    | _ =>
      let x := freeBytes 256 s
      keep x.1 x.2
  unitsStep 4 (fetchIssue n 128 s)

/-- A line's fetch is complete. -/
def LineJob.complete (j : LineJob) : Bool := j.granted && j.reads.isEmpty && j.flying == 0

/-- The effect of DH_LINE_DEADLINE out of reset (R526). -/
def dhLineDeadlineEffect (n a : Nat) (s : State) : State :=
  match (s.head n).jobs.find? (fun j => j.line == a) with
  | none => s
  | some j =>
    if j.complete || j.late || !scanning s n then s
    else
      let h := s.head n
      let s := modLine n a (fun j => { j with late := true }) (irq (pgDH n) 2 (s.bump (pgDH n) F.DH_LATE_LINES))
      let s := if h.lateNow then s else
        let s := s.bump (pgDH n) F.DH_BAD_FRAMES_FRAMES
        let s := if h.latePrev then s else logEv (pgDH n) 0x2803 s
        s.modHead n fun h => { h with lateNow := true }
      hokJudge n s

/-- DH_LINE_DEADLINE (R526): at the start of the line before active line a, a fetch not complete makes the line LATE. -/
def execDhLineDeadline (n a : Nat) (s : State) : Host.Outcome State Fault Refusal :=
  live s (dhLineDeadlineEffect n a)

/-! Genlock. -/

/-- Genlock states (Table 18.3). -/
def glNONE : Nat := 0
def glACQUIRING : Nat := 1
def glLOCKED : Nat := 2
def glHOLDOVER : Nat := 3

/-- GL_STATUS.STATE. -/
def glState (s : State) (n : Nat) : Nat := s.rd (pgDH n) F.DH_GL_STATUS_STATE

/-- Enters a genlock state; a change sets bit 6 (R521). -/
def glEnter (n st : Nat) (s : State) : State :=
  let pg := pgDH n
  if glState s n = st then s
  else
    let s := s.modHead n fun h => { h with first := decide (st = glACQUIRING), lockRun := 0, outRun := 0 }
    let s := s.wr pg F.DH_GL_STATUS_STATE st
    let s := if st = glNONE then s.wr pg F.DH_GL_PULL_PPB 0 else s
    hokJudge n (irq pg 6 (if st = glLOCKED then logEv pg 0x0805 s else s))

/-- P × HZ in nanoseconds: the expected period of the reference (R518). -/
def glPeriod (s : State) (n : Nat) : Nat := dhNow s n F.DH_GENLOCK_RATIO * totalH s n * totalV s n * 1000000000

/-- The m for which an interval is in range, if any (R519). -/
def glRange (s : State) (n i : Nat) : Option Nat :=
  let p : Int := (glPeriod s n : Nat)
  let ppm : Int := (s.rd (pgDH n) F.DH_GL_LIMITS_RANGE_PPM : Nat)
  ((List.range (s.rd (pgDH n) F.DH_GL_LIMITS_MISS)).map (· + 1)).find? fun m =>
    decide (((i * pixHz s n - m * p : Int).natAbs : Int) * 1000000 ≤ ppm * m * p)

/-- A quotient in whole units: exact when it is whole, and one of its two neighbours, freely, when it is not (log 3). -/
def freeRound (n : Int) (d : Nat) (s : State) : Int × State :=
  let q := n.fdiv d
  if q * d = n then (q, s)
  else
    let x := s.choose
    (if x.1 then q + 1 else q, x.2)

/-- A signed number as a 32-bit field. -/
def enc32 (v : Int) : Nat := (v % 4294967296).toNat

/-- The phase error at an in-range reference instant, and what the head does about it (R520, Table 18.3). The error is y / d
ns, exactly, and is taken against the boundaries as the lines added so far move them. -/
def glInstant (n : Nat) (s : State) : State :=
  let pg := pgDH n
  let d := pixRate s n
  let frame : Int := (totalH s n * totalV s n * 1000000000000000000 : Nat)
  if d ≤ 0 || frame = 0 then s
  else
    let added : Int := ((s.head n).jump * totalH s n * 1000000000000000000 : Nat)
    let x := ((((s.head n).bound : Int) - s.ticks - signed32v (dhNow s n F.DH_GL_OFFSET_NS)) * d + added) % frame
    let y := if frame < 2 * x then x - frame else x
    let jumped := decide ((s.rd pg F.DH_GL_JUMP_THRESH_US * 1000 : Nat) * d < (y.natAbs : Int))
    let e := freeRound y d.toNat s
    let s := e.2.wr pg F.DH_GL_PHASE_NS (enc32 e.1)
    if glState s n = glACQUIRING && jumped && decide (dhNow s n F.DH_GENLOCK_JUMP_EN = 1) then
      let line : Int := (totalH s n * 1000000000000000000 : Nat)
      let k := ((2 * ((-y) % frame) + line) / (2 * line)).toNat
      let later := decide (firstActive s n + activeV s n ≤ lineNow s n)
      let s := s.modHead n fun h =>
        if later then { h with jumpNext := h.jumpNext + k, lockRun := 0 } else { h with jump := h.jump + k, lockRun := 0 }
      s.bump pg F.DH_GL_COUNTS_JUMPS
    else
      let q := freeRound (-(s.rd pg F.DH_GL_LOOP_GAIN : Int) * y * pixHz s n)
        (256 * d.toNat * (dhNow s n F.DH_GENLOCK_RATIO * totalH s n * totalV s n)) s
      let lim : Int := (s.rd pg F.DH_GL_LOOP_PULL_PPM * 1000 : Nat)
      let s := q.2.wr pg F.DH_GL_PULL_PPB (enc32 (max (-lim) (min q.1 lim)))
      if glState s n = glLOCKED then (if jumped then glEnter n glACQUIRING s else s)
      else if glState s n = glACQUIRING then
        let tol := decide ((y.natAbs : Int) ≤ (dhNow s n F.DH_GENLOCK_LOCK_TOL_NS : Nat) * d)
        let run := if tol then (s.head n).lockRun + 1 else 0
        let s := s.modHead n fun h => { h with lockRun := run }
        if 4 ≤ run then glEnter n glLOCKED s else s
      else s

/-- An accepted pulse (R519): in range, it moves HOLDOVER to ACQUIRING and is acted on; out of range, the third in a row
enters HOLDOVER. -/
def glAccept (n : Nat) (s : State) : State :=
  let pg := pgDH n
  let h := s.head n
  let m := if h.first then some 1 else match h.pulse with
    | none => some 1
    | some t => glRange s n (s.ticks - t)
  let s := s.wr64 pg F.DH_GL_MET_LO_MET F.DH_GL_MET_HI_MET s.met
  let s := s.modHead n fun h => { h with pulse := some s.ticks, first := false }
  match m with
  | some m =>
    let s := s.bump pg F.DH_GL_COUNTS_MISSING (m - 1)
    let s := (s.modHead n fun h => { h with outRun := 0 }).wr pg F.DH_GL_STATUS_RANGE 0
    let s := if glState s n = glHOLDOVER then
        (glEnter n glACQUIRING s).modHead n fun h => { h with first := false }
      else s
    glInstant n s
  | none =>
    let s := s.bump pg F.DH_GL_COUNTS_RANGE
    let run := h.outRun + 1
    let s := s.modHead n fun h => { h with outRun := run, lockRun := 0 }
    let s := if 3 ≤ run then s.wr pg F.DH_GL_STATUS_RANGE 1 else s
    if 3 ≤ run && (glState s n = glACQUIRING || glState s n = glLOCKED) then
      (logEv pg 0x1807 (logEv pg 0x1806 (glEnter n glHOLDOVER s))).modHead n fun h => { h with outRun := run }
    else s

/-- One head meets a pulse of its polarity (R519). -/
def glPulse (n : Nat) (s : State) : State :=
  let short := match (s.head n).pulse with
    | none => false
    | some t => decide ((s.ticks - t) * pixHz s n * 100 < s.rd (pgDH n) F.DH_GL_LIMITS_MIN_PCT * glPeriod s n)
  if short then s.bump (pgDH n) F.DH_GL_COUNTS_SHORT else glAccept n s

/-- GENLOCK_PULSE (R519): an edge of GENLOCK_IN after which the level holds for `ns`; every head whose source is the pin and
whose polarity it has samples it. A head that does not scan takes no reference. -/
def execGenlockPulse (falling : Bool) (ns : Nat) (s : State) : Host.Outcome State Fault Refusal :=
  live s fun s =>
    if ns < 100 then s
    else (List.range 4).foldl (fun s n =>
      if scanning s n && dhNow s n F.DH_GENLOCK_SOURCE = 1 && decide (glState s n ≠ 0)
          && dhNow s n F.DH_GENLOCK_EDGE = b2n falling then glPulse n s
      else s) s

/-- The Metronome stands at a reference instant of a head whose source is MET (R518). -/
def atMetInstant (s : State) (n : Nat) : Bool :=
  let p := dhNow s n F.DH_GL_PERIOD_PERIOD
  let t0 : Nat := dhNow s n F.DH_GL_T0_LO_MET + dhNow s n F.DH_GL_T0_HI_MET * 2 ^ 32
  let d := (((s.met : Int) - t0) * 64 % p).toNat
  decide (0 < p) && (decide (d ≤ 32) || decide (p ≤ d + 32))

/-- GENLOCK_MET_INSTANT (R518): a reference instant of the Metronome, always in range. -/
def execGenlockMetInstant (n : Nat) (s : State) : Host.Outcome State Fault Refusal :=
  live s fun s =>
    if scanning s n && dhNow s n F.DH_GENLOCK_SOURCE = 2 && decide (glState s n ≠ 0) && atMetInstant s n then
      let s := if glState s n = glHOLDOVER then glEnter n glACQUIRING s else s
      glInstant n (s.modHead n fun h => { h with first := false })
    else s

/-- GENLOCK_MISS_TIMEOUT (R521): no accepted in-range instant for MISS × P; the head keeps its last pull. -/
def execGenlockMissTimeout (n : Nat) (s : State) : Host.Outcome State Fault Refusal :=
  live s fun s =>
    if scanning s n && (glState s n = glACQUIRING || glState s n = glLOCKED) then
      logEv (pgDH n) 0x1806 (glEnter n glHOLDOVER s)
    else s

end Sys2Proof.Machine
end

