-- ==== Sys2Proof/Machine/Cmt.lean ====
section
/-! DEFINITION. Display fence slots (19 R562-R564) and commits (R565-R573). -/
namespace Sys2Proof.Machine
open Sys2Proof

/-- Whether Table 3.4 as R580 refines it for CMT lets a requester write an offset of the page. -/
def cmtMayWrite (s : State) (req off : Nat) : Bool :=
  req = mgmt
    || (decide (0x100 ≤ off) && decide (off < 0x180) && decide (s.owner (pgDH ((off - 0x100) / 0x20)) = req))
    || decide (off = 0x180)
    || (decide (0x200 ≤ off) && decide (off < 0x300) && fenceHeld s ((off - 0x200) / 4)
        && decide (fenceHolder s ((off - 0x200) / 4) = req))

/-- Whether it lets a requester read an offset. -/
def cmtMayRead (s : State) (req off : Nat) : Bool :=
  cmtMayWrite s req off || decide (off < 8) || s.flag pgCMT F.OWN_PAGE_OWNER_SHARED_READ
    || (decide (0x190 ≤ off) && decide (off < 0x19C)) || (decide (0x300 ≤ off) && decide (off < 0x340))

/-- A write of a CMT register (R580). -/
def cmtWriteFrom (src req a : Nat) (eff : State → State) (s : State) : State :=
  let chk := if cmtMayWrite s req (a % 0x1000) then checkWrite s mgmt a else checkWrite s req a
  regWriteAs (if !s.done && !decide (req = mgmt) then .notServed else chk) src req a eff s

/-- The same by a requester of this chip. -/
def cmtWrite (req off : Nat) (eff : State → State) (s : State) : State :=
  cmtWriteFrom s.chipNum req (pgCMT + off) eff s

/-! Fence slots. -/

/-- The value of a slot. -/
def fenceVal (s : State) (i : Nat) : Nat := s.rd pgCMT F.CMT_FENCE_VALUE i

/-- A request of a slot is refused (R562, R564). -/
def fenceRefused (req : Nat) (s : State) : State := pageFault pgCMT causeRefused req true 0x180 s

/-- A write of FENCE_ALLOC with FREE = 0 (R562): the slot asked for, or the lowest free one, is held by the writer with
value 0. -/
def fenceAlloc (req v : Nat) (s : State) : State :=
  let want := if bitOf v 6 then (List.range 64).find? fun i => !fenceHeld s i
    else if fenceHeld s (v % 64) then none else some (v % 64)
  match want with
  | none => fenceRefused req (irq pgCMT 17 (s.bump pgCMT F.CMT_FENCE_COUNTS_REFUSED))
  | some i =>
    let s := (s.wr pgCMT F.CMT_FENCE_OWNER_HOLDER req i).wr pgCMT F.CMT_FENCE_OWNER_HELD 1 i
    s.wr pgCMT F.CMT_FENCE_VALUE 0 i

/-- A write of FENCE_ALLOC with FREE = 1 (R564): only the holder frees a slot. -/
def fenceRelease (req v : Nat) (s : State) : State :=
  let i := v % 64
  if fenceHeld s i && decide (fenceHolder s i = req) then fenceFree i s else fenceRefused req s

/-- A write of FENCE_ALLOC. -/
def fenceAllocWrite (req v : Nat) (s : State) : State := if bitOf v 8 then fenceRelease req v s else fenceAlloc req v s

/-- The MAX of R31 on a slot: the value moves to `v` when v is at or after it. -/
def fenceMax (i v : Nat) (s : State) : State :=
  let s := s.bump pgCMT F.CMT_FENCE_SIGNALS_COUNT
  if atOrAfter 32 v (fenceVal s i) then s.wr pgCMT F.CMT_FENCE_VALUE v i else s

/-- Whether a requester may MAX a slot: its holder, or the management domain (R563, Table 12.5). -/
def fenceMay (s : State) (req i : Nat) : Bool :=
  req = mgmt || (fenceHeld s i && decide (fenceHolder s i = req))

/-- An atomic on a slot that is denied (R563, R674). -/
def fenceDenied (req src i : Nat) (s : State) : State :=
  irq pgCMT 16 ((denyCount req src 4 (winBase + pgCMT + 0x200 + 4 * i) s).bump pgCMT F.CMT_FENCE_COUNTS_DENIED)

/-- CMT_FENCE_ALLOC (R562): a write of FENCE_ALLOC with FREE = 0. -/
def execCmtFenceAlloc (req : Nat) (v : Word) (s : State) : Host.Outcome State Fault Refusal :=
  live s (cmtWrite req 0x180 (fenceAlloc req v.toNat))

/-- CMT_FENCE_FREE (R564): a write of FENCE_ALLOC with FREE = 1. -/
def execCmtFenceFree (req : Nat) (v : Word) (s : State) : Host.Outcome State Fault Refusal :=
  live s (cmtWrite req 0x180 (fenceRelease req v.toNat))

/-- CMT_FENCE_SET (R563): a register write of FENCE[i]. -/
def execCmtFenceSet (req i : Nat) (v : Word) (s : State) : Host.Outcome State Fault Refusal :=
  live s (cmtWrite req (0x200 + 4 * i) fun s => s.wr pgCMT F.CMT_FENCE_VALUE v.toNat i)

/-- CMT_FENCE_MAX (R31, R563): an atomic MAX_MOD of 32 bits on FENCE[i] by a requester of this chip. -/
def execCmtFenceMax (req i : Nat) (v : Word) (s : State) : Host.Outcome State Fault Refusal :=
  live s fun s => if fenceMay s req i then fenceMax i v.toNat s else fenceDenied req s.chipNum i s

/-- A write of CMT.CNT_CLR (R587). -/
def cmtCntClr (v : Nat) (s : State) : State :=
  if bitOf v 0 then
    s.zeroWords ([pgCMT + 0x184, pgCMT + 0x188] ++ (List.range 4).map fun n => pgCMT + 0x11C + 0x20 * n)
  else s

/-- CMT_CNT_CLR (R587): a write of CNT_CLR. -/
def execCmtCntClr (req : Nat) (v : Word) (s : State) : Host.Outcome State Fault Refusal :=
  live s (cmtWrite req 0x18C (cmtCntClr v.toNat))

/-! The record. -/

/-- The endpoint of a head's commit. -/
def epCommit (n : Nat) : Nat := 0xA14 + n

/-- Pieces of n bytes from an offset on that lie within aligned 256-byte units. -/
def pieces256 (o n : Nat) : List (Nat × Nat) :=
  (blocks256 o n).map fun b => (max b o, min (b + 256) (o + n) - max b o)

/-- Reads of the record go out (R567): the header first, then the entries it announces. -/
def recordReads (n o k : Nat) (s : State) : State :=
  (pieces256 o k).foldl (fun s x => displayRead (epCommit n) 1 x.1 x.2 x.1 0 s)
    (s.modHead n fun h => { h with commit := h.commit.map fun c => { c with flying := c.flying + (pieces256 o k).length } })

/-- A commit field of the CMT page, block n. -/
def cmtRd (s : State) (n : Nat) (f : Fld) : Nat := s.rd pgCMT f 0 n
def cmtWr (n : Nat) (f : Fld) (v : Nat) (s : State) : State := s.wr pgCMT f v 0 n

/-- A GO is refused: it counts and is recorded (R566, R568). -/
def commitRefused (req n : Nat) (s : State) : State :=
  pageFault pgCMT causeRefused req true (0x108 + 0x20 * n) (s.bump pgCMT F.CMT_COUNTS_REFUSALS 1 0 n)

/-- An accepted or refused GO (R566). -/
def commitGo (req n v : Nat) (s : State) : State :=
  if !decide (cmtRd s n F.CMT_STATUS_STATE = 0) || !s.running pgCMT then commitRefused req n s
  else
    let addr := cmtRd s n F.CMT_ADDR_LO_ADDR * 64 + cmtRd s n F.CMT_ADDR_HI_ADDR * 2 ^ 32
    let c : Commit := { tag := v / 2 ^ 16, req := req, addr := addr, got := [], flying := 0, bad := false,
                        cancel := false, entries := [], granted := [], fences := [], ocsc := none, policy := 0, timeout := 0,
                        misses := 0, line := 0 }
    let s := cmtWr n F.CMT_STATUS_STATE 1 (s.modHead n fun h => { h with commit := some c })
    if hbmSize ≤ addr then s.modHead n fun h => { h with commit := h.commit.map fun c => { c with bad := true } }
    else recordReads n addr 128 s

/-- A CANCEL (R572): a PENDING commit is discarded, a FETCHING one once its checks end. -/
def commitCancel (n : Nat) (s : State) : State :=
  match cmtRd s n F.CMT_STATUS_STATE with
  | 2 => commitDiscard n 6 s
  | 1 => s.modHead n fun h => { h with commit := h.commit.map fun c => { c with cancel := true } }
  | _ => s

/-- A write of HC[n].CMD: CANCEL meets the commit there is, then GO submits one. -/
def commitCmd (req n v : Nat) (s : State) : State :=
  let s := if bitOf v 1 then commitCancel n s else s
  if bitOf v 0 then commitGo req n v s else s

/-- CMT_COMMIT_GO (R566): a write of CMD with GO. -/
def execCmtCommitGo (req n : Nat) (v : Word) (s : State) : Host.Outcome State Fault Refusal :=
  live s (cmtWrite req (0x108 + 0x20 * n) (commitGo req n v.toNat))

/-- CMT_COMMIT_CANCEL (R572): a write of CMD with CANCEL. -/
def execCmtCommitCancel (req n : Nat) (v : Word) (s : State) : Host.Outcome State Fault Refusal :=
  live s (cmtWrite req (0x108 + 0x20 * n) fun s => if bitOf v.toNat 1 then commitCancel n s else s)

/-- A number of k bytes at an offset of the record. -/
def recNum (c : Commit) (o k : Nat) : Nat := leNat (mread (fun _ => 0) c.got (c.addr + o) k)

/-- The response to a read of the record; once the header is there, the entries are read. -/
def commitResult (n o : Nat) (r : Res) (s : State) : State :=
  match (s.head n).commit with
  | none => s
  | some c =>
    let upd := fun (f : Commit → Commit) (s : State) => s.modHead n fun h => { h with commit := h.commit.map f }
    match r with
    | .data bs false =>
      let s := upd (fun c => { c with flying := c.flying - 1, got := mwrite (fun _ => 0) c.got o bs }) s
      match (s.head n).commit with
      | none => s
      | some c' =>
        let layers := recNum c' 4 4 % 16
        if decide (o < c.addr + 128) && c'.flying = 0 && decide (1 ≤ layers) && decide (layers ≤ 12) then
          (if hbmSize < c.addr + 128 + 64 * layers then upd (fun c => { c with bad := true }) s
           else recordReads n (c.addr + 128) (64 * layers) s)
        else s
    | .data _ true => poisonSeen F.ERR_POISON_B_DISPLAY (upd (fun c => { c with flying := c.flying - 1, bad := true }) s)
    | _ => upd (fun c => { c with flying := c.flying - 1, bad := true }) s

/-! The checks of Table 19.4. -/

/-- Layer entry i of a record, its LAYER field still as written: the index, or 31 (R565). -/
def recEntry (c : Commit) (i : Nat) : LayerEntry :=
  let o := 128 + 64 * i
  let ctrl := recNum c o 4
  let half := fun k => recNum c (o + k) 2
  { layer := getBits ctrl 1 5, fmt := getBits ctrl 8 4, alpha := getBits ctrl 12 2, plane := getBits ctrl 16 8,
    icscEn := bitOf ctrl 24, base := recNum c (o + 8) 8, stride := recNum c (o + 0x10) 4 % 2 ^ 18,
    sx := half 0x14, sy := half 0x16, sw := half 0x18, sh := half 0x1A, dx := half 0x1C, dy := half 0x1E,
    dw := half 0x20, dh := half 0x22, icsc := (List.range 12).map fun k => half (0x24 + 2 * k) }

/-- Whether entry i asks for a GFX layer. -/
def recGfx (c : Commit) (i : Nat) : Bool := bitOf (recNum c (128 + 64 * i) 4) 0

/-- Whether the HBM granules that a range touches are assigned to a requester. -/
def granulesOk (s : State) (req o n : Nat) : Bool :=
  decide (o + n ≤ hbmSize) && decide (0 < n) &&
  (List.range ((o + n - 1) / 2 ^ 30 - o / 2 ^ 30 + 1)).all fun k =>
    fget (fun _ => mgmt) s.granOwner (o / 2 ^ 30 + k) = req

/-- FMT is allowed for the kind, and so is LAYER (Table 19.1, Table 19.3). -/
def formOk (gfx : Bool) (e : LayerEntry) : Bool :=
  decide (e.fmt ≤ if gfx then 4 else 6) && (e.layer = 31 || decide (e.layer ≤ if gfx then 15 else 7))

/-- Check 2 on one entry: every byte that its source rectangle can read lies in granules of the requester. An entry that
fails check 3 or 4 by its form is left to it. -/
def entryOwned (s : State) (c : Commit) (i : Nat) : Bool :=
  let e := recEntry c i
  if !(formOk (recGfx c i) e) || !decide (gaChip e.base = s.chipNum) || !gaOk e.base || e.sw = 0 || e.sh = 0 then true
  else granulesOk s c.req (gaOff e.base + e.sy * e.stride + e.sx * fmtB e.fmt) ((e.sh - 1) * e.stride + e.sw * fmtB e.fmt)

/-- The first item of a list of (failed, offset) that failed. -/
def firstFail (l : List (Bool × Nat)) : Option Nat := (l.find? (·.1)).map (·.2)

/-- Check 3, in the order Table 19.4 names its items: the byte offset of the failing field. -/
def checkForm (s : State) (c : Commit) (k : Nat) : Option Nat :=
  let ctrl := recNum c 4 4
  let is := List.range k
  let o := fun i => 128 + 64 * i
  let e := recEntry c
  firstFail (
    [(!decide (recNum c 0 4 = 0x544D4D43), 0), (!decide (ctrl / 2 ^ 16 = 0), 4)]
    ++ (List.range 4).map (fun i => (!decide (recNum c (8 + 8 * i) 4 / 64 % 2 = 0 && recNum c (8 + 8 * i) 4 / 256 = 0), 8 + 8 * i))
    ++ [(!decide (recNum c 0x28 8 = 0), 0x28), (!decide (recNum c 0x48 56 = 0), 0x48)]
    ++ is.flatMap (fun i =>
        let w := recNum c (o i) 4
        [(!decide (w / 64 % 4 = 0 && w / 2 ^ 14 % 4 = 0 && w / 2 ^ 25 = 0), o i), (!decide (recNum c (o i + 4) 4 = 0), o i + 4),
         (!decide (recNum c (o i + 0x10) 4 / 2 ^ 18 = 0), o i + 0x10), (!decide (recNum c (o i + 0x3C) 4 = 0), o i + 0x3C)])
    ++ [(decide (12 < ctrl % 16), 4), (decide (ctrl / 64 % 4 = 3), 4)]
    ++ is.map (fun i => (decide ((e i).alpha = 3), o i))
    ++ is.map (fun i => (!formOk (recGfx c i) (e i), o i))
    ++ is.map (fun i => (is422 (e i).fmt && !(e i).icscEn, o i))
    ++ is.flatMap (fun i => [(!decide ((e i).base % 16 = 0), o i + 8), (!decide ((e i).stride % 16 = 0), o i + 0x10)])
    ++ is.map (fun i => (!decide ((e i).layer = 31) &&
        (List.range i).any fun j => (e j).layer = (e i).layer && recGfx c j == recGfx c i, o i))
    ++ is.map (fun i => (!(decide (gaChip (e i).base = s.chipNum) && gaOk (e i).base), o i + 8)))

/-- Check 4 (R553), against the head's timing in force. -/
def checkRects (s : State) (n : Nat) (c : Commit) (k : Nat) : Option Nat :=
  firstFail ((List.range k).flatMap fun i =>
    let e := recEntry c i
    let o := 128 + 64 * i
    let g := recGfx c i
    [(e.sw = 0 || e.sh = 0 || decide (7680 < e.sw), o + 0x18), (e.dw = 0 || e.dh = 0, o + 0x20),
     (decide (activeH s n < e.dx + e.dw) || decide (activeV s n < e.dy + e.dh), o + 0x1C),
     (g && !(decide (e.dw = e.sw) && decide (e.dh = e.sh)), o + 0x20),
     (!g && (decide (4 * e.dw < e.sw) || decide (8 * e.sw < e.dw) || decide (4 * e.dh < e.sh) || decide (8 * e.sh < e.dh)), o + 0x20),
     (is422 e.fmt && e.sx % 2 = 1, o + 0x14), (is422 e.fmt && e.sw % 2 = 1, o + 0x18)])

/-- The fences of a record that are enabled: index, slot and target. -/
def recFences (c : Commit) : List (Nat × Nat × Nat) :=
  (List.range 4).filterMap fun i =>
    let w := recNum c (8 + 8 * i) 4
    if bitOf w 7 then some (i, w % 64, recNum c (12 + 8 * i) 4) else none

/-- The first failure of Table 19.4: the check and the byte offset of the failing field. -/
def recordCheck (s : State) (n : Nat) (c : Commit) : Option (Nat × Nat) :=
  let k := min 12 (recNum c 4 4 % 16)
  if c.bad then some (1, 0)
  else if c.req ≠ mgmt && !granulesOk s c.req c.addr (128 + 64 * k) then some (2, 0)
  else
    match (if c.req = mgmt then none else firstFail ((List.range k).map fun i => (!entryOwned s c i, 136 + 64 * i))) with
    | some o => some (2, o)
    | none =>
      match checkForm s c k with
      | some o => some (3, o)
      | none =>
        match checkRects s n c k with
        | some o => some (4, o)
        | none =>
          (firstFail ((recFences c).map fun f => (!(fenceHeld s f.2.1 && decide (fenceHolder s f.2.1 = c.req)), 8 + 8 * f.1))).map
            fun o => (5, o)

/-- A record is rejected (R567). -/
def commitReject (n chk off : Nat) (s : State) : State :=
  match (s.head n).commit with
  | none => s
  | some c =>
    let s := cmtWr n F.CMT_DETAIL_DETAIL (off + chk * 2 ^ 16) (commitEnd n 2 s)
    logEv pgCMT 0x0820 (irq pgCMT (4 * n + 1) s) n c.tag

/-- A layer of the pool that may be taken: FREE, enabled and available (R549). -/
def layerUsable (s : State) (l : Nat) : Bool :=
  layerCond s l = 0 && s.avail (layerPg l) && s.flag (layerPg l) F.HDR_PAGE_CTRL_ENABLE

/-- The pool numbers of the layers a record names by index. -/
def namedLayers (c : Commit) (k : Nat) : List Nat :=
  (List.range k).filterMap fun i =>
    let l := (recEntry c i).layer
    if l = 31 then none else some (if recGfx c i then 8 + l else l)

/-- The layers of the pool that a record takes, entry by entry (R568): a layer the head holds already is kept, any other must
be FREE, and ANY takes the lowest-indexed FREE layer of its kind that the record does not name; none when one is missing. -/
def planLayers (s : State) (n : Nat) (c : Commit) (named : List Nat) : List Nat → List Nat → Option (List Nat)
  | [], acc => some acc
  | i :: is, acc =>
    let l := (recEntry c i).layer
    let g := recGfx c i
    let pick :=
      if l = 31 then
        ((List.range (if g then 16 else 8)).map fun x => if g then 8 + x else x).find? fun x =>
          layerUsable s x && !named.contains x && !acc.contains x
      else
        let x := if g then 8 + l else l
        if (layerCond s x ≠ 0 && decide (layerHead s x = n)) || layerUsable s x then some x else none
    match pick with
    | none => none
    | some x => planLayers s n c named is (acc ++ [x])

/-- A record that passed its checks meets the pool arbitration (R568). -/
def commitPool (n : Nat) (c : Commit) (s : State) : State :=
  let k := recNum c 4 4 % 16
  let plan := planLayers s n c (namedLayers c k) (List.range k) []
  let refuse := fun (s : State) => irq pgCMT (4 * n + 3) (commitRefused c.req n (commitEnd n 3 s))
  match plan with
  | none => refuse s
  | some ls =>
    let new := ls.filter fun l => layerCond s l = 0
    if 12 < (layersOf s n).length + new.length then refuse s
    else
      let s := new.foldl (fun s l =>
        layerHold l n 1 (s.wr64 (layerPg l) F.LAYER_GRANT_MET_LO_MET F.LAYER_GRANT_MET_HI_MET s.met)) s
      let ctrl := recNum c 4 4
      let es := (List.range k).map fun i => { recEntry c i with layer := ls.getD i 0 }
      let es := if bitOf ctrl 4 then es else
        (List.range 24).filterMap fun l => es.find? fun e => e.layer = l
      let c' := { c with
        entries := es, granted := new, fences := (recFences c).map fun f => (f.2.1, f.2.2, c.req),
        ocsc := if bitOf ctrl 5 then some ((List.range 12).map fun j => recNum c (0x30 + 2 * j) 2) else none,
        policy := ctrl / 64 % 4, timeout := ctrl / 256 % 256, misses := 0, line := lineNow s n }
      cmtWr n F.CMT_STATUS_STATE 2 (s.modHead n fun h => { h with commit := some c' })

/-- The effect of CMT_RECORD_FETCHED out of reset (R567, R568). -/
def cmtRecordFetchedEffect (n : Nat) (s : State) : State :=
  match (s.head n).commit with
  | none => s
  | some c =>
    if cmtRd s n F.CMT_STATUS_STATE ≠ 1 || c.flying ≠ 0 then s
    else if c.cancel then commitDiscard n 6 s
    else
      match recordCheck s n c with
      | some (chk, off) => commitReject n chk off s
      | none => commitPool n c s

/-- CMT_RECORD_FETCHED (R567, R568): the record has been read; it is checked and goes to the pool arbitration. A commit that
was cancelled while FETCHING is discarded when its checks end (R572). -/
def execCmtRecordFetched (n : Nat) (s : State) : Host.Outcome State Fault Refusal :=
  live s (cmtRecordFetchedEffect n)

/-- The effect of CMT_RECORD_TIMEOUT out of reset (R567). -/
def cmtRecordTimeoutEffect (n : Nat) (s : State) : State :=
  match (s.head n).commit with
  | none => s
  | some c =>
    if cmtRd s n F.CMT_STATUS_STATE ≠ 1 || c.flying = 0 then s
    else if c.cancel then commitDiscard n 6 s
    else commitReject n 1 0 s

/-- CMT_RECORD_TIMEOUT (R567): the record is not read whole within RECORD.TIMEOUT_US, and check 1 fails. -/
def execCmtRecordTimeout (n : Nat) (s : State) : Host.Outcome State Fault Refusal :=
  live s (cmtRecordTimeoutEffect n)

/-! The boundary. -/

/-- Every enabled fence is reached, by R31; a slot that was freed or changed its holder is not (R564, R569). -/
def fencesReached (s : State) (c : Commit) : Bool :=
  c.fences.all fun f => fenceHeld s f.1 && decide (fenceHolder s f.1 = f.2.2) && atOrAfter 32 (fenceVal s f.1) f.2.1

/-- Writes a layer's configuration to its page as the values in force (R583), at blend position z. -/
def layerShow (n z : Nat) (e : LayerEntry) (s : State) : State :=
  let pg := layerPg e.layer
  let s := layerHold e.layer n 2 s
  let s := ((s.wr pg F.LAYER_STATE_Z z).wr pg F.LAYER_STATE_FMT e.fmt).wr pg F.LAYER_STATE_ALPHA e.alpha
  let s := (s.wr pg F.LAYER_STATE_PLANE_ALPHA e.plane).wr pg F.LAYER_STATE_ICSC_EN (b2n e.icscEn)
  let s := (s.wr64 pg F.LAYER_BASE_LO_BASE F.LAYER_BASE_HI_BASE e.base).wr pg F.LAYER_STRIDE_BYTES e.stride
  let s := (s.wr pg F.LAYER_SRC_XY_X e.sx).wr pg F.LAYER_SRC_XY_Y e.sy
  let s := (s.wr pg F.LAYER_SRC_WH_W e.sw).wr pg F.LAYER_SRC_WH_H e.sh
  let s := (s.wr pg F.LAYER_DST_XY_X e.dx).wr pg F.LAYER_DST_XY_Y e.dy
  let s := (s.wr pg F.LAYER_DST_WH_W e.dw).wr pg F.LAYER_DST_WH_H e.dh
  let s := (s.wr pg F.LAYER_STEP_X_STEP (e.sw * 65536 / e.dw)).wr pg F.LAYER_STEP_Y_STEP (e.sh * 65536 / e.dh)
  (List.range 12).foldl (fun s i => s.wr pg F.LAYER_ICSC_VALUE (e.icsc.getD i 0) i) s

/-- OCSC_NOW[n]: a head's output matrix in force. -/
def setOcsc (n : Nat) (m : List Nat) (s : State) : State :=
  (List.range 12).foldl (fun s i => s.wr pgCMT F.CMT_OCSC_NOW_VALUE (m.getD i 0) (12 * n + i)) s

/-- A commit is applied (R570), with the result it takes. -/
def commitApply (n result : Nat) (c : Commit) (s : State) : State :=
  let keep := c.entries.map (·.layer)
  let s := ((layersOf s n).filter fun l => !keep.contains l).foldl (fun s l => layerFree l s) s
  let s := ((List.range c.entries.length).zip c.entries).foldl (fun s x => layerShow n x.1 x.2 s) s
  let s := match c.ocsc with | none => s | some m => setOcsc n m s
  let s := commitEnd n result s
  let s := s.inc pgCMT F.CMT_APPLIED_COUNT 0 n
  let s := cmtWr n F.CMT_APPLY_FRAME_FRAME (s.rd (pgDH n) F.DH_FRAME_COUNT_COUNT + 1) s
  irq pgCMT (4 * n) s

/-- What a frame boundary does with a PENDING commit (R569-R571). -/
def commitBoundary (n : Nat) (s : State) : State :=
  match (s.head n).commit with
  | none => s
  | some c =>
    if cmtRd s n F.CMT_STATUS_STATE ≠ 2 then s
    else if totalV s n ≤ c.line + s.rd pgCMT F.CMT_CUTOFF_LINES n then
      s.modHead n fun h => { h with commit := h.commit.map fun c => { c with line := 0 } }
    else if fencesReached s c then commitApply n 1 c s
    else
      let late := decide (c.timeout ≤ c.misses)
      let c := { c with misses := c.misses + 1, line := 0 }
      let s := s.modHead n fun h => { h with commit := some c }
      if !late || c.policy = 0 then s
      else
        let s := s.bump pgCMT F.CMT_COUNTS_TIMEOUTS 1 0 n
        if c.policy = 1 then logEv pgCMT 0x1821 (irq pgCMT (4 * n + 2) (commitDiscard n 4 s)) n c.tag
        else logEv pgCMT 0x1822 (irq pgCMT (4 * n + 2) (commitApply n 5 c s)) n c.tag

end Sys2Proof.Machine
end

