-- ==== Sys2Proof/Machine/Sfu.lean ====
section
/-! DEFINITION. The special-function unit (10 R288-R299). The native path forms a value within 2^-10 of a unit in the last
place: where that leaves two results open, a free choice decides (log 12). 2^x and log2 x are evaluated here to more than
140 bits, far beyond what any decision needs. -/
namespace Sys2Proof.Machine
open Sys2Proof

/-- Fraction bits of the fixed-point numbers of this file. -/
def hp : Nat := 192

/-- ln 2, as a multiple of 2^-192. -/
def hpLn2 : Nat := 4350955369971217654477563090224794165364344896676135745069

/-- 1 / ln 2, as a multiple of 2^-192. -/
def hpLog2e : Nat := 9055943544797870567083544809312461607371518589544137143473

/-- The square root of 2 / π, as a multiple of 2^-192. -/
def hpK1 : Nat := 5008402561253905729789098622498677126536126712276965002673

/-- The terms of the exponential series of z, from the i-th term on. -/
def expSeries (z : Nat) : Nat → Nat → Nat → Nat
  | 0, _, _ => 0
  | n + 1, i, t => t + expSeries z n (i + 1) (t * z / 2 ^ hp / (i + 1))

/-- 2^f for a fraction f / 2^192, as a multiple of 2^-192. -/
def exp2Frac (f : Nat) : Nat := expSeries (f * hpLn2 / 2 ^ hp) 56 0 (2 ^ hp)

/-- ± m × 2^e rounded down to a multiple of 2^-192. -/
def toFixed (neg : Bool) (m : Nat) (e : Int) : Int :=
  let s := e + hp
  let v : Int := if neg then -(m : Int) else m
  if 0 ≤ s then v * 2 ^ s.toNat else v / 2 ^ (-s).toNat

/-- 2^x for x a multiple of 2^-192: mantissa and exponent. -/
def exp2Fixed (x : Int) : Nat × Int := (exp2Frac (x % 2 ^ hp).toNat, x / 2 ^ hp - hp)

/-- 2^x of a finite value. -/
def exp2Hi (neg : Bool) (m : Nat) (e : Int) : Nat × Int := exp2Fixed (toFixed neg m e)

/-- The bits of log2 x for x in [1, 2), most significant first. -/
def log2Bits : Nat → Nat → Nat → Nat
  | 0, _, acc => acc
  | n + 1, x, acc =>
    let y := x * x / 2 ^ 224
    if 2 ^ 225 ≤ y then log2Bits n (y / 2) (2 * acc + 1) else log2Bits n y (2 * acc)

/-- log2 of m × 2^e for m > 0, as a multiple of 2^-160. -/
def log2Fixed (m : Nat) (e : Int) : Int :=
  let l := Nat.log2 m
  (e + l) * 2 ^ 160 + log2Bits 160 (m * 2 ^ 224 / 2 ^ l) 0

/-- Whether m × 2^e, m > 0, is a power of two. -/
def isPow2 (m : Nat) : Bool := m = 2 ^ Nat.log2 m

/-- Whether ± m × 2^e is a whole number. -/
def isWhole (m : Nat) (e : Int) : Bool := decide (0 ≤ e) || m % 2 ^ (-e).toNat == 0

/-- The floor of a finite value. -/
def floorN (neg : Bool) (m : Nat) (e : Int) : Int :=
  let v : Int := if neg then -(m : Int) else m
  if 0 ≤ e then v * 2 ^ e.toNat else v / 2 ^ (-e).toNat

/-- The fraction of a unit from which an internal value rounds away from zero, in 2^-16 units: between the zones of
2^-10 in which it takes the neighbour's value (R291, R277). -/
def upFrom (rnd r : Nat) : Nat :=
  match rnd with
  | 0 => 2 ^ 15
  | 1 => min (max (2 ^ 16 - r) 64) (2 ^ 16 - 64)
  | _ => 2 ^ 16 - 64

/-- Whether an inexact result takes the neighbour away from zero: certain outside 2^-10 of the threshold, free inside. -/
def sfuUp (rnd r rem d : Nat) (ch : Bool) : Bool :=
  let f := rem * 2 ^ 32 / 2 ^ d
  let t := upFrom rnd r * 2 ^ 16
  if t + 2 ^ 22 ≤ f then true else if f + 2 ^ 22 ≤ t then false else ch

/-- The native result for an exact value ± m × 2^e that no format holds (R291, R292, R294): bits and flags. -/
def sfuRound (f : Fmt) (rnd r : Nat) (ch neg : Bool) (m : Nat) (e : Int) : Nat × Nat :=
  let qe := max (topExp m e) f.emin - f.mb
  let d := (qe - e).toNat
  let q := m / 2 ^ d
  let rem := m % 2 ^ d
  if isOver f (q + 1) qe then
    (if rnd = 2 then (maxBits f neg, flOVERFLOW + flINEXACT)
     else if sfuUp 0 0 rem d ch then (infBits f neg, flOVERFLOW + flINEXACT)
     else (maxBits f neg, flINEXACT))
  else
    let q := if sfuUp rnd r rem d ch then q + 1 else q
    (signBits f neg + encMag f q qe, flINEXACT + flIf (decide (q < 2 ^ f.mb)) flUNDERFLOW)

/-- The native result of that value as a step before the last: rounded to nearest even in f (R301). -/
def sfuStepRound (f : Fmt) (ch neg : Bool) (m : Nat) (e : Int) : Num :=
  let qe := max (topExp m e) f.emin - f.mb
  let d := (qe - e).toNat
  let q := m / 2 ^ d
  let q := if sfuUp 0 0 (m % 2 ^ d) d ch then q + 1 else q
  if isOver f q qe then .inf neg else .fin neg q qe

/-- What an evaluation comes to before it is written: a value the spec gives outright, with its flags, or an inexact
magnitude. -/
inductive Sfu where
  | exact (x : Num) (flags : Nat)
  /-- An argument at or above x_ovf, or at or below x_zero (Table 10.2). -/
  | over
  | zero
  | inexact (neg : Bool) (m : Nat) (e : Int)
  deriving DecidableEq, Repr

/-- The native EXP2 (R291, R293, R294). -/
def exp2Native (f : Fmt) (x : Num) : Sfu :=
  match x with
  | .nan s => .exact (.nan false) (flIf s flINVALID)
  | .inf neg => .exact (if neg then .fin false 0 0 else .inf false) 0
  | .fin neg m e =>
    if m = 0 then .exact .one 0
    else if !neg && !magLt m e (f.emax + 1).toNat 0 then .over
    else if neg && !magLt m e (1 + f.mb - f.emin).toNat 0 then .zero
    else if isWhole m e then .exact (.fin false 1 (floorN neg m e)) 0
    else let v := exp2Hi neg m e
         .inexact false v.1 v.2

/-- The native LOG2 (R291, R293). -/
def log2Native (x : Num) : Sfu :=
  match x with
  | .nan s => .exact (.nan false) (flIf s flINVALID)
  | .inf neg => if neg then .exact (.nan false) flINVALID else .exact (.inf false) 0
  | .fin neg m e =>
    if m = 0 then .exact (.inf true) 0
    else if neg then .exact (.nan false) flINVALID
    else if isPow2 m then .exact (ofScaled (topExp m e) 0) 0
    else let v := log2Fixed m e
         .inexact (decide (v < 0)) v.natAbs (-160)

/-- The written result of a native evaluation (R291, R292). -/
def sfuWrite (f : Fmt) (rnd r : Nat) (ch : Bool) (v : Sfu) : Nat × Nat :=
  match v with
  | .exact x fl => let a := toFlt f rnd r x
                   (a.1, fl ||| a.2)
  | .over => (if rnd = 2 then maxBits f false else infBits f false, flOVERFLOW + flINEXACT)
  | .zero => (0, flUNDERFLOW + flINEXACT)
  | .inexact neg m e => sfuRound f rnd r ch neg m e

/-- A native evaluation as a step before the last (R301): value, and whether it sets INVALID. -/
def sfuStep (f : Fmt) (ch : Bool) (v : Sfu) : Num × Bool :=
  match v with
  | .exact x fl => (rnd0 f x, !decide (fl = 0))
  | .over => (.inf false, false)
  | .zero => (.fin false 0 0, false)
  | .inexact neg m e => (sfuStepRound f ch neg m e, false)

/-! The PN3 path (R295-R297). -/

/-- An FP32 value of a bit pattern. -/
def f32 (v : Nat) : Num := decFlt fFP32 v

/-- FP32 operations rounded to nearest even. -/
def add32 (a b : Num) : Num := rnd0 fFP32 (addN a b).1
def mul32 (a b : Num) : Num := rnd0 fFP32 (mulN a b).1

/-- t[k] = 2^(k/64) rounded to FP32. -/
def pn3T (k : Nat) : Num := rnd0 fFP32 (.fin false (exp2Frac (k * 2 ^ (hp - 6))) (-192))

/-- inv[k] = 1 / (1 + k/64) rounded to FP32; the quotient keeps a sticky last bit. -/
def pn3Inv (k : Nat) : Num :=
  let n := 2 ^ 106
  rnd0 fFP32 (.fin false (2 * (n / (64 + k)) + b2n (!decide (n % (64 + k) = 0))) (-101))

/-- l[k] = log2(1 + k/64) rounded to FP32. -/
def pn3L (k : Nat) : Num :=
  if k = 0 then .fin false 0 0 else rnd0 fFP32 (.fin false (log2Fixed (64 + k) (-6)).natAbs (-160))

/-- Whether an FP32 value is subnormal. -/
def sub32 (m : Nat) (e : Int) : Bool := !decide (m = 0) && decide (topExp m e < -126)

/-- The PN3 EXP2 of an FP32 value: the value, its flags, and whether it equals 2^x (R296). -/
def exp2Pn3 (x : Num) : Num × Nat × Bool :=
  match x with
  | .nan s => (.nan false, flIf s flINVALID, true)
  | .inf neg => (if neg then .fin false 0 0 else .inf false, 0, true)
  | .fin neg m e =>
    if m = 0 then (.one, 0, true)
    else if sub32 m e then (.one, 0, false)
    else if !neg && !magLt m e 128 0 then (.inf false, flOVERFLOW, false)
    else if neg && magLt 126 0 m e then (.fin false 0 0, flUNDERFLOW, false)
    else
      let n := floorN neg m e
      let q0 := min e 0
      let f := scaled neg m e q0 - n * 2 ^ (-q0).toNat
      let k := (f * 64 / 2 ^ (-q0).toNat).toNat
      let r := (addN (ofScaled f q0) (.fin true k (-6))).1
      let q := add32 (f32 0x3E75FDF0) (mul32 r (f32 0x3D635847))
      let q := add32 (f32 0x3F317218) (mul32 r q)
      let q := mul32 r q
      let y := add32 (pn3T k) (mul32 (pn3T k) q)
      match rnd0 fFP32 (mulN y (.fin false 1 n)).1 with
      | .inf _ => (.inf false, flOVERFLOW, false)
      | y => (y, 0, isWhole m e)

/-- The PN3 LOG2 of an FP32 value (R297). -/
def log2Pn3 (x : Num) : Num × Nat × Bool :=
  match x with
  | .nan s => (.nan false, flIf s flINVALID, true)
  | .inf neg => if neg then (.nan false, flINVALID, true) else (.inf false, 0, true)
  | .fin neg m e =>
    if m = 0 then (.inf true, 0, true)
    else if sub32 m e then (.inf true, 0, false)
    else if neg then (.nan false, flINVALID, true)
    else
      let ex := topExp m e
      let m1 : Num := .fin false m (e - ex)
      let k := m * 64 / 2 ^ (ex - e).toNat - 64
      let r := mul32 (addN m1 (.fin true (64 + k) (-6))).1 (pn3Inv k)
      let q := add32 (f32 0xBF38AA3B) (mul32 r (f32 0x3EF6384F))
      let q := add32 (f32 0x3FB8AA3B) (mul32 r q)
      let q := mul32 r q
      (add32 (add32 (ofScaled ex 0) (pn3L k)) q, 0, isPow2 m)

/-! Both paths. -/

/-- An evaluation as the last step of a command: bits and flags (R291-R295). -/
def sfuLast (isLog compat : Bool) (f : Fmt) (rnd r : Nat) (ch : Bool) (x : Num) : Nat × Nat :=
  if compat then
    let y := if isLog then log2Pn3 (rnd0 fFP32 x) else exp2Pn3 (rnd0 fFP32 x)
    let a := toFlt f rnd r y.1
    let fl := y.2.1 ||| a.2 ||| flIf (!y.2.2) flINEXACT
    let tiny := match decFlt f a.1 with | .fin _ m e => !y.1.isZero && magLt m e 1 f.emin | _ => false
    (a.1, fl ||| flIf (!y.2.2 && tiny) flUNDERFLOW)
  else sfuWrite f rnd r ch (if isLog then log2Native x else exp2Native f x)

/-- An evaluation as a step before the last in format f: value, and whether it sets INVALID (R301). -/
def sfuMid (isLog compat : Bool) (f : Fmt) (ch : Bool) (x : Num) : Num × Bool :=
  if compat then
    let y := if isLog then log2Pn3 (rnd0 fFP32 x) else exp2Pn3 (rnd0 fFP32 x)
    (y.1, bitOf y.2.1 0)
  else sfuStep f ch (if isLog then log2Native x else exp2Native f x)

end Sys2Proof.Machine
end

