-- ==== Sys2Proof/Machine/Vxu.lean ====
section
/-! DEFINITION. What the VXU and the MXU compute (08 R255-R264, 09 R271-R284, 10 R300-R309): pure functions of operand
bytes. Choices the spec leaves to the unit come from `ch`, one number a choice. -/
namespace Sys2Proof.Machine
open Sys2Proof

/-! VOP. -/

/-- The exact result of a VOP other than CVT, EXP2 and LOG2, and whether a NaN arose (Table 8.13). -/
def vopExact (vop : Nat) (ch : Bool) (a b c : Num) : Num × Bool :=
  match vop with
  | 0 => addN a b
  | 1 => subN a b
  | 2 => mulN a b
  | 3 => (minMaxN false ch a b, false)
  | 4 => (minMaxN true ch a b, false)
  | 5 => let p := mulN a b
         let q := addN p.1 c
         (q.1, p.2 || q.2)
  | 6 => (a.abs, false)
  | _ => (a.negate, false)

/-- One element of a VOP other than CVT: bits and flags (R276, R280, R291). -/
def vopElem (vop ofmt rnd : Nat) (compat : Bool) (r : Nat) (ch : Bool) (a b c : Num) : Nat × Nat :=
  if vop = 9 || vop = 10 then sfuLast (vop = 10) compat (fmtOf ofmt) rnd r ch a
  else
    let x := vopExact vop ch a b c
    let y := toElem ofmt rnd r x.1
    let sig := a.isSig || (decide (vop ≤ 5) && b.isSig) || (decide (vop = 5) && c.isSig)
    (y.1, y.2 ||| flIf (x.2 || sig) flINVALID)

/-- The scale exponent of a block written in a microscaling format (R273 step 2). -/
def mxScale (code : Nat) (xs : List Num) : Int :=
  let top := xs.foldl (fun (t : Option Int) x =>
    match x with
    | .fin _ m e => if m = 0 then t else match t with | none => some (topExp m e) | some v => some (max v (topExp m e))
    | _ => t) none
  match top with
  | none => -127
  | some t => max (-127) (min 127 (t - (if code = 7 then 4 else 2)))

/-- Converts a block (R273): scale byte, element bits and flags. -/
def cvtBlock (code rnd : Nat) (rs : List Nat) (xs : List Num) : Nat × List Nat × Nat :=
  if xs.any Num.isNan then (0xFF, xs.map fun _ => 0, flIf (xs.any Num.isSig) flINVALID)
  else
    let s := mxScale code xs
    let ys := (xs.zip rs).map fun x =>
      toMx code rnd x.2 (match x.1 with | .fin n m e => .fin n m (e - s) | y => y)
    ((s + 127).toNat, ys.map (·.1), ys.foldl (fun f y => f ||| y.2) 0)

/-! VRED. A node holds the exact result of its last operation, rounded only when another operation takes it (R264). -/

/-- A reduction: 0 SUM, 1 MAX, 2 MIN, 3 SUMSQ, 4 MAXABS. -/
def redLeaf (rop : Nat) (x : Num) : Num × Bool :=
  match rop with
  | 3 => mulN x x
  | 4 => (x.abs, false)
  | _ => (x, false)

/-- Combines two nodes. -/
def redComb (rop : Nat) (f : Fmt) (ch : Bool) (a b : Num × Bool) : Num × Bool :=
  let x := rnd0 f a.1
  let y := rnd0 f b.1
  let z := match rop with
    | 0 => addN x y
    | 3 => addN x y
    | 2 => (minMaxN false ch x y, false)
    | _ => (minMaxN true ch x y, false)
  (z.1, z.2 || a.2 || b.2)

/-- Combines nodes of which either may be missing. -/
def redOpt (rop : Nat) (f : Fmt) (ch : Bool) (a b : Option (Num × Bool)) : Option (Num × Bool) :=
  match a, b with
  | none, b => b
  | a, none => a
  | some a, some b => some (redComb rop f ch a b)

/-- The result of one lane: its elements in index order. -/
def redLane (rop : Nat) (f : Fmt) (ch : Nat → Bool) (xs : List Num) (lane : Nat) : Option (Num × Bool) :=
  (List.range ((xs.length + 31) / 32)).foldl (fun acc k =>
    match xs[32 * k + lane]? with
    | none => acc
    | some x => redOpt rop f (ch (32 * k + lane)) acc (some (redLeaf rop x))) none

/-- One level of the pairwise tree. -/
def redLevel (rop : Nat) (f : Fmt) (ch : Nat → Bool) : List (Option (Num × Bool)) → List (Option (Num × Bool))
  | a :: b :: r => redOpt rop f (ch r.length) a b :: redLevel rop f ch r
  | l => l

/-- The reduction of a list of elements (R264): the exact result of the last operation, and whether a NaN arose. -/
def reduceN (rop : Nat) (f : Fmt) (ch : Nat → Bool) (xs : List Num) : Num × Bool :=
  let l := (List.range 32).map (redLane rop f ch xs)
  let lv := fun l => redLevel rop f (fun k => ch (xs.length + k)) l
  ((lv (lv (lv (lv (lv l))))).headD none).getD (.fin false 0 0, false)

/-! Flags of composite commands (R301). -/

/-- Whether a written element of a format equals a finite exact value. -/
def sameVal (f : Fmt) (bits : Nat) (x : Num) : Bool :=
  match decFlt f bits, x with
  | .fin a m e, .fin b k g => if m = 0 && k = 0 then true else scaled a m e (min e g) == scaled b k g (min e g)
  | .inf a, .inf b => a == b
  | _, _ => false

/-- The flags of a written element judged against a finite exact value. -/
def judge (f : Fmt) (bits : Nat) (x : Num) : Nat :=
  match x with
  | .fin _ m e =>
    let ne := !sameVal f bits x
    flIf ne flINEXACT + flIf (ne && decide (m ≠ 0) && magLt m e 1 f.emin) flUNDERFLOW + flIf (isOver f m e) flOVERFLOW
  | _ => 0

/-- The exact value of a reduction. -/
def exactRed (rop : Nat) (xs : List Num) : Num :=
  match rop with
  | 0 => xs.foldl (fun a x => (addN a x).1) (.fin true 0 0)
  | 3 => xs.foldl (fun a x => (addN a (mulN x x).1).1) (.fin true 0 0)
  | _ => .nan false

/-- VRED: the result's bits and flags (R264). -/
def vred (rop fmt rnd r : Nat) (ch : Nat → Bool) (xs : List Num) : Nat × Nat :=
  let f := if fmt = 0 then fFP64 else fFP32
  let n := reduceN rop f ch xs
  let y := toFlt f rnd r n.1
  let inv := n.2 || xs.any Num.isSig
  let ex := exactRed rop xs
  (y.1, flIf inv flINVALID ||| (if rop = 0 || rop = 3 then judge f y.1 ex else 0))

/-! Fused activation. -/

/-- The constants of Table 10.4. -/
def kLOG2E (d : Bool) : Num := if d then decFlt fFP64 0x3FF71547652B82FE else f32 0x3FB8AA3B
def kA1 (d : Bool) : Num := if d then decFlt fFP64 0xBFD5555555555555 else f32 0xBEAAAAAB
def kA2 (d : Bool) : Num := if d then decFlt fFP64 0x3FC1111111111111 else f32 0x3E088889
def kA3 (d : Bool) : Num := if d then decFlt fFP64 0xBFABA1BA1BA1BA1C else f32 0xBD5D0DD1
def kK1 (d : Bool) : Num := if d then decFlt fFP64 0x3FE9884533D43651 else f32 0x3F4C422A
def kK2 (d : Bool) : Num := if d then decFlt fFP64 0x3FA6E4E26D4801F7 else f32 0x3D372713

/-- The precision of the steps of a composite command. -/
def stepFmt (d : Bool) : Fmt := if d then fFP64 else fFP32

/-- A step that multiplies or adds, rounded to nearest even. -/
def mulS (d : Bool) (a b : Num) : Num := rnd0 (stepFmt d) (mulN a b).1
def addS (d : Bool) (a b : Num) : Num := rnd0 (stepFmt d) (addN a b).1

/-- SFU steps before the last. -/
def exp2S (d cp : Bool) (ch : Bool) (x : Num) : Num := (sfuMid false cp (stepFmt d) ch x).1
def log2S (d cp : Bool) (ch : Bool) (x : Num) : Num := (sfuMid true cp (stepFmt d) ch x).1

/-- The argument of the last EXP2 of SIGMOID (Table 10.5). -/
def sigmoidArg (d cp : Bool) (ch : Nat → Bool) (u : Num) : Num :=
  let e := exp2S d cp (ch 0) (mulS d u.negate (kLOG2E d))
  (log2S d cp (ch 1) (addS d .one e)).negate

/-- The last operation of TANH, exact: u + u × w, or ± (d × g). -/
def tanhLast (d cp : Bool) (ch : Nat → Bool) (u : Num) : Num :=
  let small := match u with | .fin _ m e => magLt m e 1 (-3) | _ => false
  if small then
    let v := mulS d u u
    let p := addS d (kA2 d) (mulS d v (kA3 d))
    let p := addS d (kA1 d) (mulS d v p)
    let w := mulS d v p
    (addN u (mulS d u w)).1
  else
    let e := exp2S d cp (ch 0) (mulS d (mulS d (.fin true 2 0) u.abs) (kLOG2E d))
    let dd := addS d .one e.negate
    let l := log2S d cp (ch 1) (addS d .one e)
    let g := exp2S d cp (ch 2) l.negate
    let y := (mulN dd g).1
    if u.neg? then y.negate else y

/-- TANH as a step before the last. -/
def tanhS (d cp : Bool) (ch : Nat → Bool) (u : Num) : Num := rnd0 (stepFmt d) (tanhLast d cp ch u)

/-- e^(−t) for a magnitude t = m × 2^e; beyond 4096 it lies below every format and counts as 0. -/
def expNeg (m : Nat) (e : Int) : Nat × Int :=
  if magLt 4096 0 m e then (0, 0)
  else exp2Fixed (-((toFixed false m e * hpLog2e) / 2 ^ hp))

/-- Whether n × E / (1 + E), or n / (1 + E) when `pos`, lies below T, for E = e^(−t). -/
def sigBelow (pos : Bool) (n : Num) (t : Nat × Int) (lim : Num) : Bool :=
  let ex := expNeg t.1 t.2
  let e : Num := .fin false ex.1 ex.2
  let lhs := if pos then n else (mulN n e).1
  ltN lhs (mulN lim (addN .one e).1).1

/-- The magnitude of a finite value. -/
def magOf (x : Num) : Nat × Int := match x with | .fin _ m e => (m, e) | _ => (0, 0)

/-- UNDERFLOW and OVERFLOW of an activation at a finite non-zero u, judged against the exact function value (R301). -/
def actFlags (act : Nat) (f : Fmt) (u : Num) : Nat :=
  let lo : Num := .fin false 1 f.emin
  let hi : Num := .fin false (maxMant f) (maxExp f)
  let a := u.abs
  let pos := !u.neg?
  let t2 := fun (x : Num) => (mulN (.fin false 2 0) x).1
  let cube := (mulN a (mulN a a).1).1
  match act with
  | 2 => flIf (sigBelow pos a (magOf a) lo) flUNDERFLOW + flIf (pos && !sigBelow pos a (magOf a) hi) flOVERFLOW
  | 4 => flIf (!pos && sigBelow pos .one (magOf a) lo) flUNDERFLOW
  | 5 =>
    let x15 := (mulN (.fin false 15 0) a).1
    let c5 := (mulN (.fin true 5 0) cube).1
    let q2 := (mulN (.fin false 2 0) (mulN cube (mulN a a).1).1).1
    let lhs := (addN x15 (addN c5 q2).1).1
    flIf (ltN a (.fin false 1 (-10)) && ltN lhs (mulN (.fin false 15 0) lo).1) flUNDERFLOW
  | _ =>
    -- 1000000 h = K1 × (1000000 u + 44715 u³); the argument of the exponential is 2 h
    let g := (mulN (.fin false hpK1 (-192)) (addN (mulN (.fin false 1000000 0) a).1 (mulN (.fin false 44715 0) cube).1).1).1
    let m := magOf (t2 g)
    let t : Nat × Int := (m.1 * 2 ^ 220 / 1000000, m.2 - 220)
    flIf (sigBelow pos a t lo) flUNDERFLOW + flIf (pos && !sigBelow pos a t hi) flOVERFLOW

/-- ACT(u) for a u that is rounded: bits and flags (Tables 10.5 and 10.6). On the PN3 path the flags are judged against the value
before the final rounding, which R299 defines (R301). -/
def activate (act ofmt rnd r : Nat) (d cp : Bool) (ch : Nat → Bool) (u : Num) : Nat × Nat :=
  let f := fmtOf ofmt
  match u with
  | .nan _ => (nanBits f, 0)
  | .inf neg =>
    match act with
    | 2 => (if neg then signBits f true else infBits f false, 0)
    | 4 => (if neg then 0 else (toFlt f 0 0 .one).1, 0)
    | 5 => ((toFlt f 0 0 (if neg then Num.one.negate else .one)).1, 0)
    | _ => (if neg then signBits f true else infBits f false, 0)
  | .fin neg m _ =>
    if m = 0 then
      (if act = 4 then ((toFlt f 0 0 (.fin false 1 (-1))).1, 0) else (signBits f neg, 0))
    else
      let v : Num := match act with
        | 2 => (mulN u (exp2S d cp (ch 2) (sigmoidArg d cp ch u))).1
        | 4 => if cp then (exp2Pn3 (rnd0 fFP32 (sigmoidArg d cp ch u))).1 else .one
        | 5 => tanhLast d cp ch u
        | _ =>
          let v := mulS d u u
          let w := mulS d v u
          let g := addS d u (mulS d (kK2 d) w)
          let h := mulS d (kK1 d) g
          let t := addS d .one (tanhS d cp ch h)
          (mulN (mulS d (.fin false 1 (-1)) u) t).1
      let bits := if act = 4 && !cp then (sfuLast false cp f rnd r (ch 2) (sigmoidArg d cp ch u)).1 else (toFlt f rnd r v).1
      (bits, if cp then judge f bits v else flINEXACT + actFlags act f u)

/-- One element of VFUSE (R302, R303): bits and flags. -/
def vfuseElem (act fmt ofmt rnd r : Nat) (cp : Bool) (ch : Nat → Bool) (a scale : Num) (bias : Option Num) : Nat × Nat :=
  let d := fmt = 0
  let f := fmtOf ofmt
  let p := mulN a scale
  let q := match bias with
    | none => p
    | some b => let s := addN (rnd0 (stepFmt d) p.1) b
                (s.1, p.2 || s.2)
  let sig := a.isSig || scale.isSig || (match bias with | none => false | some b => b.isSig)
  let inv := flIf (q.2 || sig) flINVALID
  if act = 0 then
    let y := toFlt f rnd r q.1
    (y.1, y.2 ||| inv)
  else if act = 1 then
    (if q.1.isNan then (nanBits f, inv)
     else if ltN (.fin false 0 0) q.1 then let y := toFlt f rnd r q.1
                                           (y.1, y.2 ||| inv)
     else (0, inv))
  else
    let y := activate act ofmt rnd r d cp ch (rnd0 (stepFmt d) q.1)
    (y.1, y.2 ||| inv)

/-! RMS normalisation. -/

/-- 1 / L rounded to nearest even (R304 step 2). -/
def recipL (d : Bool) (l : Nat) : Num :=
  let n := 2 ^ 160
  rnd0 (stepFmt d) (.fin false (2 * (n / l) + b2n (!decide (n % l = 0))) (-161))

/-- Flags of one output of VRMS against x G / √(Σ x² / L + EPS): all exact (R301, R309). -/
def rmsJudge (f : Fmt) (bits : Nat) (xs : List Num) (eps x g : Num) : Nat :=
  if eps.isInf then 0
  else
    let den := (addN (exactRed 3 xs) (mulN (.fin false xs.length 0) eps).1).1
    let xg := (mulN x g).1
    let num := (mulN (.fin false xs.length 0) (mulN xg xg).1).1
    match decFlt f bits, xg with
    | .nan _, _ => 0
    | y, .fin _ m _ =>
      let y2 := (mulN (mulN y y).1 den).1
      let ne := ltN y2 num || ltN num y2
      flIf ne flINEXACT
        + flIf (ne && decide (m ≠ 0) && ltN num (mulN (.fin false 1 (2 * f.emin)) den).1) flUNDERFLOW
        + flIf (ltN (mulN (.fin false (maxMant f * maxMant f) (2 * maxExp f)) den).1 num) flOVERFLOW
    | _, _ => 0

/-- One row of VRMS (R304, R305): output bits and flags; `rs` holds the draws. -/
def vrmsRow (fmt ofmt rnd : Nat) (cp : Bool) (rs : List Nat) (ch : Nat → Bool) (eps : Num) (gs : List Num) (xs : List Num) :
    List Nat × Nat :=
  let d := fmt = 0
  let f := fmtOf ofmt
  let u := unbounded (stepFmt d)
  let nan := xs.map fun _ => nanBits f
  let sig := flIf (xs.any Num.isSig || eps.isSig || gs.any Num.isSig) flINVALID
  let ss := rnd0 u (reduceN 3 u ch xs).1
  let ms := rnd0 u (mulN ss (recipL d xs.length)).1
  let a := rnd0 u (addN ms eps).1
  let out := fun (r : Num) (judged : Bool) =>
    let ys := (List.range xs.length).map fun i =>
      let x := xs.getD i .one
      let y := if gs.isEmpty then mulN x r
               else let p := mulN x r
                    let q := mulN (rnd0 (stepFmt d) p.1) (gs.getD i .one)
                    (q.1, p.2 || q.2)
      let b := toFlt f rnd (rs.getD i 0) y.1
      (b.1, flIf y.2 flINVALID |||
        (if !judged then 0 else if cp then judge f b.1 y.1 else rmsJudge f b.1 xs eps x (gs.getD i .one)))
    (ys.map (·.1), ys.foldl (fun fl y => fl ||| y.2) sig)
  if xs.any Num.isNan || eps.isNan then (nan, sig)
  else if a.isNan || (a.neg? && !a.isZero) then (nan, sig ||| flINVALID)
  else if a.isZero then out .one false
  else if xs.any Num.isInf then
    let o := out (.fin false 0 0) false
    (o.1, o.2 ||| flINVALID)
  else
    let l := (sfuMid true cp u (ch (2 * xs.length + 64)) a).1
    let h := rnd0 u (mulN (.fin true 1 (-1)) l).1
    out (sfuMid false cp u (ch (2 * xs.length + 65)) h).1 true

/-! Soft maximum. -/

/-- A soft-maximum state record: M and S as FP32 bits, N, and the status word. -/
structure SmRec where
  m : Nat
  s : Nat
  n : Nat
  st : Nat
  deriving DecidableEq, Repr

/-- FP32 bits of a value rounded to nearest even. -/
def bits32 (x : Num) : Nat := (toFlt fFP32 0 0 x).1

/-- VSMAX1 on one row (R307): the record and flags. -/
def vsmax1Row (cp init : Bool) (ch : Nat → Bool) (scale : Num) (xs : List Num) (rc : SmRec) : SmRec × Nat :=
  let rec0 : SmRec := if init || !bitOf rc.st 0 then { m := 0xFF800000, s := 0, n := 0, st := 0 }
                      else { rc with st := rc.st % 8 + rc.st / 256 % 256 * 256 }
  let zs := xs.map fun x => mulN x scale
  let z := zs.map fun z => rnd0 fFP32 z.1
  let inv := flIf (zs.any (·.2) || xs.any Num.isSig || scale.isSig) flINVALID
  let nanIn := z.any Num.isNan || (bitOf rec0.st 0 && ((f32 rec0.m).isNan || (f32 rec0.s).isNan))
  let posIn := z.any fun x => x == .inf false
  let st := Nat.lor rec0.st (2 * b2n nanIn + 4 * b2n posIn)
  let fin := fun (m s : Nat) =>
    ({ m := m, s := s, n := min (rec0.n + xs.length) 0xFFFFFFFF,
       st := st % 8 / 2 * 2 + 1 + min (st / 256 + 1) 0xFF * 256 } : SmRec)
  if bitOf st 1 || bitOf st 2 then (fin 0x7FC00000 0x7FC00000, inv)
  else
    let mc := (List.range (z.length - 1)).foldl (fun a i => minMaxN true (ch i) a (z.getD (i + 1) a)) (z.headD (.inf true))
    let m0 := f32 rec0.m
    let m1 := minMaxN true (ch z.length) m0 mc
    let same := !ltN m0 m1 && !ltN m1 m0
    let f := if same then Num.one
             else exp2S false cp (ch (z.length + 1)) (mul32 (add32 m0 m1.negate) (kLOG2E false))
    let sr := mul32 (f32 rec0.s) f
    let terms := (List.range z.length).map fun i =>
      let zi := z.getD i .one
      if zi == .inf true then Num.fin false 0 0
      else exp2S false cp (ch (z.length + 2 + i)) (mul32 (add32 zi m1.negate) (kLOG2E false))
    let t := rnd0 fFP32 (reduceN 0 fFP32 ch terms).1
    let inv2 := flIf ((f32 rec0.s).isInf && f.isZero) flINVALID
    (fin (bits32 m1) (bits32 (add32 sr t)), inv ||| inv2)

/-- e^x × 2^0 as a magnitude, for an exact x of magnitude at most 4096. -/
def expOf (x : Num) : Nat × Int :=
  match x with
  | .fin neg m e => exp2Fixed ((toFixed neg m e * hpLog2e) / 2 ^ hp)
  | _ => (0, 0)

/-- Flags of one output of VSMAX2 against e^(z − M) / S (R301). -/
def smJudge (f : Fmt) (bits : Nat) (m s x scale : Num) : Nat :=
  let z := (mulN x scale).1
  match z, m, s with
  | .fin _ _ _, .fin _ _ _, .fin _ _ _ =>
    let dz := (subN z m).1
    let one := dz.isZero && sameVal f bits (match s with | .fin n k e => if isPow2 k then .fin n 1 (-(topExp k e)) else .nan false | y => y)
    let far := !ltN dz.abs (.fin false 4096 0)
    let e : Num := let v := expOf dz
                   .fin false v.1 v.2
    let under := if far then dz.neg? else ltN e (mulN (.fin false 1 f.emin) s).1
    let overf := if far then !dz.neg? else ltN (mulN (.fin false (maxMant f) (maxExp f)) s).1 e
    flIf (!one) flINEXACT + flIf (!one && under) flUNDERFLOW + flIf overf flOVERFLOW
  | _, _, _ => 0

/-- VSMAX2 on one row (R308). -/
def vsmax2Row (ofmt rnd : Nat) (cp : Bool) (rs : List Nat) (ch : Nat → Bool) (scale : Num) (xs : List Num) (rc : SmRec) :
    List Nat × Nat :=
  let f := fmtOf ofmt
  let m := f32 rc.m
  let s := f32 rc.s
  if !bitOf rc.st 0 || bitOf rc.st 1 || bitOf rc.st 2 || m.isNan || s.isNan || s.isZero then
    (xs.map fun _ => nanBits f, flINVALID)
  else
    let lr := sfuMid true cp fFP32 (ch 0) s
    let r := exp2S false cp (ch 1) lr.1.negate
    let ys := (List.range xs.length).map fun i =>
      let x := xs.getD i .one
      let zp := mulN x scale
      let z := rnd0 fFP32 zp.1
      if z == .inf true then ((0, flIf (x.isSig || scale.isSig) flINVALID) : Nat × Nat)
      else
        let df := addN z m.negate
        let e := exp2S false cp (ch (2 + i)) (mul32 (rnd0 fFP32 df.1) (kLOG2E false))
        let y := mulN e r
        let b := toFlt f rnd (rs.getD i 0) y.1
        (b.1, flIf (zp.2 || df.2 || y.2 || x.isSig || scale.isSig) flINVALID |||
          (if cp then judge f b.1 y.1 else smJudge f b.1 m s x scale))
    (ys.map (·.1), ys.foldl (fun fl y => fl ||| y.2) (flIf lr.2 flINVALID))

/-! The MXU. -/

/-- G of Table 9.3. -/
def groupOf (fmt : Nat) : Nat :=
  match fmt with
  | 0 => 1 | 1 => 8 | 2 => 16 | 3 => 32 | 4 => 32 | 5 => 64 | 6 => 64 | 7 => 32 | 8 => 32 | 9 => 32 | 10 => 64 | _ => 128

/-- K_max of Table 8.11. -/
def kMax (fmt : Nat) : Nat :=
  match fmt with
  | 0 => 64 | 1 => 128 | 2 => 160 | 3 => 256 | 4 => 256 | 9 => 1024 | 11 => 1024 | _ => 512

/-- The accumulation type of a format: 0 FP32, 1 INT32, 2 FP64 (Table 8.11). -/
def accType (fmt : Nat) : Nat := if fmt = 0 then 2 else if isInt fmt then 1 else 0

/-- An accumulator as a value, and as bits. -/
def accVal (typ v : Nat) : Num := match typ with | 0 => f32 v | 1 => decInt 32 v | _ => decFlt fFP64 v
def accBits (typ : Nat) (x : Num) : Nat × Nat :=
  match typ with | 0 => toFlt fFP32 0 0 x | 1 => toInt 32 0 0 x | _ => toFlt fFP64 0 0 x

/-- Adds one group of products to an accumulator (R282, R283): bits and flags. -/
def accGroup (typ : Nat) (acc : Nat) (ps : List (Num × Bool)) : Nat × Nat :=
  let a := accVal typ acc
  let xs := a :: ps.map (·.1)
  let inv := ps.any (·.2)
  if xs.any Num.isNan then ((accBits typ (.nan false)).1, flIf inv flINVALID)
  else
    let sum := ps.foldl (fun (t : Num × Bool) p => let z := addN t.1 p.1
                                                  (z.1, t.2 || z.2)) (a, false)
    let both := xs.any (fun x => x == .inf true) && xs.any (fun x => x == .inf false)
    let y := accBits typ (if both then .nan false else sum.1)
    (y.1, y.2 ||| flIf (inv || both) flINVALID)

/-- Element (k, n) of a stage, with its scale. -/
def stageElem (w : Stage) (k n : Nat) : Num :=
  let v := elemAt w.fmt n (w.rows.getD k [])
  if isMx w.fmt then decMx w.fmt v ((w.scales.getD (k / 32 * 32 + n) 0).toNat) else dec w.fmt v

/-- One accumulator of a row of A against column n of a stage (R281, R282). -/
def mmaElem (w : Stage) (aRow aScale : List Byte) (n acc : Nat) : Nat × Nat :=
  let g := groupOf w.fmt
  (List.range ((w.k + g - 1) / g)).foldl (fun (st : Nat × Nat) q =>
    let ps := (List.range (min g (w.k - q * g))).map fun j =>
      let k := q * g + j
      let v := elemAt w.fmt k aRow
      let x := if isMx w.fmt then decMx w.fmt v ((aScale.getD (k / 32) 0).toNat) else dec w.fmt v
      let y := stageElem w k n
      let p := mulN x y
      (p.1, p.2 || x.isSig || y.isSig)
    let r := accGroup (accType w.fmt) st.1 ps
    (r.1, st.2 ||| r.2)) (acc, 0)

/-- One output of MXU_DRAIN (R284): bits and flags. -/
def drainElem (typ ofmt rnd r v : Nat) : Nat × Nat := if ofmt = 15 then (v, 0) else toElem ofmt rnd r (accVal typ v)

end Sys2Proof.Machine
end

