-- ==== Sys2Proof/Machine/TileMem.lean ====
section
/-! DEFINITION. The parts of a tile: SRAM with its SECDED code (07 R206-R210, R229), registers, sequencer state,
exceptions (R217-R225), signals (08 R238-R241). -/
namespace Sys2Proof.Machine
open Sys2Proof

/-- What an unlisted SRAM byte reads as (log 2). -/
def sramBlank (_ : Nat) : Byte := 0

/-- An unlisted SRAM word has no error. -/
def noErr (_ : Nat) : Nat := 0

/-- The bytes of a tile's SRAM (R206). -/
def State.sramRaw (s : State) (t o n : Nat) : List Byte := mread sramBlank s.sram (t * 0x40000 + o) n

/-- The error of the 8-byte word k of a tile's SRAM: 0 none, 1 single-bit, 2 uncorrectable. -/
def State.sramErrAt (s : State) (t k : Nat) : Nat := fget noErr s.sramErr (t * 0x8000 + k)

/-- Sets it. -/
def State.setSramErr (s : State) (t k v : Nat) : State := { s with sramErr := fset noErr s.sramErr (t * 0x8000 + k) v }

/-- A read meets word k (R210). -/
def eccWord (t k : Nat) (s : State) : State :=
  let pg := pgTILE t
  match s.sramErrAt t k with
  | 0 => s
  | 1 =>
    let first := s.rd pg F.TILE_SRAM_ECC_CE = 0
    let s := s.bump pg F.TILE_SRAM_ECC_CE
    let s := if first then logEv pg 0x1302 (irq pg 2 s) else s
    if s.flag pg F.TILE_ECC_CTRL_WRITEBACK then s.setSramErr t k 0 else s
  | _ => logEv pg 0x2303 (s.bump pg F.TILE_SRAM_ECC_UE) t (k / 16 % 8)

/-- The words that bytes [o, o + n) touch. -/
def sramWords (o n : Nat) : List Nat := (List.range ((o + n + 7) / 8 - o / 8)).map (o / 8 + ·)

/-- A read of a range (R210). -/
def eccScan (t o n : Nat) (s : State) : State := (sramWords o n).foldl (fun s k => eccWord t k s) s

/-- The first uncorrectable word of a range. -/
def State.firstUe (s : State) (t o n : Nat) : Option Nat := (sramWords o n).find? fun k => s.sramErrAt t k = 2

/-- A write meets word k: a whole word stores a fresh code; a part of a word is a read-modify-write (R210). -/
def eccWrite (t o n k : Nat) (s : State) : State :=
  if o ≤ 8 * k && decide (8 * k + 8 ≤ o + n) then s.setSramErr t k 0
  else
    let one := s.sramErrAt t k = 1
    let s := eccWord t k s
    if one then s.setSramErr t k 0 else s

/-- A write of bytes to a tile's SRAM by any port (R210); an injected error lands in its first word (R229). -/
def sramWrite (t o : Nat) (bs : List Byte) (s : State) : State :=
  if bs.isEmpty then s
  else
    let s := (sramWords o bs.length).foldl (fun s k => eccWrite t o bs.length k s) s
    let s := { s with sram := mwrite sramBlank s.sram (t * 0x40000 + o) bs }
    let i := (s.tile t).inject
    if i = 0 then s else (s.setSramErr t (o / 8) i).modTile t fun x => { x with inject := 0 }

/-! Registers. -/

/-- A completion counter. -/
def State.tc (s : State) (t c : Nat) : Nat := s.rd (pgTILE t) F.TILE_C_VALUE c

/-- ADD to a counter (R219). -/
def tcAdd (t c v : Nat) (s : State) : State := s.wr (pgTILE t) F.TILE_C_VALUE (s.tc t c + v) c

/-- SET of a counter. -/
def tcSet (t c v : Nat) (s : State) : State := s.wr (pgTILE t) F.TILE_C_VALUE v c

/-- A scalar register. -/
def State.sreg (s : State) (t k : Nat) : Nat :=
  s.rd (pgTILE t) F.TILE_S_VALUE (2 * k) + s.rd (pgTILE t) F.TILE_S_VALUE (2 * k + 1) * 2 ^ 32

/-- Writes it. -/
def setSreg (t k v : Nat) (s : State) : State :=
  (s.wr (pgTILE t) F.TILE_S_VALUE v (2 * k)).wr (pgTILE t) F.TILE_S_VALUE (v / 2 ^ 32) (2 * k + 1)

/-- An ignored GO, ABORT or register write. -/
def tileIgnored (t : Nat) (s : State) : State := s.bump (pgTILE t) F.TILE_SEQ_STATUS_IGNORED

/-- Counts a command that issues (Table 7.6). -/
def perfIssued (t : Nat) (s : State) : State :=
  let pg := pgTILE t
  if s.flag pg F.TILE_PERF_CTRL_FREEZE || !s.flag pg F.HDR_PAGE_STATUS_ENABLED then s
  else perfBump pg F.TILE_PERF_COUNT_LO_COUNT F.TILE_PERF_COUNT_HI_COUNT F.TILE_PERF_COUNT_HI_WRAP_COUNT
    F.TILE_PERF_WRAP_WRAPPED 1 3 s

/-! Exceptions. -/

/-- Engines of EXC.ENGINE. -/
def engSEQ : Nat := 0
def engDMA : Nat := 1
def engMXU : Nat := 2
def engVXU : Nat := 3

/-- Records the first exception (R223). -/
def recordExc (t code eng cp detail : Nat) (s : State) : State :=
  let pg := pgTILE t
  let s := ((s.wr pg F.TILE_EXC_CODE code).wr pg F.TILE_EXC_ENGINE eng).wr pg F.TILE_EXC_MORE 0
  let s := (s.wr pg F.TILE_EXC_CP_CP cp).wr pg F.TILE_EXC_DETAIL_DETAIL detail
  s.wr64 pg F.TILE_EXC_MET_LO_MET F.TILE_EXC_MET_HI_MET s.met

/-- HALTED: event 0x0301 with the EXC word and EXC_CP (R230). -/
def haltEvent (t : Nat) (s : State) : State :=
  logEv (pgTILE t) 0x0301 s (s.word (pgTILE t + 0x110)).toNat (s.word (pgTILE t + 0x114)).toNat

/-- An exception (Table 7.4): recorded in RUNNING, ENDING and QUIESCING, counted in DRAINING. -/
def tileExc (t code eng cp detail : Nat) (s : State) : State :=
  let st := s.seqState t
  if st = stRUNNING || st = stENDING || st = stQUIESCING then
    setSeqState t stDRAINING (recordExc t code eng cp detail (s.modTile t fun x => { x with waitMet := false }))
  else if st = stDRAINING then s.bump (pgTILE t) F.TILE_EXC_MORE
  else s

/-- The head command's number: address / 32. -/
def State.cp (s : State) (t : Nat) : Nat := s.rd (pgTILE t) F.TILE_SEQ_STATUS_CP

/-! Signals. -/

/-- A signal descriptor's fields (Table 8.2). -/
def dCHIP (d : Nat) : Nat := d % 2 ^ 13
def dCTR (d : Nat) : Nat := d / 2 ^ 13 % 8
def dTILE (d : Nat) : Nat := d / 2 ^ 16 % 2 ^ 12
def dKIND (d : Nat) : Bool := bitOf d 28
def dVALUE (d : Nat) : Nat := d / 2 ^ 32 % 2 ^ 32

/-- Whether a descriptor passes R239. -/
def descOk (d : Nat) : Bool :=
  d / 2 ^ 29 % 8 = 0 &&
  (if dKIND d then dCTR d = 0 && decide (dTILE d < 64) else decide (dTILE d < 2560))

/-- The chip offset of CMT.FENCE[n]. -/
def fenceOff (n : Nat) : Nat := winBase + pgCMT + fldOff F.CMT_FENCE_VALUE n 0

/-- Sends the remote part of a signal for the command at cp of an engine on a class (R238, R240). -/
def remoteSignal (t cp eng tc d : Nat) (s : State) : State :=
  let own := dCHIP d = s.chipNum
  if !dKIND d && own && dTILE d = t then tcAdd t (dCTR d) (dVALUE d) s
  else
    let a : Ask := { ep := t, req := s.owner (pgTILE t), dst := dCHIP d, offset := 0, op := opCSIG, words := 1,
                     data := leBytes 4 (dVALUE d), tc := tc, ordered := false, use := 2, arg := cp, arg2 := eng }
    if dKIND d then send { a with op := opATOMIC 10, offset := fenceOff (dTILE d) } s
    else send { a with offset := sramBase + dTILE d * 0x40000 + 4 * dCTR d } s

/-- Fields of the common header (Table 8.1). -/
def hOP (w : List Nat) : Nat := getBits (w.getD 0 0) 0 8
def hWMODE (w : List Nat) : Nat := getBits (w.getD 0 0) 8 2
def hWCTR (w : List Nat) : Nat := getBits (w.getD 0 0) 10 3
def hWREG (w : List Nat) : Nat := getBits (w.getD 0 0) 16 4
def hSMODE (w : List Nat) : Nat := getBits (w.getD 0 0) 20 2
def hSCTR (w : List Nat) : Nat := getBits (w.getD 0 0) 22 3
def hSREG (w : List Nat) : Nat := getBits (w.getD 0 0) 25 4
def hWIMM (w : List Nat) : Nat := w.getD 1 0
def hSADD (w : List Nat) : Nat := getBits (w.getD 2 0) 0 16
def hTC (w : List Nat) : Nat := getBits (w.getD 2 0) 16 3
def hTC_EN (w : List Nat) : Bool := bitOf (w.getD 2 0) 19
def hORDERED (w : List Nat) : Bool := bitOf (w.getD 2 0) 20
def hCOMPAT (w : List Nat) : Bool := bitOf (w.getD 2 0) 21
def hRND (w : List Nat) : Nat := getBits (w.getD 2 0) 22 2

/-- A field of word k. -/
def wf (w : List Nat) (k lo wid : Nat) : Nat := getBits (w.getD k 0) lo wid

/-- The class a command's packets travel on (R242). -/
def tcOf (s : State) (t : Nat) (w : List Nat) : Nat :=
  if hTC_EN w then hTC w else s.rd (pgTILE t) F.TILE_SEQ_CFG_DEFAULT_TC

/-- A command's signal (R238): the local ADD and the remote part, at the same moment. -/
def signal (t cp eng tc : Nat) (w : List Nat) (desc : Option Nat) (s : State) : State :=
  let s := if hSMODE w % 2 = 1 then tcAdd t (hSCTR w) (hSADD w) s else s
  match desc with
  | none => s
  | some d => if 2 ≤ hSMODE w then remoteSignal t cp eng tc d s else s

end Sys2Proof.Machine
end

