-- ==== Sys2Proof/Machine/Blt.lean ====
section
/-! DEFINITION. The blitter (20). -/
namespace Sys2Proof.Machine
open Sys2Proof

/-- The word of the copied blit registers at a page offset. -/
def bltWord (b : Blt) (off : Nat) : Nat := b.copy.getD ((off - 0x100) / 4) 0

/-- The copied fields (Table 20.3). -/
def bltOp (b : Blt) : Nat := getBits (bltWord b 0x100) 0 2
def bltYDir (b : Blt) : Bool := bitOf (bltWord b 0x100) 2
def bltCsc (b : Blt) : Bool := bitOf (bltWord b 0x100) 3
def bltAlpha (b : Blt) : Nat := getBits (bltWord b 0x100) 4 2
def bltSrcFmt (b : Blt) : Nat := getBits (bltWord b 0x100) 8 4
def bltDstFmt (b : Blt) : Nat := getBits (bltWord b 0x100) 12 4
def bltPlane (b : Blt) : Nat := getBits (bltWord b 0x100) 24 8
def bltSrc (b : Blt) : Nat := bltWord b 0x104 + getBits (bltWord b 0x108) 0 11 * 2 ^ 32
def bltSrcStride (b : Blt) : Nat := getBits (bltWord b 0x10C) 0 18
def bltDst (b : Blt) : Nat := bltWord b 0x110 + getBits (bltWord b 0x114) 0 11 * 2 ^ 32
def bltDstStride (b : Blt) : Nat := getBits (bltWord b 0x118) 0 18
def bltW (b : Blt) : Nat := getBits (bltWord b 0x11C) 0 16
def bltH (b : Blt) : Nat := getBits (bltWord b 0x11C) 16 16
def bltFill (b : Blt) : Nat := bltWord b 0x120 + bltWord b 0x124 * 2 ^ 32
def bltSignal (b : Blt) : Nat := bltWord b 0x144 + bltWord b 0x148 * 2 ^ 32
def bltSigEn (b : Blt) : Bool := bitOf (bltWord b 0x14C) 0
def bltOut (b : Blt) : Nat := getBits (bltWord b 0x150) 0 7

/-- The operation has a source. -/
def bltHasSrc (b : Blt) : Bool := bltOp b ≠ 1

/-- Bytes of a line, and the alignment of its format (Table 20.2, check 3). -/
def bltLineLen (fmt w : Nat) : Nat := w * fmtB fmt
def bltAlign (fmt : Nat) : Nat := if is422 fmt then 2 * fmtB fmt else fmtB fmt

/-- The checks of Table 20.2 in order: the check and the offset of the register holding the failing field (R594). -/
def bltCheck (s : State) (b : Blt) : Option (Nat × Nat) :=
  let sf := bltSrcFmt b
  let df := bltDstFmt b
  let src := bltHasSrc b
  let al := fun f v => !decide (v % bltAlign f = 0)
  let top := fun o st f => decide (hbmSize < o + (bltH b - 1) * st + bltLineLen f (bltW b))
  let dMax := if bltOp b = 0 then 6 else 4
  let l : List (Bool × Nat × Nat) :=
    [(src && decide (6 < sf), 1, 0x100), (decide (dMax < df), 1, 0x100), (decide (bltOp b = 0) && !decide (sf = df), 1, 0x100),
     (decide (bltAlpha b = 3), 1, 0x100), (src && is422 sf && !bltCsc b, 1, 0x100),
     (decide (bltW b = 0) || decide (7680 < bltW b) || decide (bltH b = 0), 2, 0x11C),
     (((src && is422 sf) || is422 df) && decide (bltW b % 2 = 1), 2, 0x11C),
     (src && al sf (bltSrc b), 3, 0x104), (al df (bltDst b), 3, 0x110), (src && al sf (bltSrcStride b), 3, 0x10C),
     (al df (bltDstStride b), 3, 0x118),
     (decide (1 < bltH b) && decide (bltDstStride b < bltLineLen df (bltW b)), 3, 0x118),
     (top (bltDst b) (bltDstStride b) df, 4, 0x110), (src && top (bltSrc b) (bltSrcStride b) sf, 4, 0x104),
     (bltSigEn b && !(descOk (bltSignal b) && decide (dCHIP (bltSignal b) = s.chipNum)), 5, 0x144)]
  (l.find? (·.1)).map (·.2)

/-- The endpoint of the blitter. -/
def epBLT : Nat := 0xA20

/-- A number put into a rising list, once. -/
def insertNew (x : Nat) : List Nat → List Nat
  | [] => [x]
  | y :: r => if x < y then x :: y :: r else if x = y then y :: r else y :: insertNew x r

/-- The line under way: line i of source and destination (R595). -/
def bltIndex (b : Blt) : Nat := if bltYDir b then bltH b - 1 - b.lines else b.lines

/-- The first byte of the line in the source and in the destination. -/
def bltSrcLine (b : Blt) : Nat := bltSrc b + bltIndex b * bltSrcStride b
def bltDstLine (b : Blt) : Nat := bltDst b + bltIndex b * bltDstStride b

/-- The aligned reads of the line, in ascending order: the source line and, for BLEND, the destination line. -/
def bltReads (b : Blt) : List Nat :=
  let src := if bltHasSrc b then blocks256 (bltSrcLine b) (bltLineLen (bltSrcFmt b) (bltW b)) else []
  let dst := if bltOp b = 3 then blocks256 (bltDstLine b) (bltLineLen (bltDstFmt b) (bltW b)) else []
  (src ++ dst).foldl (fun l x => insertNew x l) []

/-- A little-endian number of the line's bytes as read. -/
def bltNum (b : Blt) (o k : Nat) : Nat := leNat (mread (fun _ => 0) b.got o k)

/-- The bytes the line writes (R591, R592). -/
def bltBytes (b : Blt) : List Byte :=
  let w := bltW b
  let srcPx := fun x =>
    let p := pxAt (bltSrcFmt b) w (fun o k => bltNum b (bltSrcLine b + o) k) x
    let p := if bltCsc b then
        matrix ((List.range 12).map fun i => signed16v (bltWord b (0x128 + 4 * (i / 2)) / 2 ^ (16 * (i % 2)))) p
      else p
    clampPx p
  match bltOp b with
  | 0 => mread (fun _ => 0) b.got (bltSrcLine b) (bltLineLen (bltSrcFmt b) w)
  | 1 => (List.replicate w (leBytes (fmtB (bltDstFmt b)) (bltFill b))).flatten
  | 2 => lineBytes (bltDstFmt b) ((List.range w).map srcPx)
  | _ =>
    lineBytes (bltDstFmt b) ((List.range w).map fun x =>
      let d := clampPx (pxAt (bltDstFmt b) w (fun o k => bltNum b (bltDstLine b + o) k) x)
      blendPx (alphaForm (bltAlpha b) (bltPlane b) (srcPx x)) d)

/-- The owner of the BLT page: the requester of its accesses (R599). -/
def bltOwner (s : State) : Nat := s.owner pgBLT

/-- An access of the blitter goes out. -/
def bltSend (op off : Nat) (words : Nat) (data : List Byte) (s : State) : State :=
  let b := s.blt
  send { ep := epBLT, req := bltOwner s, dst := s.chipNum, offset := off, op := op, words := words, data := data, tc := 0,
         ordered := false, use := 1, arg := off, arg2 := 0 } { s with blt := { b with flying := b.flying + 1 } }

/-- Issues the accesses of the line, at most OUTSTANDING in flight: every read, and once every response is there, every
write (R595). -/
def bltIssue : Nat → State → State
  | 0, s => s
  | fuel + 1, s =>
    let b := s.blt
    if b.fail.isSome || decide (bltOut b ≤ b.flying) then s
    else if b.phase = 1 then
      match b.reads with
      | o :: r => bltIssue fuel (bltSend opREAD o 64 [] { s with blt := { b with reads := r } })
      | [] =>
        if b.flying ≠ 0 then s
        else
          let bs := bltBytes b
          let o := bltDstLine b
          bltIssue fuel
            { s with blt := { b with phase := 2, writes := (pieces256 o bs.length).map fun x => (x.1, slice bs (x.1 - o) x.2) } }
    else if b.phase = 2 then
      match b.writes with
      | x :: r => bltIssue fuel (bltSend opWRITE x.1 ((x.2.length + 3) / 4) x.2 { s with blt := { b with writes := r } })
      | [] => s
    else s

/-- The next line begins. -/
def bltLine (s : State) : State :=
  let b := { s.blt with phase := 1, got := [], writes := [] }
  bltIssue 256 { s with blt := { b with reads := bltReads b } }

/-- A START of BLIT (R593, R594). -/
def blitStart (req : Nat) (s : State) : State :=
  wakeStart pgBLT false (lopStart req pgBLT 1 false fun s =>
    let b := { Blt.none with copy := (List.range 21).map fun k => (s.word (pgBLT + 0x100 + 4 * k)).toNat }
    let s := s.wr64 pgBLT F.BLT_START_MET_LO_MET F.BLT_START_MET_HI_MET s.met
    match bltCheck s b with
    | some (c, o) => lopFail pgBLT resBAD_ARG (o + c * 2 ^ 16) s
    | none => bltLine { s with blt := b }) s

/-- BLIT_START (R593): a write of START with OP BLIT. -/
def execBlitStart (req : Nat) (s : State) : Host.Outcome State Fault Refusal :=
  liveP s (regWrite req (pgBLT + 0x40) (blitStart req))

/-- The blit that failed ends once nothing is in flight (R602). -/
def bltFailEnd (s : State) : State :=
  match s.blt.fail with
  | none => s
  | some (code, detail) =>
    if s.blt.flying ≠ 0 then s
    else
      let s := lopFail pgBLT code detail { s with blt := Blt.none }
      logEv pgBLT (if bitOf detail 24 then 0x2903 else 0x2902) s detail

/-- The blit fails with a status of Table 12.4, 0x10 for poison, or by a timeout (R602). -/
def bltFail (sig timeout : Bool) (st : Nat) (s : State) : State :=
  let b := s.blt
  let i := if sig then bltH b - 1 else bltIndex b
  let f := (if timeout then resTIMEOUT else resHW_ERROR, i % 2 ^ 16 + st * 2 ^ 16 + b2n sig * 2 ^ 24)
  { s with blt := { b with reads := [], writes := [], fail := some (b.fail.getD f) } }

/-- The response to an access of the blitter. -/
def bltResult (use o : Nat) (r : Res) (s : State) : State :=
  let b := s.blt
  let s := { s with blt := { b with flying := b.flying - 1 } }
  if use = 2 then
    match r with
    | .err st => bltFail true false st s
    | .timeout => bltFail true true 0 s
    | _ => { s with blt := { s.blt with phase := 4 } }
  else
    let s := match r with
      | .data bs false => { s with blt := { s.blt with got := mwrite (fun _ => 0) s.blt.got o bs } }
      | .data _ true => poisonSeen F.ERR_POISON_C_BLT_CMT (bltFail false false 0x10 s)
      | .ack => s
      | .err st => bltFail false false st s
      | .timeout => bltFail false true 0 s
    bltFailEnd (bltIssue 256 s)

/-- A watermark: the count is one that WATERMARK names (R597). -/
def bltMark (n : Nat) (s : State) : State :=
  let l := bltWord s.blt 0x140 % 2 ^ 16
  let e := bltWord s.blt 0x140 / 2 ^ 16
  if l ≠ 0 && (n = l || (e ≠ 0 && decide (l ≤ n) && (n - l) % e = 0)) then
    irq pgBLT 0 (s.wr pgBLT F.BLT_STATUS_LAST_WM n)
  else s

/-- The completion signal goes out (R598). -/
def bltSendSignal (s : State) : State :=
  let d := bltSignal s.blt
  let a : Ask := { ep := epBLT, req := bltOwner s, dst := s.chipNum, offset := sramBase + dTILE d * 0x40000 + 4 * dCTR d,
                   op := opCSIG, words := 1, data := leBytes 4 (dVALUE d), tc := 0, ordered := false, use := 2, arg := 0, arg2 := 0 }
  let a := if dKIND d then { a with op := opATOMIC 10, offset := fenceOff (dTILE d) } else a
  send a { s with blt := { s.blt with phase := 3, flying := 1 } }

/-- The effect of BLT_LINE_COMPLETE out of reset (R595). -/
def bltLineCompleteEffect (s : State) : State :=
  let b := s.blt
  if !lopRuns s pgBLT 1 || b.phase ≠ 2 || b.flying ≠ 0 || !b.writes.isEmpty || b.fail.isSome then s
  else
    let n := b.lines + 1
    let last := decide (n = bltH b)
    let s := bltMark n { s with blt := { b with lines := n, phase := 0 } }
    if last && bltSigEn b && !decide (s.lop pgBLT = lopCANCELLING) then
      bltSendSignal (lopEnter pgBLT lopRUNNING (s.wr pgBLT F.LOP_LOP_PROGRESS_DONE n))
    else
      let s := lopUnit pgBLT 1 last s
      if s.lop pgBLT = lopRUNNING then bltLine s
      else if s.lopActive pgBLT then s
      else { s with blt := Blt.none }

/-- BLT_LINE_COMPLETE (R595): every write of the line has completed; it counts, and the next line, the signal or the end
follows; a suspend or cancel that was asked for takes place (R601). -/
def execBltLineComplete (s : State) : Host.Outcome State Fault Refusal :=
  liveP s bltLineCompleteEffect

/-- BLT_SIGNAL_RESPONSE (R598): the response to the completion signal has arrived; the blit ends DONE or FAILED. -/
def execBltSignalResponse (s : State) : Host.Outcome State Fault Refusal :=
  liveP s fun s =>
    if s.blt.phase = 4 then lopFinish pgBLT { s with blt := Blt.none }
    else if s.blt.phase = 3 then bltFailEnd s
    else s

/-- A RESUME of a suspended blit goes on with the next line (R601). -/
def blitResume (s : State) : State := if s.blt.phase = 0 && !s.blt.copy.isEmpty then bltLine s else s

/-- A write of CNT_CLR. -/
def bltCntClr (v : Nat) (s : State) : State :=
  if bitOf v 0 then s.setWord (pgBLT + 0x158) 0 else s

/-- BLT_CNT_CLR (R605): a write of CNT_CLR. -/
def execBltCntClr (req : Nat) (v : Word) (s : State) : Host.Outcome State Fault Refusal :=
  live s (regWrite req (pgBLT + 0x16C) (bltCntClr v.toNat))

end Sys2Proof.Machine
end

