-- ==== Sys2Proof/Machine/Isp.lean ====
section
/-! DEFINITION. The image pipeline (21): its configuration and checks, the arithmetic of its stages, and its writes. -/
namespace Sys2Proof.Machine
open Sys2Proof

/-! The configuration (R630-R633). -/

/-- The words that APPLY takes, CFG to OUT. -/
def ispCfg (s : State) (pg : Nat) : List Nat := (List.range 237).map fun k => (s.word (pg + 0x130 + 4 * k)).toNat

/-- A field of a configuration. -/
def cf (c : List Nat) (f : Fld) (i : Nat := 0) (b : Nat := 0) : Nat :=
  getBits (c.getD ((fldOff f i b - 0x130) / 4) 0) (fldBit f i) f.wid

/-- A 64-bit value of a configuration. -/
def cf64 (c : List Nat) (lo hi : Fld) (b : Nat := 0) : Nat := cf c lo 0 b + cf c hi 0 b * 2 ^ 32

def cfEn (c : List Nat) (o : Nat) : Bool := cf c F.ISP_CTRL_EN 0 o = 1
/-- The format code of an output; CODE's 0x10 and 0x11 stand with FMT_HI. -/
def cfFmt (c : List Nat) (o : Nat) : Nat :=
  cf c F.ISP_CTRL_FMT 0 o + (if o = 1 && cf c F.ISP_CTRL_FMT_HI 0 1 = 1 then 0x10 else 0)
def cfBase (c : List Nat) (o : Nat) : Nat := cf64 c F.ISP_BASE_LO_BASE F.ISP_BASE_HI_BASE o
def cfStride (c : List Nat) (o : Nat) : Nat := cf c F.ISP_STRIDE_BYTES 0 o
def cfX (c : List Nat) (o : Nat) : Nat := cf c F.ISP_CROP_XY_X 0 o
def cfY (c : List Nat) (o : Nat) : Nat := cf c F.ISP_CROP_XY_Y 0 o
def cfCW (c : List Nat) (o : Nat) : Nat := cf c F.ISP_CROP_WH_W 0 o
def cfCH (c : List Nat) (o : Nat) : Nat := cf c F.ISP_CROP_WH_H 0 o
def cfOW (c : List Nat) (o : Nat) : Nat := cf c F.ISP_OUT_WH_W 0 o
def cfOH (c : List Nat) (o : Nat) : Nat := cf c F.ISP_OUT_WH_H 0 o
def cfFX (c : List Nat) : Nat := cf c F.ISP_OUT_WH_FX 0 2
def cfFY (c : List Nat) : Nat := cf c F.ISP_OUT_WH_FY 0 2

/-- The lines that cameras send now: WIDTH and HEIGHT in force. -/
def csiNow (s : State) (n : Nat) (f : Fld) : Nat := s.rd (pgCSI n + inForce) f
def camW (s : State) (n : Nat) : Nat := csiNow s n F.CSI_GEOM_WIDTH
def camH (s : State) (n : Nat) : Nat := csiNow s n F.CSI_GEOM_HEIGHT

/-- Bits per sample of a data type (Table 21.1). -/
def rawBits (dt : Nat) : Nat := 10 + 2 * (dt - 0x2B)

/-- The checks of one display or coding output, and of the vision output, as (failed, offset) (R616, R618, Table 21.3,
Table 21.7). A crop without a pixel fails, and so does one that leaves a frame of known size. -/
def outChecks (c : List Nat) (o w h : Nat) : List (Bool × Nat) :=
  let at_ := fun d => 0x180 + 0x40 * o + d
  let fmt := cfFmt c o
  let fmtOk := if o = 0 then fmt = 0 || fmt = 2 || fmt = 5 || fmt = 6
    else if o = 1 then fmt = 5 || fmt = 6 || fmt = 0x10 || fmt = 0x11 else fmt = 3 || fmt = 4 || fmt = 10
  let cw := cfCW c o
  let ch := cfCH c o
  let out := (decide (0 < w) && decide (w < cfX c o + cw)) || (decide (0 < h) && decide (h < cfY c o + ch))
  let size := if o = 2 then
      let fx := cfFX c
      let fy := cfFY c
      [(cw = 0 || ch = 0 || out || !decide (cw % fx = 0 && ch % fy = 0), at_ 0x18),
       (fx = 0 || decide (32 < fx) || fy = 0 || decide (32 < fy), at_ 0x1C)]
    else
      let ow := cfOW c o
      let oh := cfOH c o
      let sub := decide (5 ≤ fmt)
      let odd := (sub && decide (ow % 2 = 1)) || (decide (0x10 ≤ fmt) && decide (oh % 2 = 1))
      [(cw = 0 || ch = 0 || out, at_ 0x18),
       (decide (4 * ow < cw) || decide (2 * cw < ow) || decide (4 * oh < ch) || decide (2 * ch < oh) || odd, at_ 0x1C)]
  [(!fmtOk, at_ 0), (!decide (cf c F.ISP_BASE_LO_BASE 0 o % 16 = 0), at_ 4), (!decide (cfStride c o % 16 = 0), at_ 0xC),
   (!decide (cf c F.ISP_BUF_STEP_BYTES 0 o % 256 = 0), at_ 0x10)] ++ size

/-- The checks of R630 on a configuration, by rising offset: the offset of the first that fails. -/
def ispBad (c : List Nat) (w h : Nat) : Option Nat :=
  let rec0 := cf64 c F.ISP_RECORD_ADDR_LO_RECORD_ADDR F.ISP_RECORD_ADDR_HI_RECORD_ADDR
  let any := cfEn c 0 || cfEn c 1 || cfEn c 2
  firstFail
    ([(!decide (cf c F.ISP_TNR_BASE_LO_TNR_BASE % 256 = 0), 0x158), (!decide (cf c F.ISP_STATS_ADDR_LO_STATS_ADDR % 4096 = 0), 0x160),
      (!decide (rec0 % 512 = 0) || (any && rec0 = 0), 0x168), (!decide (cf c F.ISP_EMB_ADDR_LO_EMB_ADDR % 256 = 0), 0x170)]
      ++ (List.range 3).flatMap fun o => if cfEn c o then outChecks c o w h else [])

/-- A check of R630 failed, at an offset. -/
def applyBad (n off : Nat) (s : State) : State :=
  let s := (s.wr (pgISP n) F.ISP_STATUS_BAD_APPLY 1).wr (pgISP n) F.ISP_STATUS_BAD_CAUSE off
  irq (pgISP n) 7 s

/-- The staged values are checked and taken (R630). -/
def ispTake (n w h : Nat) (s : State) : State :=
  let pg := pgISP n
  let s := s.wr pg F.ISP_STATUS_APPLY_PENDING 0
  let c := ispCfg s pg
  match ispBad c w h with
  | some off => applyBad n off s
  | none =>
    let s := (List.range 237).foldl (fun s k => s.setWord (pg + inForce + 0x130 + 4 * k) (s.word (pg + 0x130 + 4 * k))) s
    let s := (s.wr pg F.ISP_STATUS_BAD_APPLY 0).wr pg F.ISP_STATUS_BAD_CAUSE 0
    irq pg 6 (s.modCam n fun x => { x with fresh := true })

/-- A write of APPLY: at once when OFF, else it waits for the next FS. -/
def ispApply (n v : Nat) (s : State) : State :=
  if bitOf v 0 then
    if ispState s n = 0 then ispTake n 0 0 s else s.wr (pgISP n) F.ISP_STATUS_APPLY_PENDING 1
  else s

/-- ISP_APPLY (R630): a write of APPLY. -/
def execIspApply (req n : Nat) (v : Word) (s : State) : Host.Outcome State Fault Refusal :=
  live s (regWrite req (pgISP n + 0x100) (ispApply n v.toNat))

/-! Raw stages (R612-R614). -/

/-- A coordinate mirrored into [0, m) about its edges. -/
def mirror (m : Nat) (i : Int) : Nat :=
  let j := if i < 0 then -i else i
  let j := if (m : Int) ≤ j then 2 * ((m : Int) - 1) - j else j
  j.toNat

/-- Stage 1: the black level, on a working value; with LEVEL at its largest the factor has no value, and what results is
free. -/
def blackLevel (level : Nat) (x : Int) : Int :=
  max 0 (rne (x * 65535 - level * pxOne) ((65535 - level) * 256) * 256)

/-- A raw line after stage 1. -/
def rawRow (c : List Nat) (bits : Nat) (codes : List Nat) (s : State) : List Int × State :=
  let level := cf c F.ISP_BLACK_LEVEL
  if level = 65535 then
    codes.foldl (fun a _ => let f := a.2.free 17; (a.1 ++ [((min f.1 65536 * 256 : Nat) : Int)], f.2)) (([] : List Int), s)
  else (codes.map fun v => blackLevel level (unsignedValue bits v), s)

/-- Stage 2 on one sample: the weighted mean over the samples of its colour within RANGE (R613). -/
def snr (c : List Nat) (w h : Nat) (at_ : Nat → Nat → Int) (x y : Nat) : Int :=
  let w1 := cf c F.ISP_SNR_W_W1
  let w2 := cf c F.ISP_SNR_W_W2
  let v := at_ x y
  let near : List (Int × Int × Nat) :=
    [(-2, 0, w1), (2, 0, w1), (0, -2, w1), (0, 2, w1), (-2, -2, w2), (-2, 2, w2), (2, -2, w2), (2, 2, w2)]
  let l := near.map fun d => (at_ (mirror w (x + d.1)) (mirror h (y + d.2.1)), d.2.2)
  let l := l.filter fun p => decide (((p.1 - v).natAbs : Int) * 65535 ≤ cf c F.ISP_SNR_W_RANGE * pxOne)
  let sum : Int := l.foldl (fun a p => a + p.1 * (p.2 : Int)) (v * 256)
  let wt := l.foldl (fun a p => a + p.2) 256
  rne sum (wt * 256) * 256

/-- Stage 3 on one sample with its reference (R614). -/
def tnr (c : List Nat) (x r : Int) : Int :=
  let m := cf c F.ISP_TNR_MOTION
  let k := m * pxOne - ((r - x).natAbs : Int) * 65535
  if m = 0 || k ≤ 0 then x
  else rne (x * (256 * m * pxOne) + (r - x) * cf c F.ISP_TNR_STRENGTH * k) (256 * m * (2 ^ 24) * 256) * 256

/-! Colour stages. -/

/-- The colour at a place: 0 R, 1 Gr, 2 Gb, 3 B (Table 21.7). -/
def cfaAt (cfa x y : Nat) : Nat :=
  let i := 2 * (y % 2) + x % 2
  match cfa with
  | 0 => i
  | 1 => [1, 0, 3, 2].getD i 0
  | 2 => [2, 3, 0, 1].getD i 0
  | _ => 3 - i

/-- Stage 4: the white balance of a sample of a colour. -/
def balance (c : List Nat) (col : Nat) (v : Int) : Int := rnd16 12 (v * cf c F.ISP_WB_GAIN col)

/-- The mean of k samples, rounded once. -/
def meanOf (l : List Int) : Int := rne (l.foldl (· + ·) 0) (l.length * 256) * 256

/-- Stage 5 on one pixel: R, G and B from the balanced samples (R612). -/
def demosaic (cfa w h : Nat) (at_ : Nat → Nat → Int) (x y : Nat) : Int × Int × Int :=
  let v := at_ x y
  if cfa = 4 then (v, v, v)
  else
    let g := fun (dx dy : Int) => at_ (mirror w (x + dx)) (mirror h (y + dy))
    let horiz := meanOf [g (-1) 0, g 1 0]
    let vert := meanOf [g 0 (-1), g 0 1]
    let cross := meanOf [g (-1) 0, g 1 0, g 0 (-1), g 0 1]
    let diag := meanOf [g (-1) (-1), g 1 (-1), g (-1) 1, g 1 1]
    match cfaAt cfa x y with
    | 0 => (v, cross, diag)
    | 1 => (horiz, v, vert)
    | 2 => (vert, v, horiz)
    | _ => (diag, cross, v)

/-- The tone curve on a clamped value (R612). -/
def toneOf (c : List Nat) (v : Int) : Int :=
  let i := (v / 2 ^ 18).toNat
  let f := v % 2 ^ 18
  let t := fun k => ((cf c F.ISP_TONE_VALUE k : Nat) : Int)
  if 64 ≤ i then rne (t 64 * 65536) 65535 * 256
  else rne ((t i * (2 ^ 18 - f) + t (i + 1) * f) * 65536) (65535 * 2 ^ 18) * 256

/-- A field of twelve signed matrix values. -/
def cfMatrix (c : List Nat) (f : Fld) : List Int := (List.range 12).map fun i => signed16v (cf c f i)

/-- Stage 6 on one pixel: colour matrix, clamp, tone curve. -/
def toned (c : List Nat) (p : Int × Int × Int) : Int × Int × Int :=
  let q := clampPx (matrix (cfMatrix c F.ISP_CCM_VALUE) ⟨p.1, p.2.1, p.2.2, pxOne⟩)
  (toneOf c q.c0, toneOf c q.c1, toneOf c q.c2)

/-- Y of a toned pixel (R616), rounded once. -/
def lumaOf (p : Int × Int × Int) : Int := rne (2126 * p.1 + 7152 * p.2.1 + 722 * p.2.2) (10000 * 256) * 256

/-! Statistics (R624). -/

/-- The zone that a coordinate of m lies in. -/
def zoneOf (m x : Nat) : Nat := ((List.range 16).filter fun i => decide (i * m / 16 ≤ x)).length - 1

/-- A saturating addition of a value, in units of 2^-16, to element i of a list. -/
def addAt (l : List Nat) (i : Nat) (v : Nat) : List Nat := l.set i (min (l.getD i 0 + v) (2 ^ 32 - 1))

/-- The statistics of a row: the pixels after stage 5 and after stage 6. -/
def rowStats (w h y : Nat) (d t : List (Int × Int × Int)) (f : CamFrame) : CamFrame :=
  let zj := zoneOf h y
  let zones := (List.range d.length).foldl (fun l x =>
    let p := d.getD x (0, 0, 0)
    let z := 3 * (16 * zj + zoneOf w x)
    addAt (addAt (addAt l z (p.1 / 256).toNat) (z + 1) (p.2.1 / 256).toNat) (z + 2) (p.2.2 / 256).toNat) f.zones
  let hist := t.foldl (fun l p => addAt l (min 255 ((lumaOf p) / 65536).toNat) 1) f.hist
  { f with zones := zones, hist := hist }

/-! Outputs. -/

/-- A toned pixel of a frame. -/
def tonedAt (f : CamFrame) (x y : Nat) : Px :=
  let p := (f.toned.getD y []).getD x (0, 0, 0)
  ⟨p.1, p.2.1, p.2.2, pxOne⟩

/-- A pixel of a display or coding output: the output matrix on the toned RGB, then the scaled crop (R615, R618). -/
def outPx (f : CamFrame) (o i j : Nat) : Px :=
  let c := f.cfg
  let m := cfMatrix c (if o = 0 then F.ISP_OCSC_DISP_VALUE else F.ISP_OCSC_CODE_VALUE)
  let get := fun x y =>
    let p := tonedAt f (cfX c o + x) (cfY c o + y)
    if 5 ≤ cfFmt c o then matrix m p else p
  sample (cfCW c o) (cfCH c o) (cfOW c o) (cfOH c o) get i j

/-- A component of the coding formats 0x10 and 0x11. -/
def nvBytes (fmt : Nat) (v : Int) : List Byte := if fmt = 0x10 then leBytes 1 (toUnsigned 8 v) else leBytes 2 (toUnsigned 10 v * 64)

/-- The bytes of row j of a display or coding output, by offset in its buffer; a chroma row comes with the second row of
its pair (Table 21.3). -/
def outRow (f : CamFrame) (o j : Nat) : List (Nat × List Byte) :=
  let c := f.cfg
  let fmt := cfFmt c o
  let w := cfOW c o
  let st := cfStride c o
  if fmt < 0x10 then [(j * st, lineBytes fmt ((List.range w).map fun i => outPx f o i j))]
  else
    let luma := (j * st, (List.range w).flatMap fun i => nvBytes fmt (outPx f o i j).c0)
    if j % 2 = 0 then [luma]
    else
      let mean4 := fun (g : Px → Int) i =>
        meanOf [g (outPx f o (2 * i) (j - 1)), g (outPx f o (2 * i + 1) (j - 1)), g (outPx f o (2 * i) j), g (outPx f o (2 * i + 1) j)]
      [luma, (cfOH c o * st + j / 2 * st,
        (List.range (w / 2)).flatMap fun i => nvBytes fmt (mean4 (·.c1) i) ++ nvBytes fmt (mean4 (·.c2) i))]

/-- v × SCALE + OFFSET in FP32, each operation rounded, and the conversion to the element format (R616). -/
def visElem (c : List Nat) (v : Int) : Nat :=
  let x : Num := .fin (decide (v < 0)) v.natAbs (-24)
  let p := rnd0 fFP32 (mulN (rnd0 fFP32 x) (decFlt fFP32 (cf c F.ISP_SCALE_FP32 0 2))).1
  let q := rnd0 fFP32 (addN p (decFlt fFP32 (cf c F.ISP_OFFSET_FP32 0 2))).1
  (toElem (cfFmt c 2) 0 0 q).1

/-- The bytes of row r of the vision output, channel by channel (R616, Table 21.3). -/
def visRow (f : CamFrame) (r : Nat) : List (Nat × List Byte) :=
  let c := f.cfg
  let fx := cfFX c
  let fy := cfFY c
  let chans : List (Px → Int) :=
    if cf c F.ISP_CTRL_CHANNELS 0 2 = 1 then [(·.c0), (·.c1), (·.c2)] else [fun p => lumaOf (p.c0, p.c1, p.c2)]
  (List.range chans.length).map fun k =>
    let g := chans.getD k (·.c0)
    let elem := fun i =>
      visElem c (meanOf ((List.range (fx * fy)).map fun q => g (tonedAt f (cfX c 2 + i * fx + q % fx) (cfY c 2 + r * fy + q / fx))))
    (k * cf c F.ISP_PLANE_STEP_BYTES 0 2 + r * cfStride c 2, packElems (cfFmt c 2) ((List.range (cfCW c 2 / fx)).map elem))

/-- The last input row that row j of an output needs. -/
def lastNeed (c : List Nat) (o j : Nat) : Nat :=
  if o = 2 then cfY c 2 + cfFY c * (j + 1) - 1 else cfY c o + (taps (cfCH c o) (cfOH c o) j).2.1

/-- The rows of an output. -/
def outRows (c : List Nat) (o : Nat) : Nat := if o = 2 then cfCH c 2 / cfFY c else cfOH c o

/-! Writes (R620). -/

/-- The endpoint of output o of pipeline n; 3 carries the rest. -/
def epISP (n o : Nat) : Nat := 0xA00 + 4 * n + o

/-- Sends writes that wait, at most OUTSTANDING in flight on each endpoint, the oldest first. -/
def camPump (n : Nat) : Nat → State → State
  | 0, s => s
  | fuel + 1, s =>
    let x := s.cam n
    let lim := s.rd (pgISP n + inForce) F.ISP_OUT_OUTSTANDING
    match x.wq.findIdx? fun e => decide ((s.waitingOf (epISP n e.out)).length < lim) with
    | none => s
    | some k =>
      match x.wq[k]? with
      | none => s
      | some e =>
        let s := s.modCam n fun x => { x with wq := x.wq.eraseIdx k }
        camPump n fuel <| send
          { ep := epISP n e.out, req := s.owner (pgISP n), dst := gaChip e.ga, offset := gaOff e.ga, op := opWRITE,
            words := (e.data.length + 3) / 4, data := e.data, tc := s.rd (pgISP n + inForce) F.ISP_CFG_TC, ordered := false,
            use := e.use, arg := e.seq, arg2 := e.out } s

/-- Queues bytes for an address, cut at 256-byte boundaries, and sends what may go. -/
def camWrite (n seq out use ga : Nat) (bs : List Byte) (s : State) : State :=
  let l := (pieces256 ga bs.length).map fun p => { seq := seq, out := out, use := use, ga := p.1, data := slice bs (p.1 - ga) p.2 : CamWrite }
  camPump n 256 (s.modCam n fun x => { x with wq := x.wq ++ l })

/-- Writes of a frame that are queued or in flight. -/
def camBusy (s : State) (n seq : Nat) : Bool :=
  (s.cam n).wq.any (fun e => e.seq = seq) ||
  (s.outst.any fun t => t.ep / 4 = 0x280 + n && !t.quar && t.use ≠ 0 && t.use ≠ 5 && t.arg = seq)

end Sys2Proof.Machine
end

