-- ==== Sys2Proof/Machine/Score.lean ====
section
/-! DEFINITION. The checks a command meets at the head of the sequencer (08 R235-R263, R271, 10 R289). A failed check is a
code of Table 7.5 with its EXC_DETAIL. -/
namespace Sys2Proof.Machine
open Sys2Proof

/-- What a failed check raises: code and detail. -/
abbrev Bad := Option (Nat × Nat)

/-- The opcodes of Table 8.4. -/
def opcodes : List Nat :=
  [0x00, 0x01, 0x02, 0x03, 0x04, 0x05, 0x06, 0x10, 0x11, 0x20, 0x21, 0x22, 0x23, 0x30, 0x40, 0x41, 0x44, 0x48, 0x60, 0x61,
   0x62, 0x80, 0x81, 0x82, 0x84, 0x85, 0x86]

/-- BAD_FIELD at a byte of the command (R236). -/
def badField (w : List Nat) (byte : Nat) : Bad := some (2, hOP w + byte * 256)

/-- BAD_FIELD at a byte when a condition holds. -/
def badIf (w : List Nat) (c : Bool) (byte : Nat) : Bad := if c then badField w byte else none

/-- BAD_LOCAL with an offset when a condition holds. -/
def badLocal (c : Bool) (off : Nat) : Bad := if c then some (3, off % 2 ^ 18) else none

/-- The first check that fails. -/
def firstBad (l : List Bad) : Bad := l.findSome? id

/-- The bits of words W0-W7 that a command's tables name. -/
def fieldMasks (op : Nat) : List Nat :=
  let h := [0x1FFF1FFF, 0xFFFFFFFF, 0x00FFFFFF]
  let all := 0xFFFFFFFF
  h ++ match op with
  | 0x02 => [0x1FFF, 0, 0, 0, 0]
  | 0x03 => [0x31FFF, 0, 0, 0, 0]
  | 0x04 => [0x7FF, 0x1FFF, 0, 0, 0]
  | 0x05 => [0xFFFF, 0, 0, 0, 0]
  | 0x06 => [0x1F, all, all, 0, 0]
  | 0x10 => [0xFF, all, 0, 0, 0]
  | 0x11 => [0x7, all, 0, 0, 0]
  | 0x20 => [0xF, all, all, 0, 0]
  | 0x21 => [0xFF, all, all, 0, 0]
  | 0x22 => [0xFFFF, 0, 0, 0, 0]
  | 0x23 => [0x7FF, 0, 0, 0, 0]
  | 0x30 => [0xFB, all, 0, 0, 0]
  | 0x40 => [0x3FFFFF, all, all, 0x7FFFF, all]
  | 0x41 => [0x3FFFFF, all, all, 0x7FFFF, all]
  | 0x44 => [0x7C0000, all, all, all, 0]
  | 0x48 => [all, all, 0xF, 0, 0]
  | 0x60 => [0xBFFFF, 0x3FFFF, 0xF7FF, 0x3FFFF, 0]
  | 0x61 => [0xFF1FFFFF, 0x3FFFF, 0xF7FF, 0x3FFFF, 0]
  | 0x62 => [0xFF0FFFFF, 0x3FFFF, 0xF000, 0, 0]
  | 0x80 => [all, 0x7FFFF, 0x3FFFF, 0x3FFFF, 0xFFFF]
  | 0x81 => [0x0F1FFFFF, 0x3FFFF, 0, 0, 0xFFFF]
  | 0x82 => [0xFF1FFFFF, 0x7FFFF, 0x3FFFF, all, all]
  | 0x84 => [0xFF03FFFF, 0x7FFFF, 0x3FFFF, all, all]
  | 0x85 => [0x0F07FFFF, 0x3FFFF, 0, all, all]
  | 0x86 => [0xFF03FFFF, 0x3FFFF, 0x3FFFF, all, all]
  | _ => [0, 0, 0, 0, 0]

/-- The lowest bit of the reserved field of a word that holds the lowest wrong bit: the run of unnamed bits around it. -/
def reservedStart (mask : Nat) : Nat → Nat
  | 0 => 0
  | n + 1 => if bitOf mask n then n + 1 else reservedStart mask n

/-- The byte of the first reserved field that is not 0. -/
def reservedBad (w : List Nat) : Bad :=
  (List.range 8).findSome? fun k =>
    let mask := (fieldMasks (hOP w)).getD k 0
    let v := w.getD k 0
    match (List.range 32).find? fun b => bitOf v b && !bitOf mask b with
    | none => none
    | some b => badField w (4 * k + reservedStart mask b / 8)

/-- DMA commands. -/
def isDma (op : Nat) : Bool := op = 0x40 || op = 0x41 || op = 0x44 || op = 0x48

/-- VXU commands. -/
def isVxu (op : Nat) : Bool := decide (0x80 ≤ op) && decide (op ≤ 0x86)

/-- Commands that evaluate a special function (R288). -/
def usesSfu (w : List Nat) : Bool :=
  match hOP w with
  | 0x80 => wf w 3 18 6 = 9 || wf w 3 18 6 = 10
  | 0x82 => decide (2 ≤ wf w 3 18 3)
  | 0x84 => true
  | 0x85 => true
  | 0x86 => true
  | _ => false

/-- The header rules of R235 and R289. -/
def headerBad (w : List Nat) : Bad :=
  let op := hOP w
  let wm := hWMODE w
  let sm := hSMODE w
  let sends := isDma op || decide (2 ≤ sm)
  let rndOk := isVxu op || op = 0x62
  firstBad
    [badIf w (wm = 3) 1, badIf w (wm = 0 && hWCTR w ≠ 0) 1, badIf w (wm ≠ 2 && hWREG w ≠ 0) 2,
     badIf w (sm % 2 = 0 && hSCTR w ≠ 0) 2, badIf w (decide (sm < 2) && hSREG w ≠ 0) 3,
     badIf w (wm = 0 && hWIMM w ≠ 0) 4, badIf w (sm % 2 = 0 && hSADD w ≠ 0) 8,
     badIf w (decide (6 ≤ hTC w) || (!sends && hTC w ≠ 0)) 10, badIf w (!sends && hTC_EN w) 10,
     badIf w (!isDma op && hORDERED w) 10, badIf w (hCOMPAT w && !usesSfu w) 10,
     badIf w (hRND w = 3 || (hRND w ≠ 0 && !rndOk)) 10,
     badIf w (hCOMPAT w && isVxu op && wf w 3 24 4 = 0) 10, badIf w (op = 0x85 && hRND w ≠ 0) 10]

/-- The descriptor a command with a remote signal reads (R239). -/
def descBad (t : Nat) (w : List Nat) (s : State) : Bad :=
  badIf w (decide (2 ≤ hSMODE w) && !descOk (s.sreg t (hSREG w))) 3

/-! DMA. -/

/-- A 32-bit value sign-extended, modulo 2^64. -/
def sext32 (v : Nat) : Nat := if v < 2 ^ 31 then v else v + (2 ^ 64 - 2 ^ 32)

/-- The global start of row r for a base S[AREG] (R250). -/
def rowGlobal (base : Nat) (w : List Nat) (r : Nat) : Nat :=
  (base + sext32 (w.getD 4 0) + r * sext32 (w.getD 7 0)) % 2 ^ 64

/-- Rows and bytes per row of a DMA transfer. -/
def dmaRows (w : List Nat) : Nat := wf w 5 19 13 + 1
def rowBytes (w : List Nat) : Nat := wf w 5 0 19

/-- The local start of row r. -/
def rowLocal (w : List Nat) (r : Nat) : Nat := wf w 3 0 18 + r * wf w 6 0 19

/-- Checks of DMA_GET and DMA_PUT (R250). -/
def dmaBad (get : Bool) (base : Nat) (w : List Nat) : Bad :=
  let rows := List.range (dmaRows w)
  let n := rowBytes w
  firstBad
    [badIf w (rows.any fun r =>
        let g := rowGlobal base w r
        !decide (g % 4 = 0) || decide (2 ^ 56 ≤ g) || decide (2 ^ 56 ≤ (g + n - 1) % 2 ^ 64)) 14,
     badIf w (n = 0 || !decide (n % 4 = 0) || decide (0x40000 < n)) 20,
     badIf w (get && decide (1 < dmaRows w) && decide (wf w 6 0 19 < n)) 24,
     badLocal (!decide (wf w 3 0 18 % 4 = 0) || !decide (wf w 6 0 19 % 4 = 0)) (wf w 3 0 18),
     rows.findSome? fun r => badLocal (decide (0x40000 < rowLocal w r + n)) (rowLocal w r)]

/-- The global address of STORE_IMM and ATOMIC (R253). -/
def immGlobal (base : Nat) (w : List Nat) : Nat := (base + sext32 (w.getD 4 0)) % 2 ^ 64

/-- Checks of STORE_IMM. -/
def storeImmBad (base : Nat) (w : List Nat) : Bad :=
  let g := immGlobal base w
  let size := if bitOf (w.getD 3 0) 22 then 8 else 4
  firstBad [badIf w (!decide (g % size = 0) || decide (2 ^ 56 ≤ g)) 14, badIf w (size = 4 && w.getD 6 0 ≠ 0) 24]

/-- Checks of ATOMIC. -/
def atomicBad (base : Nat) (w : List Nat) : Bad :=
  let g := immGlobal base w
  let size := if bitOf (w.getD 3 0) 30 then 8 else 4
  let ren := bitOf (w.getD 3 0) 31
  let aop := wf w 5 0 4
  firstBad [badIf w (!ren && wf w 3 0 18 ≠ 0) 12, badIf w (!decide (g % size = 0) || decide (2 ^ 56 ≤ g)) 14,
            badIf w (aop ≠ 5 && wf w 3 26 4 ≠ 0) 15, badIf w (decide (11 ≤ aop)) 20,
            badLocal (ren && !decide (wf w 3 0 18 % size = 0)) (wf w 3 0 18)]

/-! MXU. -/

/-- A base and a stride that are no multiples of 4, or a row beyond the SRAM. -/
def rowsBad (base stride rows bytes : Nat) : Bad :=
  firstBad [badLocal (!decide (base % 4 = 0)) base, badLocal (!decide (stride % 4 = 0)) stride,
            (List.range rows).findSome? fun r => badLocal (decide (0x40000 < base + r * stride + bytes)) (base + r * stride)]

/-- A run of bytes that is misaligned or goes beyond the SRAM. -/
def runBad (al base bytes : Nat) : Bad :=
  badLocal (!decide (base % al = 0) || decide (0x40000 < base + bytes)) base

/-- Checks of MXU_STAGE (R255, R256). -/
def stageBad (w : List Nat) : Bad :=
  let k := wf w 5 0 11
  let fmt := wf w 5 12 4
  firstBad [badIf w (k = 0 || decide (kMax fmt < k) || (isMx fmt && !decide (k % 32 = 0))) 20, badIf w (decide (12 ≤ fmt)) 21,
            badIf w (!isMx fmt && wf w 6 0 18 ≠ 0) 24,
            rowsBad (wf w 3 0 18) (wf w 4 0 18) k (fmtBytes fmt 32),
            if isMx fmt then runBad 4 (wf w 6 0 18) k else none]

/-- Checks of MXU_MMA (R255, R257). -/
def mmaBad (x : Tile) (w : List Nat) : Bad :=
  let k := wf w 5 0 11
  let fmt := wf w 5 12 4
  let m := wf w 3 24 8 + 1
  let rc := x.wrec.getD (wf w 3 19 1) none
  let acc := x.arec.getD (wf w 3 18 1) 0
  firstBad [badIf w rc.isNone 14, badIf w (!bitOf (w.getD 3 0) 20 && !decide (accType fmt = acc)) 14,
            badIf w (decide (128 < m)) 15,
            match rc with
            | none => none
            | some r => firstBad [badIf w (!decide (r.2 = k)) 20, badIf w (!decide (r.1 = fmt)) 21],
            badIf w (!isMx fmt && wf w 6 0 18 ≠ 0) 24,
            rowsBad (wf w 3 0 18) (wf w 4 0 18) m (fmtBytes fmt k),
            if isMx fmt then runBad 4 (wf w 6 0 18) (m * (k / 32)) else none]

/-- Whether MXU_DRAIN takes an output format (R259). -/
def drainTakes (typ ofmt : Nat) : Bool :=
  ofmt = 15 ||
  match typ with
  | 0 => decide (1 ≤ ofmt) && decide (ofmt ≤ 6)
  | 1 => ofmt = 10 || ofmt = 11 || ofmt = 1
  | _ => ofmt = 0 || ofmt = 1

/-- Bytes of a drained row. -/
def drainBytes (typ ofmt : Nat) : Nat := if ofmt = 15 then (if typ = 2 then 256 else 128) else fmtBytes ofmt 32

/-- Checks of MXU_DRAIN. -/
def drainBad (x : Tile) (w : List Nat) : Bad :=
  let typ := x.arec.getD (wf w 3 18 1) 0
  let ofmt := wf w 5 12 4
  let m := wf w 3 24 8 + 1
  firstBad [badIf w (decide (128 < m)) 15, badIf w (!drainTakes typ ofmt) 21,
            rowsBad (wf w 3 0 18) (wf w 4 0 18) m (drainBytes typ ofmt)]

/-! VXU. -/

/-- FP64, FP32, FP24, FP16 and bfloat16. -/
def vxuFmt (f : Nat) : Bool := decide (f ≤ 4)

/-- Whether two runs overlap without being the same run (R263). -/
def partOverlap (a : Nat × Nat) (b : Nat × Nat) : Bool :=
  decide (a.1 < b.1 + b.2) && decide (b.1 < a.1 + a.2) && !decide (a = b)

/-- The element count of a VXU command, its row length and its rows. -/
def vN (w : List Nat) : Nat := wf w 7 0 16 + 1
def vL (w : List Nat) : Nat := wf w 7 0 16 + 1
def vROWS (w : List Nat) : Nat := wf w 7 16 16 + 1

/-- The inputs of VOP: A, B and C, as the operation reads them. -/
def vopOps (w : List Nat) : Bool × Bool × Bool :=
  let v := wf w 3 18 6
  (true, decide (v ≤ 5), v = 5 || (v = 8 && (isMx (wf w 3 24 4) || isMx (wf w 3 28 4))))

/-- The operand runs a VXU command reads: start, bytes and alignment. -/
def vxuIn (w : List Nat) : List (Nat × Nat × Nat) :=
  let fmt := wf w 3 24 4
  let a := wf w 4 0 18
  let nl := vL w * vROWS w
  match hOP w with
  | 0x80 =>
    let o := vopOps w
    let cLen := if wf w 3 18 6 = 8 then vN w / 32 else fmtBytes fmt (vN w)
    let cIn := o.2.2 && (wf w 3 18 6 = 5 || isMx fmt)
    [(a, fmtBytes fmt (vN w), 4)]
      ++ (if o.2.1 then [(wf w 5 0 18, fmtBytes fmt (if bitOf (w.getD 4 0) 18 then 1 else vN w), 4)] else [])
      ++ (if cIn then [(wf w 6 0 18, cLen, 4)] else [])
  | 0x81 => [(a, fmtBytes fmt (vN w), 4)]
  | 0x82 => [(a, fmtBytes fmt nl, 4)] ++ (if bitOf (w.getD 4 0) 18 then [(wf w 5 0 18, 4 * vL w, 4)] else [])
  | 0x84 => [(a, fmtBytes fmt nl, 4)] ++ (if bitOf (w.getD 4 0) 18 then [(wf w 5 0 18, 4 * vL w, 4)] else [])
  | 0x85 => [(a, fmtBytes fmt nl, 4), (wf w 3 0 18, 16 * vROWS w, 16)]
  | _ => [(a, fmtBytes fmt nl, 4), (wf w 5 0 18, 16 * vROWS w, 16)]

/-- The runs it writes. -/
def vxuOut (w : List Nat) : List (Nat × Nat × Nat) :=
  let fmt := wf w 3 24 4
  let ofmt := wf w 3 28 4
  let d := wf w 3 0 18
  match hOP w with
  | 0x80 => [(d, fmtBytes ofmt (vN w), 4)] ++ (if wf w 3 18 6 = 8 && isMx ofmt then [(wf w 6 0 18, vN w / 32, 4)] else [])
  | 0x81 => [(d, if fmt = 0 then 8 else 4, 4)]
  | 0x85 => [(d, 16 * vROWS w, 16)]
  | _ => [(d, fmtBytes ofmt (vL w * vROWS w), 4)]

/-- Checks of the VXU commands (R261-R263, R271, R289). -/
def vxuBad (w : List Nat) : Bad :=
  let op := hOP w
  let fmt := wf w 3 24 4
  let ofmt := wf w 3 28 4
  let vop := wf w 3 18 6
  let act := wf w 3 18 3
  let cvt := op = 0x80 && vop = 8
  let mx := isMx fmt || isMx ofmt
  let ins := vxuIn w
  let outs := vxuOut w
  firstBad
    [badIf w (op = 0x80 && decide (11 ≤ vop)) 14, badIf w (op = 0x81 && decide (5 ≤ act)) 14,
     badIf w (op = 0x82 && decide (6 ≤ act)) 14,
     badIf w (if cvt then decide (12 ≤ fmt) else !vxuFmt fmt) 15,
     badIf w ((op = 0x85 || op = 0x86) && fmt = 0) 15,
     badIf w (op ≠ 0x81 && op ≠ 0x85 && (if cvt then decide (12 ≤ ofmt) else !vxuFmt ofmt)) 15,
     badIf w (op = 0x80 && decide (6 ≤ vop) && wf w 5 0 18 ≠ 0) 20,
     badIf w ((op = 0x82 || op = 0x84) && !bitOf (w.getD 4 0) 18 && wf w 5 0 18 ≠ 0) 20,
     badIf w (op = 0x80 && !(vop = 5 || (cvt && mx)) && wf w 6 0 18 ≠ 0) 24,
     badIf w (cvt && mx && !decide (vN w % 32 = 0)) 28,
     badIf w (cvt && (fmt = 11 || ofmt = 11) && !decide (vN w % 2 = 0)) 28,
     badIf w (outs.any fun o => ins.any fun i => partOverlap (o.1, o.2.1) (i.1, i.2.1)) 12,
     (ins ++ outs).findSome? fun r => runBad r.2.2 r.1 r.2.1]

/-! Every command. -/

/-- The operand checks of a command (R236 steps 3 and 4). -/
def operandBad (t : Nat) (w : List Nat) (s : State) : Bad :=
  let x := s.tile t
  let base := s.sreg t (wf w 3 18 4)
  match hOP w with
  | 0x04 => badIf w (decide (6 ≤ wf w 3 8 3)) 13
  | 0x10 => badIf w (!bitOf (w.getD 3 0) 3 && wf w 3 4 4 ≠ 0) 12
  | 0x22 => badIf w (decide (11 ≤ wf w 3 12 4)) 13
  | 0x23 =>
    let src := wf w 3 4 4
    let idx := wf w 3 8 3
    firstBad [badIf w (decide (5 ≤ src)) 12,
              badIf w ((decide (2 ≤ src) && idx ≠ 0) || (src = 1 && decide (3 < idx))) 13]
  | 0x30 => badIf w (!bitOf (w.getD 3 0) 3 && wf w 3 4 4 ≠ 0) 12
  | 0x40 => dmaBad true base w
  | 0x41 => dmaBad false base w
  | 0x44 => storeImmBad base w
  | 0x48 => atomicBad base w
  | 0x60 => stageBad w
  | 0x61 => mmaBad x w
  | 0x62 => drainBad x w
  | _ => if isVxu (hOP w) then vxuBad w else none

/-- The checks of the head command, in the order of R236. -/
def commandBad (t : Nat) (w : List Nat) (s : State) : Bad :=
  firstBad [if opcodes.contains (hOP w) then none else some (1, hOP w), reservedBad w, headerBad w, descBad t w s,
            operandBad t w s]

end Sys2Proof.Machine
end

