-- ==== Sys2Proof/Machine/Seq.lean ====
section
/-! DEFINITION. The sequencer (07 R212-R221) and the sequencer-local commands of a score (08 R245-R248). -/
namespace Sys2Proof.Machine
open Sys2Proof

/-- The sequencer may issue: RUNNING, ENABLE = 1 and QUIESCE = 0 (R213). -/
def State.issuing (s : State) (t : Nat) : Bool := s.seqState t = stRUNNING && s.running (pgTILE t)

/-- The head command's words, when its row has been read. -/
def headWords (t : Nat) (s : State) : Option (List Nat) :=
  match (s.tile t).fetched with
  | none => none
  | some (row, ws) => if row = s.cp t / 4 then some ((ws.drop (8 * (s.cp t % 4))).take 8) else none

/-- An unknown opcode at the head raises ILLEGAL_OP (R244). -/
def decodeHead (t : Nat) (s : State) : State :=
  match headWords t s with
  | none => s
  | some w => if opcodes.contains (hOP w) then s else tileExc t 1 engSEQ (s.cp t) (hOP w) s

/-- BLOCK of SEQ_STATUS (R213). -/
def setBlock (t b : Nat) (s : State) : State := s.wr (pgTILE t) F.TILE_SEQ_STATUS_BLOCK b

/-- The next command: in the row already read, or in a row that must be read (R212). -/
def goTo (t cp : Nat) (fresh : Bool) (s : State) : State :=
  let same := !fresh && decide (cp / 4 = s.cp t / 4) && (s.tile t).fetched.isSome
  let s := s.wr (pgTILE t) F.TILE_SEQ_STATUS_CP (cp % 2 ^ 13)
  let s := s.modTile t fun x => { x with waitMet := false }
  if same then decodeHead t (setBlock t 0 s)
  else setBlock t 3 (s.modTile t fun x => { x with fetched := none })

/-- The command after the head. -/
def advance (t : Nat) (s : State) : State := goTo t (s.cp t + 1) false s

/-- A taken change of flow. -/
def jumpTo (t target : Nat) (s : State) : State := goTo t target true s

/-- The target of a command's wait (Table 8.1). -/
def waitTarget (t : Nat) (w : List Nat) (s : State) : Nat :=
  if hWMODE w = 2 then (s.sreg t (hWREG w) + hWIMM w) % 2 ^ 32 else hWIMM w

/-- The wait of the header holds (R218, R237). -/
def waitDone (t : Nat) (w : List Nat) (s : State) : Bool :=
  hWMODE w = 0 || atOrAfter 32 (s.tc t (hWCTR w)) (waitTarget t w s)

/-- The descriptor a command reads at issue. -/
def descOf (t : Nat) (w : List Nat) (s : State) : Option Nat :=
  if 2 ≤ hSMODE w then some (s.sreg t (hSREG w)) else none

/-- The head command of a tile meets its checks and its wait, and issues by `eff` (R213, R236, R237). -/
def issueHead (op t : Nat) (eff : List Nat → State → State) (s : State) : State :=
  if !s.issuing t then s
  else
    match headWords t s with
    | none => s
    | some w =>
      if hOP w ≠ op then s
      else
        match commandBad t w s with
        | some (code, detail) => tileExc t code engSEQ (s.cp t) detail s
        | none => if waitDone t w s then eff w s else setBlock t 1 s

/-- A sequencer-local command issues: its counters' SET, its own effect, its signal, and then the next command (R214,
R219, R238, R248). The descriptor is the one read before the command's own writes. -/
def localCmd (op t : Nat) (eff : List Nat → State → State) (next : List Nat → State → State → State) (s : State) : State :=
  issueHead op t (fun w s =>
    let s1 := signal t (s.cp t) engSEQ (tcOf s t w) w (descOf t w s) (eff w (perfIssued t s))
    next w s s1) s

/-- The command after a local command. -/
def nextAdv (t : Nat) (_w : List Nat) (_s0 s : State) : State := advance t s

/-- NOP (R245): nothing beyond its wait and signal. -/
def execScNop (t : Nat) (s : State) : Host.Outcome State Fault Refusal :=
  liveP s (localCmd 0x00 t (fun _ s => s) (nextAdv t))

/-- END (R245): stops issue; the sequencer enters ENDING. -/
def execScEnd (t : Nat) (s : State) : Host.Outcome State Fault Refusal :=
  liveP s (localCmd 0x01 t (fun _ s => s) fun _ _ s => setSeqState t stENDING s)

/-- JUMP (R245). -/
def execScJump (t : Nat) (s : State) : Host.Outcome State Fault Refusal :=
  liveP s (localCmd 0x02 t (fun _ s => s) fun w _ s => jumpTo t (wf w 3 0 13) s)

/-- A loop counter. -/
def State.lc (s : State) (t n : Nat) : Nat := s.rd (pgTILE t) F.TILE_LC_VALUE n

/-- LOOP (R245): falls through at 0, else counts down and jumps while the result is not 0. -/
def execScLoop (t : Nat) (s : State) : Host.Outcome State Fault Refusal :=
  liveP s (localCmd 0x03 t
    (fun w s => let n := wf w 3 16 2
                if s.lc t n = 0 then s else s.wr (pgTILE t) F.TILE_LC_VALUE (s.lc t n - 1) n)
    fun w s0 s => if decide (1 < s0.lc t (wf w 3 16 2)) then jumpTo t (wf w 3 0 13) s else advance t s)

/-- A 64-bit value as a signed number. -/
def s64 (v : Nat) : Int := if v < 2 ^ 63 then v else (v : Int) - 2 ^ 64

/-- The condition of BRS. -/
def brsCond (cond a b : Nat) : Bool :=
  match cond with
  | 0 => a = b
  | 1 => !decide (a = b)
  | 2 => decide (a < b)
  | 3 => decide (b ≤ a)
  | 4 => decide (s64 a < s64 b)
  | _ => decide (s64 b ≤ s64 a)

/-- BRS (R245): jumps when S[A] COND S[B] holds. -/
def execScBrs (t : Nat) (s : State) : Host.Outcome State Fault Refusal :=
  liveP s (localCmd 0x04 t (fun _ s => s) fun w s0 s =>
    if brsCond (wf w 3 8 3) (s0.sreg t (wf w 3 0 4)) (s0.sreg t (wf w 3 4 4)) then jumpTo t (wf w 4 0 13) s
    else advance t s)

/-- BREAK (R245): issues, signals, and raises BREAK with its operand. -/
def execScBreak (t : Nat) (s : State) : Host.Outcome State Fault Refusal :=
  liveP s (localCmd 0x05 t (fun _ s => s) fun w s0 s => tileExc t 0xA engSEQ (s0.cp t) (wf w 3 0 16) s)

/-- A 64-bit immediate in W4 and W5. -/
def imm64 (w : List Nat) : Nat := w.getD 4 0 + w.getD 5 0 * 2 ^ 32

/-- WAIT_MET (R246): holds issue until the Metronome reaches T. -/
def execScWaitMet (t : Nat) (s : State) : Host.Outcome State Fault Refusal :=
  liveP s (issueHead 0x06 t fun w s =>
    let tgt := if bitOf (w.getD 3 0) 4 then (s.sreg t (wf w 3 0 4) + imm64 w) % 2 ^ 64 else imm64 w
    if atOrAfter 64 s.met tgt then
      advance t (signal t (s.cp t) engSEQ (tcOf s t w) w (descOf t w s) (perfIssued t s))
    else setBlock t 1 (s.modTile t fun x => { x with waitMet := true }))

/-- CSET (R247): sets a counter. -/
def execScCset (t : Nat) (s : State) : Host.Outcome State Fault Refusal :=
  liveP s (localCmd 0x10 t
    (fun w s => tcSet t (wf w 3 0 3)
      (if bitOf (w.getD 3 0) 3 then (s.sreg t (wf w 3 4 4) + w.getD 4 0) % 2 ^ 32 else w.getD 4 0) s) (nextAdv t))

/-- CADD (R247): adds to a counter. -/
def execScCadd (t : Nat) (s : State) : Host.Outcome State Fault Refusal :=
  liveP s (localCmd 0x11 t (fun w s => tcAdd t (wf w 3 0 3) (w.getD 4 0) s) (nextAdv t))

/-- SLI (R247): loads an immediate. -/
def execScSli (t : Nat) (s : State) : Host.Outcome State Fault Refusal :=
  liveP s (localCmd 0x20 t (fun w s => setSreg t (wf w 3 0 4) (imm64 w) s) (nextAdv t))

/-- SADDI (R247): adds an immediate. -/
def execScSaddi (t : Nat) (s : State) : Host.Outcome State Fault Refusal :=
  liveP s (localCmd 0x21 t
    (fun w s => setSreg t (wf w 3 0 4) ((s.sreg t (wf w 3 4 4) + imm64 w) % 2 ^ 64) s) (nextAdv t))

/-- The scalar operation of SALU (Table 8.6). -/
def saluOp (opc : Nat) (a b : BitVec 64) : BitVec 64 :=
  let sh := b.toNat % 64
  match opc with
  | 0 => a + b
  | 1 => a - b
  | 2 => a &&& b
  | 3 => a ||| b
  | 4 => a ^^^ b
  | 5 => a <<< sh
  | 6 => a >>> sh
  | 7 => a.sshiftRight sh
  | 8 => a * b
  | 9 => if a.ult b then a else b
  | _ => if a.ult b then b else a

/-- SALU (R247). -/
def execScSalu (t : Nat) (s : State) : Host.Outcome State Fault Refusal :=
  liveP s (localCmd 0x22 t
    (fun w s => setSreg t (wf w 3 0 4)
      (saluOp (wf w 3 12 4) (BitVec.ofNat 64 (s.sreg t (wf w 3 4 4))) (BitVec.ofNat 64 (s.sreg t (wf w 3 8 4)))).toNat s)
    (nextAdv t))

/-- SGET (R247): copies a counter, a loop counter, the Metronome, the chip number or the tile index. -/
def execScSget (t : Nat) (s : State) : Host.Outcome State Fault Refusal :=
  liveP s (localCmd 0x23 t
    (fun w s =>
      let idx := wf w 3 8 3
      setSreg t (wf w 3 0 4)
        (match wf w 3 4 4 with
         | 0 => s.tc t idx
         | 1 => s.lc t idx
         | 2 => s.met
         | 3 => s.chipNum
         | _ => t) s) (nextAdv t))

/-- LSET (R247): sets a loop counter. -/
def execScLset (t : Nat) (s : State) : Host.Outcome State Fault Refusal :=
  liveP s (localCmd 0x30 t
    (fun w s => s.wr (pgTILE t) F.TILE_LC_VALUE
      (if bitOf (w.getD 3 0) 3 then (s.sreg t (wf w 3 4 4) + w.getD 4 0) % 2 ^ 32 else w.getD 4 0) (wf w 3 0 2)) (nextAdv t))

/-! Events of the sequencer. -/

/-- GO on a tile (Table 7.4, R278). -/
def seqGo (t start : Nat) (s : State) : State :=
  let pg := pgTILE t
  let st := s.seqState t
  if (st = stIDLE || st = stHALTED) && s.flag pg F.HDR_PAGE_CTRL_ENABLE && decide (s.owner pg < 32) then
    let s := if st = stHALTED then s.zeroWords [pg + 0x110, pg + 0x114, pg + 0x118, pg + 0x11C, pg + 0x120] else s
    let seed := s.rd64 pg F.TILE_RNG_SEED_LO_SEED F.TILE_RNG_SEED_HI_SEED
    let s := s.modTile t fun x => { x with drain := seedOf seed, vec := vectorSeed seed, fetched := none }
    let s := s.wr pg F.TILE_SEQ_STATUS_CP start
    setBlock t 3 (setSeqState t stRUNNING s)
  else tileIgnored t s

/-- ABORT on a tile (Table 7.4). -/
def seqAbort (t : Nat) (s : State) : State :=
  let st := s.seqState t
  if st = stIDLE || st = stHALTED || st = stOFF then tileIgnored t s
  else if st = stQUIESCED then haltEvent t (setSeqState t stHALTED (recordExc t 9 engSEQ (s.cp t) 0 s))
  else tileExc t 9 engSEQ (s.cp t) 0 s

/-- A write of SEQ_CTRL (R217): GO, ABORT, or neither; both together are ignored. -/
def seqCtrlWrite (t v : Nat) (s : State) : State :=
  match bitOf v 0, bitOf v 1 with
  | true, true => tileIgnored t s
  | true, false => seqGo t (v / 32 % 2 ^ 13) s
  | false, true => seqAbort t s
  | false, false => s

/-- TILE_GO (R217): a write of SEQ_CTRL. -/
def execTileGo (req t : Nat) (v : Word) (s : State) : Host.Outcome State Fault Refusal :=
  liveP s (regWrite req (pgTILE t + 0x100) (seqCtrlWrite t v.toNat))

/-- TILE_ABORT (R217): a write of SEQ_CTRL. -/
def execTileAbort (req t : Nat) (v : Word) (s : State) : Host.Outcome State Fault Refusal :=
  liveP s (regWrite req (pgTILE t + 0x100) (seqCtrlWrite t v.toNat))

/-- A list of bytes as 32-bit words. -/
def wordsIn (bs : List Byte) (n : Nat) : List Nat := (List.range n).map fun k => fieldOf bs (4 * k) 4

/-- The effect of TILE_ROW_FETCH out of reset (R212). -/
def tileRowFetchEffect (t : Nat) (s : State) : State :=
  if !(s.issuing t && (headWords t s).isNone) then s
  else
    let row := s.cp t / 4
    let s := eccScan t (128 * row) 128 s
    match s.firstUe t (128 * row) 128 with
    | some _ => tileExc t 4 engSEQ (s.cp t) (row % 8 + row / 8 % 256 * 256) (poisonSeen F.ERR_POISON_A_TILE s)
    | none =>
      let ws := wordsIn (s.sramRaw t (128 * row) 128) 32
      decodeHead t (setBlock t 0 (s.modTile t fun x => { x with fetched := some (row, ws) }))

/-- TILE_ROW_FETCH (R212): the row of the head is read; an uncorrectable word raises FETCH_ECC (R210). -/
def execTileRowFetch (t : Nat) (s : State) : Host.Outcome State Fault Refusal :=
  liveP s (tileRowFetchEffect t)

/-- Every issued engine command of a tile has completed. -/
def queuesEmpty (x : Tile) : Bool := x.qdma.isEmpty && x.qmxu.isEmpty && x.qvxu.isEmpty

/-- The effect of TILE_QUEUES_EMPTY out of reset (R217). -/
def tileQueuesEmptyEffect (t : Nat) (s : State) : State :=
  let pg := pgTILE t
  let x := s.tile t
  let unmark := fun (s : State) => s.modTile t fun x => { x with offMark := false }
  if !queuesEmpty x then s
  else
    let st := s.seqState t
    if st = stENDING then irq pg 0 (setSeqState t stIDLE s)
    else if st = stQUIESCING then unmark (setSeqState t (if x.offMark then stOFF else stQUIESCED) s)
    else if st = stDRAINING then
      let off := x.offMark || !s.flag pg F.HDR_PAGE_CTRL_ENABLE
      unmark (haltEvent t (irq pg 1 (setSeqState t (if off then stOFF else stHALTED) s)))
    else s

/-- TILE_QUEUES_EMPTY (R217): ENDING, QUIESCING or DRAINING end. -/
def execTileQueuesEmpty (t : Nat) (s : State) : Host.Outcome State Fault Refusal :=
  liveP s (tileQueuesEmptyEffect t)

/-- TILE_COUNTER_WRITE (R219): a page write SETs a counter. -/
def execTileCounterWrite (req t c : Nat) (v : Word) (s : State) : Host.Outcome State Fault Refusal :=
  liveP s (regWrite req (pgTILE t + fldOff F.TILE_C_VALUE c 0) (tcSet t c v.toNat))

/-- A write of S0-S15, LC0-LC3 or RNG_SEED (R221): it applies in a stopped state and is otherwise ignored and counted. -/
def tileScalarWrite (t off v : Nat) (s : State) : State :=
  if stoppedState (s.seqState t) then s.setWord (pgTILE t + off) (BitVec.ofNat 32 v) else tileIgnored t s

/-- TILE_SCALAR_WRITE (R221): a write of a word of S0-S15, LC0-LC3 or RNG_SEED. -/
def execTileScalarWrite (req t off : Nat) (v : Word) (s : State) : Host.Outcome State Fault Refusal :=
  liveP s (regWrite req (pgTILE t + off) (tileScalarWrite t off v.toNat))

/-- The effect of TILE_WAIT_TIMEOUT out of reset (R225). -/
def tileWaitTimeoutEffect (t : Nat) (s : State) : State :=
  let pg := pgTILE t
  if !(s.issuing t && s.rd pg F.TILE_SEQ_STATUS_BLOCK = 1 && s.rd pg F.TILE_WAIT_LIMIT_US ≠ 0) then s
  else
    match headWords t s with
    | none => s
    | some w =>
      if (s.tile t).waitMet then tileExc t 8 engSEQ (s.cp t) 0xF s
      else if waitDone t w s then s
      else tileExc t 8 engSEQ (s.cp t) (hWCTR w) s

/-- TILE_WAIT_TIMEOUT (R225): WAIT_LIMIT expires while the head command waits. An update that ends the wait in the same
beat comes first, and nothing is raised. -/
def execTileWaitTimeout (t : Nat) (s : State) : Host.Outcome State Fault Refusal :=
  liveP s (tileWaitTimeoutEffect t)

/-- A write of PERF_CTRL (R226): FREEZE is stored, and CLEAR zeroes every count, WRAP_COUNT and WRAPPED. -/
def perfCtrlWrite (t v : Nat) (s : State) : State :=
  let pg := pgTILE t
  let s := s.wr pg F.TILE_PERF_CTRL_FREEZE v
  if bitOf v 1 then
    s.zeroWords ((List.range 8).flatMap fun k => [pg + 0x200 + 16 * k, pg + 0x204 + 16 * k, pg + 0x208 + 16 * k])
  else s

/-- TILE_PERF_CLEAR (R226): a write of PERF_CTRL. -/
def execTilePerfClear (req t : Nat) (v : Word) (s : State) : Host.Outcome State Fault Refusal :=
  liveP s (regWrite req (pgTILE t + 0x134) (perfCtrlWrite t v.toNat))

/-- A write of SRAM_ECC: CLEAR zeroes CE and UE. -/
def sramEccWrite (t v : Nat) (s : State) : State := if bitOf v 31 then s.setWord (pgTILE t + 0x130) 0 else s

/-- TILE_SRAM_ECC_CLEAR (R228): a write of SRAM_ECC. -/
def execTileSramEccClear (req t : Nat) (v : Word) (s : State) : Host.Outcome State Fault Refusal :=
  liveP s (regWrite req (pgTILE t + 0x130) (sramEccWrite t v.toNat))

/-- A write of INJECT (Table 7.8): the next SRAM write stores an error; a double-bit error where both are asked for. -/
def tileInjectWrite (t v : Nat) (s : State) : State :=
  if bitOf v 1 then s.modTile t fun x => { x with inject := 2 }
  else if bitOf v 0 then s.modTile t fun x => { x with inject := 1 }
  else s

/-- TILE_ECC_INJECT (R229): a write of INJECT. -/
def execTileEccInject (req t : Nat) (v : Word) (s : State) : Host.Outcome State Fault Refusal :=
  liveP s (regWrite req (pgTILE t + 0x414) (tileInjectWrite t v.toNat))

end Sys2Proof.Machine
end

