-- ==== Sys2Proof/Machine/Engines.lean ====
section
/-! DEFINITION. The engines of a tile: issue to their queues (07 R215), the DMA (08 R249-R254, 12 R353), and the execution
of MXU and VXU commands. An engine command is carried out where its completion is commanded; pieces of a DMA transfer
leave as the limits of R251 allow. -/
namespace Sys2Proof.Machine
open Sys2Proof

/-- The queue of an engine. -/
def Tile.queue (x : Tile) (eng : Nat) : List Job := if eng = engDMA then x.qdma else if eng = engMXU then x.qmxu else x.qvxu

/-- Replaces it. -/
def Tile.setQueue (x : Tile) (eng : Nat) (q : List Job) : Tile :=
  if eng = engDMA then { x with qdma := q } else if eng = engMXU then { x with qmxu := q } else { x with qvxu := q }

/-- The depth of an engine's queue (R215). -/
def queueLimit (s : State) (t eng : Nat) : Nat :=
  s.rd (pgTILE t) (if eng = engDMA then F.TILE_QUEUE_LIMIT_DMA_DEPTH
                   else if eng = engMXU then F.TILE_QUEUE_LIMIT_MXU_DEPTH else F.TILE_QUEUE_LIMIT_VXU_DEPTH)

/-- The job a command becomes when it issues: everything it reads at issue. -/
def jobOf (t : Nat) (w : List Nat) (s : State) : Job :=
  let pg := pgTILE t
  { jid := (s.tile t).jids, cp := s.cp t, w := w, desc := descOf t w s, base := s.sreg t (wf w 3 18 4),
    b := s.sreg t (wf w 3 22 4), c := s.sreg t (wf w 3 26 4), tc := tcOf s t w,
    pay := (match s.rd pg F.TILE_DMA_SPLIT_PAYLOAD with | 0 => 64 | 1 => 128 | _ => 256),
    maxPkts := s.rd pg F.TILE_DMA_OUT_MAX_PKTS, maxReads := s.rd pg F.TILE_DMA_OUT_MAX_READS,
    row := 0, off := 0, allSent := false, inflight := 0, fault := none, got := [] }

/-! The DMA. -/

/-- Changes the job of a number. -/
def modJob (t jid : Nat) (f : Job → Job) (s : State) : State :=
  s.modTile t fun x => { x with qdma := x.qdma.map fun j => if j.jid = jid then f j else j }

/-- A job ends at fault (R224, R252): it sends nothing more, and its exception is raised. -/
def jobFault (t : Nat) (j : Job) (code detail : Nat) (s : State) : State :=
  tileExc t code engDMA j.cp detail (modJob t j.jid (fun j => { j with fault := some (code, detail), allSent := true }) s)

/-- EXC_DETAIL of an uncorrectable SRAM word: bank and row (Table 7.5). -/
def eccDetail (k : Nat) : Nat := k / 16 % 8 + k / 128 % 256 * 256

/-- The next piece of a transfer (R251): global start, local start and bytes. -/
def pieceOf (j : Job) : Nat × Nat × Nat :=
  let g := (rowGlobal j.base j.w j.row + j.off) % 2 ^ 64
  (g, rowLocal j.w j.row + j.off, min (j.pay - g % j.pay) (rowBytes j.w - j.off))

/-- The job after a piece of n bytes. -/
def afterPiece (n : Nat) (j : Job) : Job :=
  let j := { j with inflight := j.inflight + 1 }
  if j.off + n < rowBytes j.w then { j with off := j.off + n }
  else if j.row + 1 < dmaRows j.w then { j with row := j.row + 1, off := 0 }
  else { j with allSent := true }

/-- What a job asks of the network, but for the target. -/
def askOf (t : Nat) (j : Job) (s : State) : Ask :=
  { ep := t, req := s.owner (pgTILE t), dst := 0, offset := 0, op := opREAD, words := 1, data := [], tc := j.tc,
    ordered := hORDERED j.w, use := 1, arg := j.jid, arg2 := 0 }

/-- The little-endian operand of an ATOMIC, followed by the compare value for CAS (Table 12.2). -/
def atomicData (j : Job) : List Byte :=
  let n := if bitOf (j.w.getD 3 0) 30 then 8 else 4
  leBytes n j.b ++ (if wf j.w 5 0 4 = 5 then leBytes n j.c else [])

/-- A job sends its next packet. -/
def sendPiece (t : Nat) (j : Job) (s : State) : State :=
  let a := askOf t j s
  match hOP j.w with
  | 0x40 =>
    let p := pieceOf j
    send { a with dst := gaChip p.1, offset := gaOff p.1, words := p.2.2 / 4, arg2 := p.2.1 }
      (modJob t j.jid (afterPiece p.2.2) s)
  | 0x41 =>
    let p := pieceOf j
    let ue := s.firstUe t p.2.1 p.2.2
    let s := eccScan t p.2.1 p.2.2 s
    match ue with
    | some k => jobFault t j 5 (eccDetail k) (poisonSeen F.ERR_POISON_A_TILE s)
    | none =>
      send { a with dst := gaChip p.1, offset := gaOff p.1, op := opWRITE, words := p.2.2 / 4,
                    data := s.sramRaw t p.2.1 p.2.2 } (modJob t j.jid (afterPiece p.2.2) s)
  | 0x44 =>
    let g := immGlobal j.base j.w
    let n := if bitOf (j.w.getD 3 0) 22 then 8 else 4
    send { a with dst := gaChip g, offset := gaOff g, op := opWRITE, words := n / 4,
                  data := leBytes n (j.w.getD 5 0 + j.w.getD 6 0 * 2 ^ 32) }
      (modJob t j.jid (fun j => { j with inflight := 1, allSent := true }) s)
  | _ =>
    let g := immGlobal j.base j.w
    send { a with dst := gaChip g, offset := gaOff g, op := opATOMIC (wf j.w 5 0 4),
                  words := if bitOf (j.w.getD 3 0) 30 then 2 else 1, data := atomicData j }
      (modJob t j.jid (fun j => { j with inflight := 1, allSent := true }) s)

/-- The job that sends next: the first with packets left; an ORDERED one only while nothing of it and of every earlier
command is outstanding (R353). -/
def nextSender (q : List Job) : Option Job :=
  match q.find? fun j => !j.allSent with
  | none => none
  | some j =>
    let earlier := q.takeWhile fun k => k.jid ≠ j.jid
    if hORDERED j.w && (!decide (j.inflight = 0) || earlier.any fun k => !decide (k.inflight = 0)) then none else some j

/-- DMA packets of a tile that are outstanding: read requests, and others. -/
def dmaOut (s : State) (t : Nat) (reads : Bool) : Nat :=
  ((s.waitingOf t).filter fun x => x.use = 1 && (x.op == opREAD) == reads).length

/-- Sends packets while the limits of R251 allow. -/
def dmaPump (t : Nat) : Nat → State → State
  | 0, s => s
  | n + 1, s =>
    match nextSender (s.tile t).qdma with
    | none => s
    | some j =>
      let get := hOP j.w = 0x40
      if dmaOut s t get < (if get then j.maxReads else j.maxPkts) then dmaPump t n (sendPiece t j s) else s

/-- A response or a timeout for a packet of a DMA command (R252, R253). -/
def dmaResult (t : Nat) (k : Track) (r : Res) (s : State) : State :=
  match (s.tile t).qdma.find? fun j => j.jid = k.arg with
  | none => s
  | some j =>
    let s := modJob t j.jid (fun j => { j with inflight := j.inflight - 1 }) s
    let s :=
      if j.fault.isSome then s
      else
        match r with
        | .err st => jobFault t j 6 (k.dst + st * 2 ^ 16) s
        | .timeout => jobFault t j 7 k.dst s
        | .ack => s
        | .data bs poison =>
          if poison then jobFault t j 0xB k.dst (poisonSeen F.ERR_POISON_A_TILE s)
          else if hOP j.w = 0x40 then sramWrite t k.arg2 bs s
          else if bitOf (j.w.getD 3 0) 31 then sramWrite t (wf j.w 3 0 18) bs s
          else s
    dmaPump t 64 s

/-- A response or a timeout for a remote signal (R241). -/
def signalResult (t : Nat) (k : Track) (r : Res) (s : State) : State :=
  let bad := fun code detail =>
    let st := s.seqState t
    if st = stRUNNING || st = stENDING || st = stQUIESCING || st = stDRAINING then tileExc t code k.arg2 k.arg detail s
    else logEv (pgTILE t) 0x2304 s (k.arg * 32) k.dst
  match r with
  | .err st => bad 6 (k.dst + st * 2 ^ 16)
  | .timeout => bad 7 k.dst
  | _ => s

/-- What a tile does with the result of one of its requests. -/
def tileResult (t : Nat) (k : Track) (r : Res) (s : State) : State :=
  if k.use = 1 then dmaResult t k r s else signalResult t k r s

/-! Issue to an engine. -/

/-- The head command issues to an engine when its queue has room (R213, R215). -/
def engineCmd (op eng t : Nat) (note : List Nat → Tile → Tile) (s : State) : State :=
  issueHead op t (fun w s =>
    let q := (s.tile t).queue eng
    if queueLimit s t eng ≤ q.length then setBlock t 2 s
    else
      let j := jobOf t w s
      let s := s.modTile t fun x => note w { x.setQueue eng (q ++ [j]) with jids := x.jids + 1 }
      let s := advance t (perfIssued t s)
      if eng = engDMA then dmaPump t 64 s else s) s

/-- DMA_GET (R249-R252). -/
def execScDmaGet (t : Nat) (s : State) : Host.Outcome State Fault Refusal :=
  liveP s (engineCmd 0x40 engDMA t fun _ x => x)

/-- DMA_PUT (R249-R252). -/
def execScDmaPut (t : Nat) (s : State) : Host.Outcome State Fault Refusal :=
  liveP s (engineCmd 0x41 engDMA t fun _ x => x)

/-- STORE_IMM (R253). -/
def execScStoreImm (t : Nat) (s : State) : Host.Outcome State Fault Refusal :=
  liveP s (engineCmd 0x44 engDMA t fun _ x => x)

/-- ATOMIC (R253, R254). -/
def execScAtomic (t : Nat) (s : State) : Host.Outcome State Fault Refusal :=
  liveP s (engineCmd 0x48 engDMA t fun _ x => x)

/-- MXU_STAGE (R255-R257): the sequencer records the stage's format and K at issue. -/
def execScMxuStage (t : Nat) (s : State) : Host.Outcome State Fault Refusal :=
  liveP s (engineCmd 0x60 engMXU t fun w x => { x with wrec := x.wrec.set (wf w 3 19 1) (some (wf w 5 12 4, wf w 5 0 11)) })

/-- MXU_MMA (R255-R257): with ZERO = 1 the sequencer records the set's accumulation type at issue. -/
def execScMxuMma (t : Nat) (s : State) : Host.Outcome State Fault Refusal :=
  liveP s (engineCmd 0x61 engMXU t fun w x =>
    if bitOf (w.getD 3 0) 20 then { x with arec := x.arec.set (wf w 3 18 1) (accType (wf w 5 12 4)) } else x)

/-- MXU_DRAIN (R255, R259). -/
def execScMxuDrain (t : Nat) (s : State) : Host.Outcome State Fault Refusal :=
  liveP s (engineCmd 0x62 engMXU t fun _ x => x)

/-- VOP (R261). -/
def execScVop (t : Nat) (s : State) : Host.Outcome State Fault Refusal := liveP s (engineCmd 0x80 engVXU t fun _ x => x)

/-- VRED (R264). -/
def execScVred (t : Nat) (s : State) : Host.Outcome State Fault Refusal := liveP s (engineCmd 0x81 engVXU t fun _ x => x)

/-- VFUSE (R302). -/
def execScVfuse (t : Nat) (s : State) : Host.Outcome State Fault Refusal := liveP s (engineCmd 0x82 engVXU t fun _ x => x)

/-- VRMS (R304). -/
def execScVrms (t : Nat) (s : State) : Host.Outcome State Fault Refusal := liveP s (engineCmd 0x84 engVXU t fun _ x => x)

/-- VSMAX1 (R307). -/
def execScVsmax1 (t : Nat) (s : State) : Host.Outcome State Fault Refusal := liveP s (engineCmd 0x85 engVXU t fun _ x => x)

/-- VSMAX2 (R308). -/
def execScVsmax2 (t : Nat) (s : State) : Host.Outcome State Fault Refusal := liveP s (engineCmd 0x86 engVXU t fun _ x => x)

/-! Execution. -/

/-- Sets sticky bits of ARITH_FLAGS (R280). -/
def setArith (t fl : Nat) (s : State) : State :=
  let a := pgTILE t + 0x124
  s.setWord a (s.word a ||| BitVec.ofNat 32 (fl % 32))

/-- A run of the free choices from n on (log 3). -/
def choices (n : Nat) (k : Nat) : Bool := Sys2Proof.Config.freeBool (n + k)

/-- Takes n free choices or values. -/
def takeFree (n : Nat) (s : State) : State := { s with freeCtr := s.freeCtr + n }

/-- The elements of a run as values. -/
def elemsOf (code n : Nat) (bs : List Byte) : List Num := (List.range n).map fun i => dec code (elemAt code i bs)

/-- The vector stream's draws for n outputs, when the command rounds stochastically (R279). -/
def vecDraws (t rnd n : Nat) (s : State) : List Nat × State :=
  if rnd = 1 then
    let d := draws n (s.tile t).vec
    (d.1, s.modTile t fun x => { x with vec := d.2 })
  else ([], s)

/-- The OR of flags. -/
def orFlags (l : List (Nat × Nat)) : Nat := l.foldl (fun f x => f ||| x.2) 0

/-- How many of the first n units an uncorrectable word in a run leaves complete: `unit` gives the unit of a byte. -/
def ueLimit (s : State) (t start bytes n : Nat) (unit : Nat → Nat) : Nat :=
  match s.firstUe t start bytes with
  | none => n
  | some k => min n (unit (8 * k - start))

/-- VOP on the first `lim` elements. -/
def runVop (t : Nat) (w : List Nat) (lim : Nat) (s : State) : State :=
  let vop := wf w 3 18 6
  let fmt := wf w 3 24 4
  let ofmt := wf w 3 28 4
  let n := vN w
  let d := wf w 3 0 18
  let aBytes := s.sramRaw t (wf w 4 0 18) (fmtBytes fmt n)
  let base := s.freeCtr
  if vop = 8 then
    let sc := s.sramRaw t (wf w 6 0 18) (n / 32)
    let xs := (List.range lim).map fun i =>
      let v := elemAt fmt i aBytes
      if isMx fmt then decMx fmt v (sc.getD (i / 32) 0).toNat else dec fmt v
    let ds := vecDraws t (hRND w) lim s
    let s := ds.2
    if isMx ofmt then
      let bl := (List.range (lim / 32)).map fun b =>
        cvtBlock ofmt (hRND w) ((List.range 32).map fun i => ds.1.getD (32 * b + i) 0) ((xs.drop (32 * b)).take 32)
      let s := sramWrite t d (packElems ofmt (bl.flatMap fun b => b.2.1)) s
      let s := sramWrite t (wf w 6 0 18) (bl.map fun b => BitVec.ofNat 8 b.1) s
      setArith t (bl.foldl (fun f b => f ||| b.2.2) 0) s
    else
      let ys := (List.range lim).map fun i =>
        let x := xs.getD i .one
        let y := toElem ofmt (hRND w) (ds.1.getD i 0) x
        (y.1, y.2 ||| flIf x.isSig flINVALID)
      setArith t (orFlags ys) (sramWrite t d (packElems ofmt (ys.map (·.1))) s)
  else
    let bc := bitOf (w.getD 4 0) 18
    let bBytes := s.sramRaw t (wf w 5 0 18) (fmtBytes fmt (if bc then 1 else n))
    let cBytes := s.sramRaw t (wf w 6 0 18) (if vop = 5 then fmtBytes fmt n else 0)
    let ds := vecDraws t (hRND w) lim s
    let ys := (List.range lim).map fun i =>
      vopElem vop ofmt (hRND w) (hCOMPAT w) (ds.1.getD i 0) (choices base i) (dec fmt (elemAt fmt i aBytes))
        (dec fmt (elemAt fmt (if bc then 0 else i) bBytes)) (dec fmt (elemAt fmt i cBytes))
    setArith t (orFlags ys) (sramWrite t d (packElems ofmt (ys.map (·.1))) (takeFree n ds.2))

/-- VRED. -/
def runVred (t : Nat) (w : List Nat) (s : State) : State :=
  let fmt := wf w 3 24 4
  let n := vN w
  let xs := elemsOf fmt n (s.sramRaw t (wf w 4 0 18) (fmtBytes fmt n))
  let ds := vecDraws t (hRND w) 1 s
  let y := vred (wf w 3 18 3) fmt (hRND w) (ds.1.getD 0 0) (choices s.freeCtr) xs
  setArith t y.2 (sramWrite t (wf w 3 0 18) (leBytes (if fmt = 0 then 8 else 4) y.1) (takeFree (n + 64) ds.2))

/-- VFUSE on the first `lim` elements. -/
def runVfuse (t : Nat) (w : List Nat) (lim : Nat) (s : State) : State :=
  let fmt := wf w 3 24 4
  let ofmt := wf w 3 28 4
  let l := vL w
  let n := l * vROWS w
  let aBytes := s.sramRaw t (wf w 4 0 18) (fmtBytes fmt n)
  let en := bitOf (w.getD 4 0) 18
  let bias := s.sramRaw t (wf w 5 0 18) (if en then 4 * l else 0)
  let ds := vecDraws t (hRND w) lim s
  let base := s.freeCtr
  let ys := (List.range lim).map fun i =>
    vfuseElem (wf w 3 18 3) fmt ofmt (hRND w) (ds.1.getD i 0) (hCOMPAT w) (fun k => choices base (8 * i + k))
      (dec fmt (elemAt fmt i aBytes)) (f32 (w.getD 6 0)) (if en then some (f32 (elemAt 1 (i % l) bias)) else none)
  setArith t (orFlags ys) (sramWrite t (wf w 3 0 18) (packElems ofmt (ys.map (·.1))) (takeFree (8 * n) ds.2))

/-- VRMS on the first `lim` rows. -/
def runVrms (t : Nat) (w : List Nat) (lim : Nat) (s : State) : State :=
  let fmt := wf w 3 24 4
  let ofmt := wf w 3 28 4
  let l := vL w
  let xs := elemsOf fmt (l * lim) (s.sramRaw t (wf w 4 0 18) (fmtBytes fmt (l * lim)))
  let gs := if bitOf (w.getD 4 0) 18 then elemsOf 1 l (s.sramRaw t (wf w 5 0 18) (4 * l)) else []
  let ds := vecDraws t (hRND w) (l * lim) s
  let base := s.freeCtr
  let rows := (List.range lim).map fun r =>
    vrmsRow fmt ofmt (hRND w) (hCOMPAT w) ((ds.1.drop (r * l)).take l) (fun k => choices base (r * (4 * l + 128) + k))
      (f32 (w.getD 6 0)) gs ((xs.drop (r * l)).take l)
  setArith t (rows.foldl (fun f r => f ||| r.2) 0)
    (sramWrite t (wf w 3 0 18) (packElems ofmt (rows.flatMap (·.1))) (takeFree (lim * (4 * l + 128)) ds.2))

/-- A soft-maximum record in SRAM (Table 10.7). -/
def smRead (t o : Nat) (s : State) : SmRec :=
  let ws := wordsIn (s.sramRaw t o 16) 4
  { m := ws.getD 0 0, s := ws.getD 1 0, n := ws.getD 2 0, st := ws.getD 3 0 }

/-- Writes it. -/
def smBytes (r : SmRec) : List Byte := leBytes 4 r.m ++ leBytes 4 r.s ++ leBytes 4 r.n ++ leBytes 4 r.st

/-- VSMAX1 on the first `lim` rows. -/
def runVsmax1 (t : Nat) (w : List Nat) (lim : Nat) (s : State) : State :=
  let fmt := wf w 3 24 4
  let l := vL w
  let xs := elemsOf fmt (l * lim) (s.sramRaw t (wf w 4 0 18) (fmtBytes fmt (l * lim)))
  let base := s.freeCtr
  let rows := (List.range lim).map fun r =>
    vsmax1Row (hCOMPAT w) (bitOf (w.getD 3 0) 18) (fun k => choices base (r * (4 * l + 128) + k)) (f32 (w.getD 6 0))
      ((xs.drop (r * l)).take l) (smRead t (wf w 3 0 18 + 16 * r) s)
  setArith t (rows.foldl (fun f r => f ||| r.2) 0)
    (sramWrite t (wf w 3 0 18) (rows.flatMap fun r => smBytes r.1) (takeFree (lim * (4 * l + 128)) s))

/-- VSMAX2 on the first `lim` rows. -/
def runVsmax2 (t : Nat) (w : List Nat) (lim : Nat) (s : State) : State :=
  let fmt := wf w 3 24 4
  let ofmt := wf w 3 28 4
  let l := vL w
  let xs := elemsOf fmt (l * lim) (s.sramRaw t (wf w 4 0 18) (fmtBytes fmt (l * lim)))
  let ds := vecDraws t (hRND w) (l * lim) s
  let base := s.freeCtr
  let rows := (List.range lim).map fun r =>
    vsmax2Row ofmt (hRND w) (hCOMPAT w) ((ds.1.drop (r * l)).take l) (fun k => choices base (r * (2 * l + 8) + k))
      (f32 (w.getD 6 0)) ((xs.drop (r * l)).take l) (smRead t (wf w 5 0 18 + 16 * r) s)
  setArith t (rows.foldl (fun f r => f ||| r.2) 0)
    (sramWrite t (wf w 3 0 18) (packElems ofmt (rows.flatMap (·.1))) (takeFree (lim * (2 * l + 8)) ds.2))

/-- The units of a VXU command, and how many of them its uncorrectable words leave complete. -/
def vxuLimit (t : Nat) (w : List Nat) (s : State) : Nat × Nat :=
  let fmt := wf w 3 24 4
  let l := vL w
  let ins := vxuIn w
  let lim := fun (n : Nat) (units : List (Nat → Nat)) =>
    (ins.zip units).foldl (fun m r => min m (ueLimit s t r.1.1 r.1.2.1 n r.2)) n
  let el := fun (b : Nat) => b * 8 / fmtBits fmt
  match hOP w with
  | 0x80 =>
    let n := vN w
    let o := vopOps w
    let us := [el] ++ (if o.2.1 then [if bitOf (w.getD 4 0) 18 then fun _ => 0 else el] else [])
      ++ [if wf w 3 18 6 = 5 then el else fun b => 32 * b]
    let m := lim n us
    (n, if m < n && wf w 3 18 6 = 8 then m / 32 * 32 else m)
  | 0x81 => (1, lim 1 [fun _ => 0])
  | 0x82 => (l * vROWS w, lim (l * vROWS w) [el, fun b => b / 4])
  | 0x84 => (vROWS w, lim (vROWS w) [fun b => el b / l, fun _ => 0])
  | _ => (vROWS w, lim (vROWS w) [fun b => el b / l, fun b => b / 16])

/-- A VXU command executes; it answers the uncorrectable word that ended it, if any. -/
def runVxu (t : Nat) (w : List Nat) (s : State) : Option Nat × State :=
  let ins := vxuIn w
  let ue := ins.findSome? fun r => s.firstUe t r.1 r.2.1
  let lm := vxuLimit t w s
  let s := ins.foldl (fun s r => eccScan t r.1 r.2.1 s) s
  let lim := lm.2
  (ue,
   match hOP w with
   | 0x80 => runVop t w lim s
   | 0x81 => if lim = 1 then runVred t w s else s
   | 0x82 => runVfuse t w lim s
   | 0x84 => runVrms t w lim s
   | 0x85 => runVsmax1 t w lim s
   | _ => runVsmax2 t w lim s)

/-- The rows of a strided operand. -/
def stridedRows (t base stride rows bytes : Nat) (s : State) : List (List Byte) :=
  (List.range rows).map fun r => s.sramRaw t (base + r * stride) bytes

/-- The first uncorrectable word of a strided operand, and the scan of it. -/
def stridedUe (t base stride rows bytes : Nat) (s : State) : Option Nat :=
  (List.range rows).findSome? fun r => s.firstUe t (base + r * stride) bytes
def stridedScan (t base stride rows bytes : Nat) (s : State) : State :=
  (List.range rows).foldl (fun s r => eccScan t (base + r * stride) bytes s) s

/-- MXU_STAGE executes (R281). -/
def runStage (t : Nat) (w : List Nat) (s : State) : Option Nat × State :=
  let fmt := wf w 5 12 4
  let k := wf w 5 0 11
  let b := wf w 3 0 18
  let st := wf w 4 0 18
  let bytes := fmtBytes fmt 32
  let scN := if isMx fmt then k else 0
  let ue := match stridedUe t b st k bytes s with | some x => some x | none => s.firstUe t (wf w 6 0 18) scN
  let s := eccScan t (wf w 6 0 18) scN (stridedScan t b st k bytes s)
  let stage : Stage := { fmt := fmt, k := k, rows := stridedRows t b st k bytes s,
                         scales := s.sramRaw t (wf w 6 0 18) scN, lost := ue.isSome }
  (ue, s.modTile t fun x => { x with ws := x.ws.set (wf w 3 19 1) (some stage) })

/-- MXU_MMA executes (R282). -/
def runMma (t : Nat) (w : List Nat) (s : State) : Option Nat × State :=
  let fmt := wf w 5 12 4
  let k := wf w 5 0 11
  let m := wf w 3 24 8 + 1
  let a := wf w 3 0 18
  let st := wf w 4 0 18
  let bytes := fmtBytes fmt k
  let scN := if isMx fmt then m * (k / 32) else 0
  let ue := match stridedUe t a st m bytes s with | some x => some x | none => s.firstUe t (wf w 6 0 18) scN
  let s := eccScan t (wf w 6 0 18) scN (stridedScan t a st m bytes s)
  let rows := stridedRows t a st m bytes s
  let scs := s.sramRaw t (wf w 6 0 18) scN
  let x := s.tile t
  let ai := wf w 3 18 1
  let zero := bitOf (w.getD 3 0) 20
  match x.ws.getD (wf w 3 19 1) none, x.acc[ai]? with
  | some stage, some old =>
    let old : AccSet := if zero then { typ := accType fmt, vals := [], lost := false } else old
    let lost := old.lost || stage.lost || ue.isSome
    let ys := (List.range 4096).map fun i =>
      let v := old.vals.getD i 0
      if i / 32 < m then mmaElem stage (rows.getD (i / 32) []) ((scs.drop (i / 32 * (k / 32))).take (k / 32)) (i % 32) v
      else (v, 0)
    let acc : AccSet := { typ := old.typ, vals := if lost then [] else ys.map (·.1), lost := lost }
    let s := s.modTile t fun x => { x with acc := x.acc.set ai acc }
    (ue, if lost then s else setArith t (orFlags ys) s)
  | _, _ => (ue, s)

/-- MXU_DRAIN executes (R284). A set that holds unspecified values gives free values (R260, log 3). -/
def runDrain (t : Nat) (w : List Nat) (s : State) : State :=
  let ofmt := wf w 5 12 4
  let m := wf w 3 24 8 + 1
  let ai := wf w 3 18 1
  let x := s.tile t
  match x.acc[ai]? with
  | none => s
  | some set =>
    let wid := if set.typ = 2 then 64 else 32
    let val := fun i => if set.lost then Sys2Proof.Config.freeNat (s.freeCtr + i) % 2 ^ wid else set.vals.getD i 0
    let ds := if hRND w = 1 then draws (32 * m) x.drain else ([], x.drain)
    let ys := (List.range (32 * m)).map fun i => drainElem set.typ ofmt (hRND w) (ds.1.getD i 0) (val i)
    let code := if ofmt = 15 then (if set.typ = 2 then 0 else 1) else ofmt
    let kept := if bitOf (w.getD 3 0) 19 || set.lost then set
                else { set with vals := (List.range 4096).map fun i => if i / 32 < m then 0 else set.vals.getD i 0 }
    let s := s.modTile t fun x => { x with drain := ds.2, acc := x.acc.set ai kept }
    let s := if set.lost then takeFree 4096 s else s
    let s := (List.range m).foldl (fun s r =>
      sramWrite t (wf w 3 0 18 + r * wf w 4 0 18) (packElems code (((ys.drop (32 * r)).take 32).map (·.1))) s) s
    setArith t (orFlags ys) s

/-- An MXU command executes. -/
def runMxu (t : Nat) (w : List Nat) (s : State) : Option Nat × State :=
  match hOP w with
  | 0x60 => runStage t w s
  | 0x61 => runMma t w s
  | _ => (none, runDrain t w s)

/-- The head of an engine's queue completes (R215, R224, R238). -/
def engineDone (t eng : Nat) (s : State) : State :=
  match (s.tile t).queue eng with
  | [] => s
  | j :: rest =>
    let pop := fun (s : State) => s.modTile t fun x => x.setQueue eng rest
    if eng = engDMA then
      (if !j.allSent || !decide (j.inflight = 0) then s
       else if j.fault.isSome then dmaPump t 64 (pop s)
       else dmaPump t 64 (signal t j.cp eng j.tc j.w j.desc (pop s)))
    else
      let r := if eng = engMXU then runMxu t j.w s else runVxu t j.w s
      match r.1 with
      | some k => tileExc t 5 eng j.cp (eccDetail k) (poisonSeen F.ERR_POISON_A_TILE (pop r.2))
      | none => signal t j.cp eng j.tc j.w j.desc (pop r.2)

/-- The number of an engine. -/
def engNum : Engine → Nat
  | .dma => engDMA
  | .mxu => engMXU
  | .vxu => engVXU

/-- ENGINE_COMMAND_COMPLETE (R238): the oldest command of an engine's queue completes, in queue order. -/
def execEngineCommandComplete (t : Nat) (e : Engine) (s : State) : Host.Outcome State Fault Refusal :=
  liveP s (engineDone t (engNum e))

end Sys2Proof.Machine
end

