-- ==== Sys2Proof/Machine/Mcu.lean ====
section
/-! DEFINITION. HBM (11): the mapping of offsets (R314), the access queues and their ranks (R328-R330), ECC and poison
(R317-R320), patrol and the long operations INIT, SCRUB and RETRAIN (R321-R326). -/
namespace Sys2Proof.Machine
open Sys2Proof

/-- A controller beside its page. -/
def State.mcu (s : State) (n : Nat) : Mcu := fget (fun _ => Mcu.fresh) s.mcus n

/-- Changes it. -/
def State.modMcu (s : State) (n : Nat) (f : Mcu → Mcu) : State :=
  { s with mcus := fset (fun _ => Mcu.fresh) s.mcus n (f (s.mcu n)) }

/-! Interleave. -/

/-- MEMQ.IMAP bit b: block b is LOCAL. -/
def State.imap (s : State) (b : Nat) : Bool :=
  bitOf (if b < 32 then s.rd pgMEMQ F.MEMQ_IMAP_LO_BLOCK else s.rd pgMEMQ F.MEMQ_IMAP_HI_BLOCK) (b % 32)

/-- The controller, the pseudo-channel in it and the pc-local address of an HBM offset (Table 11.1). -/
def hbmMap (s : State) (a : Nat) : Nat × Nat × Nat :=
  if s.imap (a / 2 ^ 33 % 64) then
    (getBits a 30 3, getBits a 8 6, getBits a 33 6 * 2 ^ 24 + getBits a 14 16 * 2 ^ 8 + a % 2 ^ 8)
  else (getBits a 8 3, getBits a 11 6, getBits a 30 9 * 2 ^ 21 + getBits a 17 13 * 2 ^ 8 + a % 2 ^ 8)

/-- A pseudo-channel is in service. -/
def pcOnline (s : State) (n i : Nat) : Bool :=
  bitOf (if i < 32 then s.rd (pgMCU n) F.MCU_ONLINE_LO_PC else s.rd (pgMCU n) F.MCU_ONLINE_HI_PC) (i % 32)

/-- Writes the pseudo-channels of a stack that are in service, as a 64-bit mask (Table 11.3). -/
def setOnline (n mask : Nat) (s : State) : State :=
  let pg := pgMCU n
  let s := (s.wr pg F.MCU_ONLINE_LO_PC mask).wr pg F.MCU_ONLINE_HI_PC (mask / 2 ^ 32)
  s.wr pg F.MCU_STATUS_OFFLINE (64 - ((List.range 64).filter fun i => bitOf mask i).length)

/-- The mask as it stands. -/
def onlineMask (s : State) (n : Nat) : Nat := s.rd64 (pgMCU n) F.MCU_ONLINE_LO_PC F.MCU_ONLINE_HI_PC

/-! ECC. -/

/-- An unlisted code word has no error. -/
def noHbmErr (_ : Nat) : Nat := 0

/-- The error of a code word; its poison marker. -/
def State.hbmErrAt (s : State) (k : Nat) : Nat := fget noHbmErr s.hbmErr k
def State.poisonAt (s : State) (k : Nat) : Bool := fget noPoison s.poison k

/-- Sets them. -/
def State.setHbmErr (s : State) (k v : Nat) : State := { s with hbmErr := fset noHbmErr s.hbmErr k v }
def State.setPoison (s : State) (k : Nat) (v : Bool) : State := { s with poison := fset noPoison s.poison k v }

/-- Records the latest error; an uncorrectable record is not replaced by a correctable one (Table 11.3). -/
def mcuErrRecord (n pc loc : Nat) (ue : Bool) (s : State) : State :=
  let pg := pgMCU n
  if !ue && s.flag pg F.MCU_ERR_ADDR_VALID && s.flag pg F.MCU_ERR_ADDR_UE then s
  else
    let s := (s.wr pg F.MCU_ERR_ADDR_LOCAL loc).wr pg F.MCU_ERR_ADDR_UE (b2n ue)
    (s.wr pg F.MCU_ERR_ADDR_VALID 1).wr pg F.MCU_ERR_PC_PC pc

/-- A correctable error is attributed to a lane of a channel: LANE_THRESH of them within LANE_WIN mark the lane failing
(R326). -/
def laneError (n c lane : Nat) (s : State) : State :=
  let pg := pgMCU n
  let win := s.rd pg F.MCU_LANE_WIN_MS * 1000000
  let x := s.mcu n
  let ces := (c, lane, s.ticks) :: x.ces.filter fun e => decide (s.ticks < e.2.2 + win)
  let s := s.modMcu n fun x => { x with ces := ces }
  let count := (ces.filter fun e => e.1 = c && e.2.1 = lane).length
  if count < s.rd pg F.MCU_MCU_CFG_LANE_THRESH || x.failing.contains (c, lane) then s
  else if s.rd pg F.MCU_CH_SPARE_LEFT c = 0 then
    logEv pg 0x2404 (s.modMcu n fun x => { x with ces := x.ces.filter fun e => !(e.1 = c && e.2.1 = lane) })
  else (s.modMcu n fun x => { x with failing := x.failing ++ [(c, lane)] }).wr pg F.MCU_STATUS_LANE_PENDING 1

/-- A code word is read (R319): a correctable error is counted, attributed to a lane and written back; an uncorrectable one
is counted, recorded and marked poisoned; a poisoned one is counted. `wb` says whether corrections are written back. -/
def eccCodeWord (lane : Nat) (wb : Bool) (k : Nat) (s : State) : State :=
  let m := hbmMap s (32 * k)
  let pg := pgMCU m.1
  if s.poisonAt k then s.bump pg F.MCU_ECC_UE_POISON_READS
  else
    match s.hbmErrAt k with
    | 0 => s
    | 1 =>
      let first := s.rd pg F.MCU_ECC_CE_COUNT = 0
      let s := mcuErrRecord m.1 m.2.1 m.2.2 false (s.bump pg F.MCU_ECC_CE_COUNT)
      let s := if first then logEv pg 0x1401 (irq pg 0 s) else s
      let s := laneError m.1 (m.2.1 / 2) lane s
      if wb then s.setHbmErr k 0 else s
    | _ =>
      let s := mcuErrRecord m.1 m.2.1 m.2.2 true (s.bump pg F.MCU_ECC_UE_UE)
      let s := (s.setHbmErr k 0).setPoison k true
      logEv pg 0x2402 (irq pg 1 s) m.1 (8 * m.2.1 + m.1) m.2.2

/-- The code words that bytes [a, a + n) touch. -/
def codeWords (a n : Nat) : List Nat := (List.range ((a + n + 31) / 32 - a / 32)).map (a / 32 + ·)

/-- A read of bytes of HBM at the controllers. -/
def eccRead (lane a n : Nat) (s : State) : State :=
  (codeWords a n).foldl (fun s k =>
    eccCodeWord lane (s.flag (pgMCU (hbmMap s (32 * k)).1) F.MCU_MCU_CFG_WRITEBACK) k s) s

/-- A write of bytes of HBM: a whole code word loses its error and its marker; a part of one is a read-modify-write, under
which a poisoned word stays poisoned (R317, R320). An injected error lands in the first code word (R337). -/
def eccWriteHbm (lane a : Nat) (bs : List Byte) (s : State) : State :=
  if bs.isEmpty then s
  else
    let n := bs.length
    let s := (codeWords a n).foldl (fun s k =>
      if a ≤ 32 * k && decide (32 * k + 32 ≤ a + n) then s.setHbmErr k 0
      else
        let one := s.hbmErrAt k = 1
        let s := eccCodeWord lane true k s
        if one then s.setHbmErr k 0 else s) s
    let s := s.hbmWrite a bs
    let m := (hbmMap s a).1
    let i := (s.mcu m).inject
    if i = 0 then s else (s.setHbmErr (a / 32) i).modMcu m fun x => { x with inject := 0 }

/-! Atomics. -/

/-- A number of a width as a signed number. -/
def signedAt (wid v : Nat) : Int := if v < 2 ^ (wid - 1) then v else (v : Int) - 2 ^ wid

/-- The new value of an atomic operation on numbers of a width (Table 8.9). -/
def atomicNew (aop wid old op cmp : Nat) : Nat :=
  match aop with
  | 0 => (old + op) % 2 ^ wid
  | 1 => Nat.land old op
  | 2 => Nat.lor old op
  | 3 => Nat.xor old op
  | 4 => op
  | 5 => if old = cmp then op else old
  | 6 => max old op
  | 7 => min old op
  | 8 => if signedAt wid old < signedAt wid op then op else old
  | 9 => if signedAt wid op < signedAt wid old then op else old
  | _ =>
    let d := (op + 2 ^ wid - old) % 2 ^ wid
    if d ≠ 0 && decide (d < 2 ^ (wid - 1)) then op else old

/-- The old bytes of an atomic's target, replaced by the new ones. -/
def atomicBytes (p : Packet) (old : List Byte) : List Byte :=
  let n := 4 * p.words
  leBytes n (atomicNew (p.op - 0x10) (8 * n) (leNat old) (fieldOf p.data 0 n) (fieldOf p.data n n))

/-! The queues. -/

/-- The class of an access (Table 11.2). Accesses of the MGC, which the table does not name, rank as TILE does. -/
def hbmClass (p : Packet) : Nat :=
  let ep := p.tag / 256
  if p.port ≠ 31 then 3
  else if ep < 0xA00 then 2
  else if ep < 0xA10 then 1
  else if ep < 0xA20 then 0
  else if ep = 0xA20 then 5
  else if 0xA40 ≤ ep && decide (ep < 0xA80) then 4
  else 2

/-- The accesses a reservation of r / 64 allows in a window: r × NS / 12.5. -/
def resBudget (r ns : Nat) : Nat := r * ns * 2 / 25

/-- The rank of a waiting access; none where its class is held (Table 11.2, R329). -/
def rankOf (s : State) (n : Nat) (a : HbmAccess) : Option Nat :=
  let x := s.mcu n
  match a.cls with
  | 0 => if x.nDisp < resBudget x.dRes x.winNs then some 1 else if s.flag pgMEMQ F.MEMQ_DEMOTE_DISPLAY_HOLD then none else some 3
  | 1 => if x.nCam < resBudget x.cRes x.winNs then some 2 else if s.flag pgMEMQ F.MEMQ_DEMOTE_CAMERA_HOLD then none else some 3
  | 4 => some (if a.aged then 3 else 4)
  | 5 => some 5
  | _ => some 3

/-- Whether two packets touch one code word of HBM. -/
def sameWord (a b : Packet) : Bool :=
  (codeWords a.offset (4 * a.words)).any fun k => (codeWords b.offset (4 * b.words)).contains k

/-- The accesses that may be served next at a pseudo-channel: none that arrived after another to the same code word
(R318). -/
def serveable (q : List HbmAccess) (i : Nat) : List HbmAccess :=
  let here := q.filter fun a => a.pc = i
  (List.range here.length).filterMap fun k =>
    match here[k]? with
    | none => none
    | some a => if (here.take k).any fun b => sameWord b.p a.p then none else some a

/-- The access a pseudo-channel serves next: the oldest of the best rank, rank 3 in rotating priority among classes. -/
def pickAccess (s : State) (n i : Nat) : Option HbmAccess :=
  let cs := serveable (s.mcu n).queue i
  let best := cs.foldl (fun b a => match rankOf s n a with | none => b | some r => min b r) 9
  let at3 := cs.filter fun a => rankOf s n a == some best
  if best = 3 then
    let last := fget (fun _ => 0) (s.mcu n).last i
    match at3.find? fun a => decide (last ≤ a.cls) && at3.all fun b => decide (b.cls < last) || decide (a.cls ≤ b.cls) with
    | some a => some a
    | none => at3.find? fun a => at3.all fun b => decide (a.cls ≤ b.cls)
  else at3.head?

/-- Counts an access in the MCU's and in MEMQ's performance counters (Tables 11.3 and 11.6). -/
def mcuPerf (n k : Nat) (s : State) : State :=
  perfBump (pgMCU n) F.MCU_PERF_COUNT_LO_COUNT F.MCU_PERF_COUNT_HI_COUNT F.MCU_PERF_COUNT_HI_WRAP_COUNT F.MCU_PERF_WRAP_WRAPPED
    k 4 s
def memqPerf (k : Nat) (s : State) : State :=
  perfBump pgMEMQ F.MEMQ_PERF_COUNT_LO_COUNT F.MEMQ_PERF_COUNT_HI_COUNT F.MEMQ_PERF_COUNT_HI_WRAP_COUNT
    F.MEMQ_PERF_WRAP_WRAPPED k 3 s

/-- Performs an access at its controller and answers it (R319, R320, R350). -/
def serveHbm (lane : Nat) (p : Packet) (s : State) : State :=
  let a := p.offset
  let n := 4 * p.words
  let m := (hbmMap s a).1
  if p.op = opREAD then
    let s := mcuPerf m 0 (eccRead lane a n s)
    s.put (respond p opRD_DATA p.words (s.hbmRead a n) (s.hbmPoisoned a n))
  else if p.op = opWRITE then
    let s := mcuPerf m 1 (eccWriteHbm lane a p.data s)
    s.put (respond p opWR_ACK 0 [] false)
  else
    let s := mcuPerf m 1 (mcuPerf m 0 (eccRead lane a n s))
    let old := s.hbmRead a n
    if s.hbmPoisoned a n then s.put (respond p opAT_DATA p.words old true)
    else (eccWriteHbm lane a (atomicBytes p old) s).put (respond p opAT_DATA p.words old false)

/-- An access reaches the agent of its controller and waits there. -/
def mcuEnqueue (p : Packet) (s : State) : State :=
  let m := hbmMap s p.offset
  let s := if s.flag (pgMCU m.1) F.MCU_STATUS_PAUSED && s.rd (pgMCU m.1) F.MCU_STATUS_PAUSED_CH = m.2.1 / 2 then mcuPerf m.1 2 s
           else s
  s.modMcu m.1 fun x =>
    { x with queue := x.queue ++ [{ p := p, pc := m.2.1, cls := hbmClass p, aged := false, old := false }] }

/-- Removes the first occurrence of an access. -/
def dropAccess (a : HbmAccess) : List HbmAccess → List HbmAccess
  | [] => []
  | b :: r => if a = b then r else b :: dropAccess a r

/-- A pseudo-channel serves its next access, unless RETRAIN pauses it or it is out of service. -/
def mcuServe (n i lane err : Nat) (s : State) : State :=
  let pg := pgMCU n
  if (s.flag pg F.MCU_STATUS_PAUSED && s.rd pg F.MCU_STATUS_PAUSED_CH = i / 2) || !pcOnline s n i then s
  else
    match pickAccess s n i with
    | none => s
    | some a =>
      let s := s.modMcu n fun x =>
        { x with queue := dropAccess a x.queue, last := fset (fun _ => 0) x.last i (a.cls + 1),
                 nDisp := x.nDisp + b2n (a.cls = 0), nCam := x.nCam + b2n (a.cls = 1) }
      let k := a.p.offset / 32
      let s := if err = 0 || s.poisonAt k then s else s.setHbmErr k (max err (s.hbmErrAt k))
      serveHbm lane a.p (memqPerf a.cls s)

/-- MCU_ACCESS (R332): a pseudo-channel serves its next access; the stack shows an error in its first code word or none,
attributed to a lane. -/
def execMcuAccess (n i lane err : Nat) (s : State) : Host.Outcome State Fault Refusal :=
  liveP s fun s => if 2 ≤ s.ladder then s else mcuServe n i lane err s

/-- The effect of MEMQ_HOST_AGED out of reset (R328). -/
def memqHostAgedEffect (n i : Nat) (s : State) : State :=
  if s.rd pgMEMQ F.MEMQ_HOST_AGE_US = 0 then s
  else
    match (s.mcu n).queue.find? fun a => a.pc = i && a.cls = 4 && !a.aged with
    | none => s
    | some a => s.modMcu n fun x =>
        { x with queue := (x.queue.takeWhile fun b => b ≠ a) ++ [{ a with aged := true }]
                          ++ (x.queue.dropWhile fun b => b ≠ a).drop 1 }

/-- MEMQ_HOST_AGED (R328): the oldest HOST access of a pseudo-channel that is not yet aged has waited AGE_US. -/
def execMemqHostAged (n i : Nat) (s : State) : Host.Outcome State Fault Refusal :=
  liveP s (memqHostAgedEffect n i)

/-- An over-reservation of a window (R330): counted, and logged once per episode. -/
def memqOver (ov epi : Bool) (fld : Fld) (bit code : Nat) (s : State) : State :=
  if ov then
    let s := irq pgMEMQ bit (s.bump pgMEMQ fld)
    if epi then s else logEv pgMEMQ code s
  else s

/-- The effect of MEMQ_WINDOW_END out of reset (R329, R330). -/
def memqWindowEndEffect (n : Nat) (s : State) : State :=
  let x := s.mcu n
  let od := decide (resBudget x.dRes x.winNs < x.nDisp)
  let oc := decide (resBudget x.cRes x.winNs < x.nCam)
  let s := memqOver od x.overD F.MEMQ_OVER_DISPLAY 0 0x0410 s
  let s := memqOver oc x.overC F.MEMQ_OVER_CAMERA 1 0x0411 s
  let s := if x.queue.any fun a => a.cls = 5 && a.old then s.bump pgMEMQ F.MEMQ_STARVED_BLIT else s
  s.modMcu n fun x =>
    { x with nDisp := 0, nCam := 0, dRes := s.rd pgMEMQ F.MEMQ_RES_DISPLAY_RES, cRes := s.rd pgMEMQ F.MEMQ_RES_CAMERA_RES,
             winNs := s.rd pgMEMQ F.MEMQ_WINDOW_NS, overD := od, overC := oc,
             queue := x.queue.map fun a => { a with old := true } }

/-- MEMQ_WINDOW_END (R329, R330): a window of a controller ends. -/
def execMemqWindowEnd (n : Nat) (s : State) : Host.Outcome State Fault Refusal :=
  liveP s (memqWindowEndEffect n)

/-! The pages. -/

/-- A write of MEMQ.RES (R330). -/
def memqResWrite (v : Nat) (s : State) : State :=
  let d := min (v % 64) 32
  let c := min (v / 256 % 64) (32 - d)
  (s.wr pgMEMQ F.MEMQ_RES_DISPLAY_RES (v % 64)).wr pgMEMQ F.MEMQ_RES_CAMERA_RES c

/-- MEMQ_RES_WRITE (R330): a write of RES. -/
def execMemqResWrite (req : Nat) (v : Word) (s : State) : Host.Outcome State Fault Refusal :=
  liveP s (regWrite req (pgMEMQ + 0x100) (memqResWrite v.toNat))

/-- Some granule of a block is assigned to a partition. -/
def blockAssigned (s : State) (b : Nat) : Bool :=
  (List.range 8).any fun g => fget (fun _ => mgmt) s.granOwner (8 * b + g) ≠ mgmt

/-- The mode of a block changes: its contents are unspecified until written (R315). -/
def imapFlip (b : Nat) (s : State) : State :=
  let f := if b < 32 then F.MEMQ_IMAP_LO_BLOCK else F.MEMQ_IMAP_HI_BLOCK
  let s := s.wr pgMEMQ f (Nat.xor (s.rd pgMEMQ f) (2 ^ (b % 32)))
  let s := { s with hbm := mclear s.hbm (b * 2 ^ 33) (2 ^ 33), poison := mclear s.poison (b * 2 ^ 28) (2 ^ 28),
                    hbmErr := mclear s.hbmErr (b * 2 ^ 28) (2 ^ 28),
                    hbmFree := fset (fun _ => 0) s.hbmFree b (s.freeCtr + 1), freeCtr := s.freeCtr + 2 ^ 33 }
  logEv pgMEMQ 0x0408 s b

/-- A write of IMAP_LO or IMAP_HI (R315): a bit of a block with an assigned granule keeps its value. -/
def imapWrite (hi : Bool) (v : Nat) (s : State) : State :=
  (List.range 32).foldl (fun s k =>
    let b := k + 32 * b2n hi
    if bitOf v k = s.imap b then s
    else if blockAssigned s b then irq pgMEMQ 2 (s.bump pgMEMQ F.MEMQ_IMAP_STATUS_REJECTED)
    else imapFlip b s) s

/-- MEMQ_IMAP_WRITE (R315): a write of IMAP_LO, or of IMAP_HI. -/
def execMemqImapWrite (req : Nat) (hi : Bool) (v : Word) (s : State) : Host.Outcome State Fault Refusal :=
  liveP s (regWrite req (pgMEMQ + 0x108 + 4 * b2n hi) (imapWrite hi v.toNat))

/-- A write of ECC_CLR. -/
def mcuEccClr (n v : Nat) (s : State) : State :=
  let pg := pgMCU n
  if bitOf v 0 then s.zeroWords [pg + 0x114, pg + 0x118, pg + 0x11C, pg + 0x120] else s

/-- MCU_ECC_CLEAR (R336): a write of ECC_CLR. -/
def execMcuEccClear (req n : Nat) (v : Word) (s : State) : Host.Outcome State Fault Refusal :=
  liveP s (regWrite req (pgMCU n + 0x124) (mcuEccClr n v.toNat))

/-- A write of INJECT; a two-symbol error where both are asked for. -/
def mcuInjectWrite (n v : Nat) (s : State) : State :=
  if bitOf v 1 then s.modMcu n fun x => { x with inject := 2 }
  else if bitOf v 0 then s.modMcu n fun x => { x with inject := 1 }
  else s

/-- MCU_INJECT (R337): a write of INJECT. -/
def execMcuInject (req n : Nat) (v : Word) (s : State) : Host.Outcome State Fault Refusal :=
  liveP s (regWrite req (pgMCU n + 0x418) (mcuInjectWrite n v.toNat))

/-! Patrol and SCRUB. -/

/-- An HBM offset lies in SCRUB unit k of a stack (R321). -/
def inUnit (s : State) (n k a : Nat) : Bool :=
  let m := hbmMap s a
  m.1 = n && m.2.1 = k / 1024 && m.2.2 / 2 ^ 20 = k % 1024

/-- The chip offset of a pc-local address: the inverse of Table 11.1. -/
def hbmUnmap (s : State) (n i loc : Nat) : Nat :=
  let b := loc / 2 ^ 24
  if s.imap b then b * 2 ^ 33 + n * 2 ^ 30 + loc / 2 ^ 8 % 2 ^ 16 * 2 ^ 14 + i * 2 ^ 8 + loc % 2 ^ 8
  else loc / 2 ^ 21 * 2 ^ 30 + loc / 2 ^ 8 % 2 ^ 13 * 2 ^ 17 + i * 2 ^ 11 + n * 2 ^ 8 + loc % 2 ^ 8

/-- Corrects a unit (R321, R322): errors are written back, uncorrectable ones marked; it answers how many were found. -/
def correctUnit (n k : Nat) (s : State) : Nat × State :=
  let ks := (s.hbmErr.filter fun e => inUnit s n k (32 * e.1)).map (·.1)
  let ues := (ks.filter fun x => s.hbmErrAt x = 2 && !s.poisonAt x).length
  (ues, ks.foldl (fun s x => if s.poisonAt x then s else eccCodeWord 0 true x s) s)

/-- Writes every code word of a unit with zeros (R322). -/
def zeroUnit (n k : Nat) (s : State) : State :=
  let keep := fun (a : Nat) => !inUnit s n k a
  let t := { s with hbm := s.hbm.filter fun e => keep e.1, poison := s.poison.filter fun e => keep (32 * e.1),
                    hbmErr := s.hbmErr.filter fun e => keep (32 * e.1) }
  if s.hbmFree.isEmpty then t
  else (List.range 4096).foldl (fun t j =>
    t.hbmWrite (hbmUnmap s n (k / 1024) (k % 1024 * 2 ^ 20 + 256 * j)) (List.replicate 256 0)) t

/-- The effect of PATROL_UNIT out of reset (R321). -/
def patrolUnitEffect (n : Nat) (s : State) : State :=
  let pg := pgMCU n
  if !s.flag pg F.MCU_PATROL_EN || decide (2 ≤ s.ladder) then s
  else
    let k := s.rd pg F.MCU_PATROL_PROG_UNIT
    let s := (correctUnit n k s).2
    if k = 65535 then irq pg 5 ((s.wr pg F.MCU_PATROL_PROG_UNIT 0).bump pg F.MCU_PATROL_PROG_PASSES)
    else s.wr pg F.MCU_PATROL_PROG_UNIT (k + 1)

/-- PATROL_UNIT (R321): patrol reads the next unit of a stack. -/
def execPatrolUnit (n : Nat) (s : State) : Host.Outcome State Fault Refusal :=
  liveP s (patrolUnitEffect n)

/-- MCU_SCRUB_START (R322): a START of SCRUB. -/
def mcuScrubStart (req n : Nat) (s : State) : State :=
  let pg := pgMCU n
  wakeStart pg false (lopStart req pg 2 false fun s =>
    let first := s.lopArg pg 0 % 2 ^ 16
    let count := s.lopArg pg 1 % 2 ^ 17
    if count = 0 || decide (65536 < first + count) then lopRefuse pg resBAD_ARG s else s) s

/-- MCU_SCRUB_START (R322): a START of SCRUB. -/
def execMcuScrubStart (req n : Nat) (s : State) : Host.Outcome State Fault Refusal :=
  liveP s (regWrite req (pgMCU n + 0x40) (mcuScrubStart req n))

/-- The effect of MCU_SCRUB_UNIT_DONE out of reset (R322). -/
def mcuScrubUnitDoneEffect (n : Nat) (s : State) : State :=
  let pg := pgMCU n
  if !lopRuns s pg 2 then s
  else
    let done := s.rd pg F.LOP_LOP_PROGRESS_DONE
    let k := s.lopArg pg 0 % 2 ^ 16 + done
    let r := if bitOf (s.lopArg pg 2) 0 then (0, zeroUnit n k s) else correctUnit n k s
    let s := lopDetail pg (min 0xFFFF (s.rd pg F.LOP_LOP_RESULT_DETAIL + r.1)) r.2
    lopUnit pg 1 (done + 1 = s.lopArg pg 1 % 2 ^ 17) s

/-- MCU_SCRUB_UNIT_DONE (R322): a unit is corrected or zeroed. -/
def execMcuScrubUnitDone (n : Nat) (s : State) : Host.Outcome State Fault Refusal :=
  liveP s (mcuScrubUnitDoneEffect n)

/-! INIT and RETRAIN. -/

/-- The page is quiescent: stopped with nothing queued (R80, R323). -/
def mcuQuiesced (s : State) (n : Nat) : Bool := s.flag (pgMCU n) F.HDR_PAGE_STATUS_QUIESCED

/-- A START of INIT (R323): every pseudo-channel of the stack goes out of service. -/
def mcuInitStart (req n : Nat) (s : State) : State :=
  let pg := pgMCU n
  wakeStart pg true (lopStart req pg 1 true fun s =>
    if s.done && !mcuQuiesced s n then lopRefuse pg resCONFLICT s else setOnline n 0 s) s

/-- MCU_INIT_START (R323): a START of INIT. -/
def execMcuInitStart (req n : Nat) (s : State) : Host.Outcome State Fault Refusal :=
  liveP s (regWrite req (pgMCU n + 0x40) (mcuInitStart req n))

/-- INIT is under way on a stack. -/
def initRuns (s : State) (n : Nat) : Bool := s.lopActive (pgMCU n) && decide (s.lopOp (pgMCU n) = 1)

/-- HBM is ready again after it was lost: every stack is initialised, its contents are zero, and the pages of the controllers
that the ladder state dropped are enabled as the boot leaves them (R175). -/
def hbmBack (s : State) : State :=
  if s.pwr.hbmLost && (List.range 8).all fun n => onlineMask s n = 2 ^ 64 - 1 && !initRuns s n then
    let s := { s with pwr := { s.pwr with hbmLost := false }, hbm := [], poison := [], hbmErr := [], hbmFree := [] }
    (((List.range 8).map pgMCU ++ [pgMEMQ]).filter fun p => s.word (p + 8) = 0).foldl (fun s p =>
        ((s.wr p F.HDR_PAGE_CTRL_ENABLE 1).wr p F.HDR_PAGE_STATUS_ENABLED 1).wr p F.HDR_PAGE_STATUS_QUIESCED 0)
      (s.wr pgPWR F.PWR_STATUS_HBM_READY 1)
  else s

/-- The effect of MCU_INIT_PC_TRAINED out of reset (R323). -/
def mcuInitPcTrainedEffect (n : Nat) (ok : Bool) (s : State) : State :=
  let pg := pgMCU n
  if !lopRuns s pg 1 then s
  else
    let i := s.rd pg F.LOP_LOP_PROGRESS_DONE
    let s := if ok then setOnline n (onlineMask s n + 2 ^ i) s
             else lopDetail pg (s.rd pg F.LOP_LOP_RESULT_DETAIL + 1) s
    hbmBack (lopUnit pg 1 (i = 63) s)

/-- MCU_INIT_PC_TRAINED (R323): the next pseudo-channel comes into service, or stays offline. -/
def execMcuInitPcTrained (n : Nat) (ok : Bool) (s : State) : Host.Outcome State Fault Refusal :=
  liveP s (mcuInitPcTrainedEffect n ok)

/-- Heads named by a mask that scan, and those of them not in vertical blank (Table 18.3). -/
def scanningHeads (s : State) (mask : Nat) : List Nat :=
  (List.range 4).filter fun h => bitOf mask h && s.rd (pgDH h) F.DH_STATUS_STATE = 2

/-- RETRAIN pauses its channel (R325 step 2); with ALL nothing is paused. -/
def retrainPause (n : Nat) (late : Bool) (s : State) : State :=
  let pg := pgMCU n
  let c := s.lopArg pg 0 % 64
  let s := s.modMcu n fun x => { x with vbWait := false, vbLate := late }
  if c = 63 then s else (s.wr pg F.MCU_STATUS_PAUSED 1).wr pg F.MCU_STATUS_PAUSED_CH c

/-- RETRAIN begins (R325 step 1): it waits for vertical blank when its HEAD_MASK names scanning heads. -/
def retrainBegin (n : Nat) (s : State) : State :=
  if (scanningHeads s (s.lopArg (pgMCU n) 2 % 16)).isEmpty then retrainPause n false s
  else s.modMcu n fun x => { x with vbWait := true, vbLate := false }

/-- A START of RETRAIN (R325). -/
def mcuRetrainStart (req n : Nat) (s : State) : State :=
  let pg := pgMCU n
  let all := s.rd pg F.LOP_LOP_ARG_ARG 0 % 64 = 63
  wakeStart pg all (lopStart req pg 3 all fun s =>
    let c := s.lopArg pg 0 % 64
    if s.lopArg pg 1 % 4 = 3 || (decide (32 ≤ c) && c ≠ 63) then lopRefuse pg resBAD_ARG s
    else if c = 63 && s.done && !mcuQuiesced s n then lopRefuse pg resCONFLICT s
    else retrainBegin n s) s

/-- MCU_RETRAIN_START (R325): a START of RETRAIN. -/
def execMcuRetrainStart (req n : Nat) (s : State) : Host.Outcome State Fault Refusal :=
  liveP s (regWrite req (pgMCU n + 0x40) (mcuRetrainStart req n))

/-- The effect of MCU_AUTO_REPAIR_START out of reset (R326). -/
def mcuAutoRepairStartEffect (n : Nat) (s : State) : State :=
  let pg := pgMCU n
  match (s.mcu n).failing with
  | [] => s
  | (c, _) :: _ =>
    if !s.flag pg F.MCU_MCU_CFG_AUTO_REPAIR || s.lopActive pg || !s.running pg then s
    else
      let s := lopAccept pg 3 s
      retrainBegin n { s with lopArgs := fset (fun _ => []) s.lopArgs pg [c, 1, 0xF, 0] }

/-- MCU_AUTO_REPAIR_START (R326): with AUTO_REPAIR set, RETRAIN in REPAIR mode starts on a pending lane's channel once the
operation window is free. -/
def execMcuAutoRepairStart (n : Nat) (s : State) : Host.Outcome State Fault Refusal :=
  liveP s (mcuAutoRepairStartEffect n)

/-- The effect of MCU_RETRAIN_VBLANK_READY out of reset (R325). -/
def mcuRetrainVblankReadyEffect (n : Nat) (late : Bool) (s : State) : State :=
  let pg := pgMCU n
  let hs := scanningHeads s (s.lopArg pg 2 % 16)
  if !(lopRuns s pg 3 && (s.mcu n).vbWait) then s
  else if s.lop pg = lopCANCELLING then lopCancelled pg (s.modMcu n fun x => { x with vbWait := false })
  else if late || hs.all fun h => s.flag (pgDH h) F.DH_STATUS_IN_VBLANK then retrainPause n late s
  else s

/-- MCU_RETRAIN_VBLANK_READY (R325): the named heads are in vertical blank, or the wait ran out. -/
def execMcuRetrainVblankReady (n : Nat) (late : Bool) (s : State) : Host.Outcome State Fault Refusal :=
  liveP s (mcuRetrainVblankReadyEffect n late)

/-- Moves one failing lane of a channel onto a free spare (R326); it answers whether a spare was free. -/
def repairLane (n c lane : Nat) (s : State) : Bool × State :=
  let pg := pgMCU n
  let left := s.rd pg F.MCU_CH_SPARE_LEFT c
  let s := s.modMcu n fun x => { x with failing := x.failing.filter fun f => f ≠ (c, lane),
                                        ces := x.ces.filter fun e => !(e.1 = c && e.2.1 = lane) }
  if left = 0 then (false, logEv pg 0x2404 s)
  else
    let s := (s.wr pg F.MCU_CH_SPARE_LEFT (left - 1) c).wr pg F.MCU_CH_SPARE_USED (s.rd pg F.MCU_CH_SPARE_USED c + 1) c
    let s := if s.flag pg F.MCU_TRAIN_B_SPARE0_USED c then
        (s.wr pg F.MCU_TRAIN_B_SPARE1_LANE lane c).wr pg F.MCU_TRAIN_B_SPARE1_USED 1 c
      else (s.wr pg F.MCU_TRAIN_B_SPARE0_LANE lane c).wr pg F.MCU_TRAIN_B_SPARE0_USED 1 c
    let s := s.bump pg F.MCU_LANE_REPAIR_REPAIRED
    let s := s.wr pg F.MCU_LANE_REPAIR_SPARES_LEFT (s.rd pg F.MCU_LANE_REPAIR_SPARES_LEFT - 1)
    let s := s.wr pgCHIP F.CHIP_HBM_REPAIR_REPAIRED (s.rd pg F.MCU_LANE_REPAIR_REPAIRED) n
    let s := s.wr pgCHIP F.CHIP_HBM_REPAIR_SPARES_LEFT (s.rd pg F.MCU_LANE_REPAIR_SPARES_LEFT) n
    let s := logEv pg 0x1403 (irq pg 2 s)
    (true, if left = 1 then irq pg 3 (s.bump pg F.MCU_LANE_REPAIR_CH_EXHAUSTED) else s)

/-- The channel returns to service. -/
def retrainEnd (n : Nat) (s : State) : State :=
  let pg := pgMCU n
  let s := (s.wr pg F.MCU_STATUS_PAUSED 0).wr pg F.MCU_STATUS_PAUSED_CH 0
  s.wr pg F.MCU_STATUS_LANE_PENDING (b2n (!(s.mcu n).failing.isEmpty))

/-- The steps of RETRAIN complete (R325 steps 3 and 4). With ALL the spec names no channel for DETAIL: free values. -/
def mcuRetrainDone (n : Nat) (s : State) : State :=
  let pg := pgMCU n
  let c := s.lopArg pg 0 % 64
  let s := s.modMcu n fun x => { x with vbWait := false }
  if s.lop pg = lopCANCELLING then lopCancelled pg (retrainEnd n s)
  else
    let mine := if s.lopArg pg 1 % 4 = 1 then (s.mcu n).failing.filter fun f => c = 63 || f.1 = c else []
    let r := mine.foldl (fun (r : Nat × State) f => let x := repairLane n f.1 f.2 r.2
                                                  (r.1 + b2n x.1, x.2)) (0, s)
    let s := retrainEnd n r.2
    let fr := if c = 63 then s.free 13 else (s.rd pg F.MCU_CH_SPARE_LEFT c + c * 2 ^ 8, s)
    let s := lopDetail pg (r.1 + fr.1 * 2 ^ 8 + b2n (s.mcu n).vbLate * 2 ^ 24) fr.2
    logEv pg 0x0407 (lopUnit pg 8 true s)

/-- MCU_RETRAIN_DONE (R325): the training steps of the channel complete. -/
def execMcuRetrainDone (n : Nat) (s : State) : Host.Outcome State Fault Refusal :=
  liveP s fun s => if lopRuns s (pgMCU n) 3 && !(s.mcu n).vbWait then mcuRetrainDone n s else s

/-- MCU_RETRAIN_PAUSE_TIMEOUT (R325): the pause exceeds PAUSE_MAX_US; the channel returns on its previous training. -/
def execMcuRetrainPauseTimeout (n : Nat) (s : State) : Host.Outcome State Fault Refusal :=
  liveP s fun s =>
    let pg := pgMCU n
    if lopRuns s pg 3 && s.flag pg F.MCU_STATUS_PAUSED then lopFail pg resTIMEOUT 0 (retrainEnd n s) else s

/-- MCU_PC_LOST (R324): a pseudo-channel in service stops answering its PHY: FATAL event 0x4406. -/
def execMcuPcLost (n i : Nat) (s : State) : Host.Outcome State Fault Refusal :=
  liveP s fun s => if pcOnline s n i then raiseEv (pgMCU n) 0x4406 mgmt s else s

end Sys2Proof.Machine
end

