-- ==== Sys2Proof/Machine/Cam.lean ====
section
/-! DEFINITION. The camera ports and the course of a frame through its pipeline (21): packets, faults, steps, record,
signals, CAM_TRIG. -/
namespace Sys2Proof.Machine
open Sys2Proof

/-! Frames and states (R610, R611, R627). -/

/-- A frame of a pipeline changed. -/
def modFrame (n seq : Nat) (f : CamFrame → CamFrame) (s : State) : State :=
  s.modCam n fun x => { x with frames := x.frames.map fun e => if e.seq = seq then f e else e }

/-- The frame that is arriving. -/
def arriving (s : State) (n : Nat) : Option CamFrame := (s.cam n).frames.getLast?.filter fun f => !f.ended

/-- The state that Table 21.5 gives the frames at hand. -/
def camStateOf (x : Cam) : Nat :=
  if x.frames.any fun f => f.ended && f.cause = 0 then 3
  else if x.frames.any fun f => !f.ended then 2
  else if x.drop then 4 else 1

/-- The pipeline enters the state its frames call for; with no frame left it goes OFF when ENABLE or QUIESCE asks for it
(Table 21.5). -/
def ispSync (n : Nat) (s : State) : State :=
  if ispState s n = 0 then s
  else
    let x := s.cam n
    let st := camStateOf x
    let s := if ispState s n = st then s else setIspState n st s
    if x.frames.isEmpty && !s.running (pgISP n) then logEv (pgISP n) 0x0A02 (ispOff n s) else s

/-- After a write of PAGE_CTRL of the ISP page: a start in OFF with its checks, else the stop when nothing is left. -/
def ispCtrl (n : Nat) (s : State) : State :=
  if ispState s n ≠ 0 then ispSync n s
  else if !s.running (pgISP n) then s
  else
    let w := s.rd (pgCSI n) F.CSI_GEOM_WIDTH
    let h := s.rd (pgCSI n) F.CSI_GEOM_HEIGHT
    let c := ispCfg s (pgISP n + inForce)
    let geom := decide (64 ≤ w) && decide (w ≤ 7680) && decide (64 ≤ h) && decide (h ≤ 4320)
    let bad := if !s.avail (pgCSI n) then some 0 else if !geom then some 0x104 else ispBad c w h
    match bad with
    | some off => applyBad n off (s.wr (pgISP n) F.HDR_PAGE_CTRL_ENABLE 0)
    | none =>
      let s := takeStaged (pgCSI n) [0x100, 0x104, 0x108] s
      let s := s.modCam n fun x => { Cam.idle with trig := x.trig, trigAt := x.trigAt }
      logEv (pgISP n) 0x0A01 (setIspState n 1 s)

/-- The arriving frame is marked CORRUPT with a cause (R611, R622): the port discards what follows up to the next FS, and
no output is written any more. -/
def camFault (n cause : Nat) (s : State) : State :=
  match arriving s n with
  | none => s
  | some f =>
    let x := s.cam n
    let s := modFrame n f.seq (fun f => { f with ended := true, cause := cause, fe := s.met }) s
    let s := s.modCam n fun x =>
      { x with wq := x.wq.filter (fun e => !(e.seq = f.seq && decide (e.out < 3))), drop := true, wasBad := true, cleanPrev := false }
    let s := (s.wr (pgCSI n) F.CSI_STATUS_IN_FRAME 0).wr (pgCSI n) F.CSI_LINES_LAST_LINES f.lines.length
    let s := irq (pgISP n) 2 (s.bump (pgISP n) F.ISP_COUNTS_CORRUPT)
    let s := if x.cleanPrev then logEv (pgISP n) 0x2A03 (logEv (pgCSI n) 0x2A11 s) cause else s
    let s := if cause = 7 then
        let s := irq (pgISP n) 3 (s.bump (pgISP n) F.ISP_COUNTS_OVERFLOW)
        let s := s.modCam n fun x => { x with overPrev := false }
        if x.overPrev then logEv (pgISP n) 0x2A04 s else s
      else s
    ispSync n s

/-- The port of a pipeline receives: the pipeline is not OFF, and its partition is not being drained. -/
def csiOn (s : State) (n : Nat) : Bool := decide (ispState s n ≠ 0) && !(s.cam n).stop

/-- A packet header as received: 0 without error, 1 with one corrected, 2 with one that the ECC cannot correct (R609, R611).
`f` takes the packet of a good header. -/
def csiHeader (n ecc : Nat) (f : State → State) (s : State) : State :=
  let pg := pgCSI n
  match ecc with
  | 0 => f s
  | 1 =>
    let first := s.rd pg F.CSI_COUNTS_ECC_CORR = 0
    let s := irq pg 2 (s.bump pg F.CSI_COUNTS_ECC_CORR)
    f (if first then logEv pg 0x1A10 s else s)
  | _ => if (s.cam n).drop then s else camFault n 2 (s.bump pg F.CSI_COUNTS_ECC_UNCORR)

/-- A frame begins with an accepted FS (R610, R627, R630). -/
def frameBegin (n num : Nat) (s : State) : State :=
  let s := if s.flag (pgISP n) F.ISP_STATUS_APPLY_PENDING then ispTake n (camW s n) (camH s n) s else s
  let s := s.inc (pgISP n) F.ISP_SEQ_SEQ
  let x := s.cam n
  let f : CamFrame :=
    { cfg := ispCfg s (pgISP n + inForce), seq := s.rd (pgISP n) F.ISP_SEQ_SEQ, num := num % 65536, fs := s.met, fe := 0,
      ended := false, cause := 0, lines := [], done := 0, nr := [], toned := [], zones := List.replicate 768 0,
      hist := List.replicate 256 0, tnrReset := x.fresh || x.wasBad, embTrunc := false, emb := 0, writeErr := false,
      failed := [], recSent := false, recBad := false }
  let s := s.modCam n fun x => { x with frames := x.frames ++ [f], drop := false, fresh := false }
  let pg := pgCSI n
  let s := (s.wr pg F.CSI_FRAME_NUM_NUM num).wr64 pg F.CSI_FS_MET_LO_MET F.CSI_FS_MET_HI_MET s.met
  let lanes := [1, 2, 4, 4].getD (csiNow s n F.CSI_CFG_LANES) 4
  let s := (s.wr pg F.CSI_STATUS_IN_FRAME 1).wr pg F.CSI_STATUS_LANE_SYNC (2 ^ lanes - 1)
  ispSync n (irq (pgISP n) 0 (irq pg 0 s))

/-- CSI_FRAME_START (R610): an FS packet, with its header's error and frame number; one before the FE of the frame in progress
marks that frame CORRUPT with cause 6 and starts the next. A pipeline that is asked to stop accepts no FS. -/
def execCsiFrameStart (n ecc num : Nat) (s : State) : Host.Outcome State Fault Refusal :=
  liveP s fun s =>
    if !csiOn s n then s
    else csiHeader n ecc (fun s =>
      let s := if (arriving s n).isSome then camFault n 6 (s.bump (pgCSI n) F.CSI_COUNTS2_FE_MISSING) else s
      if s.running (pgISP n) && s.running (pgCSI n) && decide (ispState s n ≠ 0) then frameBegin n num s else s) s

/-- The effect of CSI_FRAME_END out of reset (R610, R627). -/
def csiFrameEndEffect (n ecc : Nat) (s : State) : State :=
  if !csiOn s n then s
  else csiHeader n ecc (fun s =>
    match arriving s n with
    | none => s
    | some f =>
      if f.lines.length < camH s n then camFault n 5 s
      else
        let s := modFrame n f.seq (fun f => { f with ended := true, fe := s.met }) s
        let s := s.modCam n fun x => { x with wasBad := false, cleanPrev := true, overPrev := true }
        let s := (s.wr (pgCSI n) F.CSI_STATUS_IN_FRAME 0).wr (pgCSI n) F.CSI_LINES_LAST_LINES f.lines.length
        ispSync n s) s

/-- CSI_FRAME_END (R610, R627): an FE packet; too few lines mark the frame CORRUPT with cause 5. -/
def execCsiFrameEnd (n ecc : Nat) (s : State) : Host.Outcome State Fault Refusal :=
  liveP s (csiFrameEndEffect n ecc)

/-- Bytes of a line in the input buffer. -/
def csiLineBytes (s : State) (n : Nat) : Nat := (camW s n * rawBits (csiNow s n F.CSI_CFG_DT) + 7) / 8

/-- Lines that wait in the input buffer: received and not yet in the pipeline (R617). -/
def csiWaiting (s : State) (n : Nat) : Nat :=
  (s.cam n).frames.foldl (fun k f => if f.cause = 0 then k + (f.lines.length - f.done) else k) 0

/-- The effect of CSI_LINE_PACKET out of reset (R611, R617). -/
def csiLinePacketEffect (n ecc : Nat) (crcOk : Bool) (px : List Nat) (s : State) : State :=
  if !csiOn s n then s
  else csiHeader n ecc (fun s =>
    match arriving s n with
    | none => s
    | some f =>
      let pg := pgCSI n
      if !crcOk then camFault n 3 (irq pg 3 (s.bump pg F.CSI_COUNTS_CRC_ERR))
      else if px.length ≠ camW s n then camFault n 4 (s.bump pg F.CSI_COUNTS2_LEN_ERR)
      else if camH s n ≤ f.lines.length then camFault n 5 s
      else if 65536 < (csiWaiting s n + 1) * csiLineBytes s n then camFault n 7 s
      else modFrame n f.seq (fun f => { f with lines := f.lines ++ [px.map (· % 2 ^ rawBits (csiNow s n F.CSI_CFG_DT))] }) s) s

/-- CSI_LINE_PACKET (R611, R617): a data line, with its header's error, whether its CRC matches, and its pixels' codes. -/
def execCsiLinePacket (n ecc : Nat) (crcOk : Bool) (px : List Nat) (s : State) : Host.Outcome State Fault Refusal :=
  liveP s (csiLinePacketEffect n ecc crcOk px)

/-- The effect of CSI_EMBEDDED_PACKET out of reset (R625). -/
def csiEmbeddedPacketEffect (n ecc : Nat) (crcOk : Bool) (bs : List Byte) (s : State) : State :=
  if !csiOn s n then s
  else csiHeader n ecc (fun s =>
    if csiNow s n F.CSI_CFG_EMB_EN = 0 then (if (s.cam n).drop then s else s.bump (pgCSI n) F.CSI_COUNTS2_OTHER_DT)
    else
      match arriving s n with
      | none => s
      | some f =>
        if !crcOk then camFault n 3 (irq (pgCSI n) 3 (s.bump (pgCSI n) F.CSI_COUNTS_CRC_ERR))
        else
          let max := min 65536 (cf f.cfg F.ISP_EMB_MAX_BYTES * 256)
          let d := bs.take (max - f.emb)
          let s := modFrame n f.seq (fun f => { f with emb := f.emb + d.length, embTrunc := f.embTrunc || decide (d.length < bs.length) }) s
          let a := cf64 f.cfg F.ISP_EMB_ADDR_LO_EMB_ADDR F.ISP_EMB_ADDR_HI_EMB_ADDR + f.seq % 16 * max + f.emb
          if d.isEmpty then s else camWrite n f.seq 3 3 a d s) s

/-- CSI_EMBEDDED_PACKET (R625): embedded data, written behind what the frame brought before and cut at EMB_MAX. -/
def execCsiEmbeddedPacket (n ecc : Nat) (crcOk : Bool) (bs : List Byte) (s : State) : Host.Outcome State Fault Refusal :=
  liveP s (csiEmbeddedPacketEffect n ecc crcOk bs)

/-- The effect of CSI_PACKET_OTHER out of reset (R609). -/
def csiPacketOtherEffect (n ecc vc dt : Nat) (s : State) : State :=
  if !csiOn s n then s
  else csiHeader n ecc (fun s =>
    let own := dt = 0 || dt = 1 || dt = csiNow s n F.CSI_CFG_DT || (dt = 0x12 && csiNow s n F.CSI_CFG_EMB_EN = 1)
    if (s.cam n).drop then s
    else if vc ≠ csiNow s n F.CSI_CFG_VC then s.bump (pgCSI n) F.CSI_COUNTS2_OTHER_VC
    else if own || dt = 2 || dt = 3 then s
    else s.bump (pgCSI n) F.CSI_COUNTS2_OTHER_DT) s

/-- CSI_PACKET_OTHER (R609): a packet on another virtual channel or of another data type is discarded whole and counted; line
start and end packets are ignored. -/
def execCsiPacketOther (n ecc vc dt : Nat) (s : State) : Host.Outcome State Fault Refusal :=
  liveP s (csiPacketOtherEffect n ecc vc dt)

/-- The effect of CSI_LANE_FAULT out of reset (R611). -/
def csiLaneFaultEffect (n lane : Nat) (s : State) : State :=
  if !csiOn s n || (s.cam n).drop then s
  else
    let pg := pgCSI n
    let sync := s.rd pg F.CSI_STATUS_LANE_SYNC
    let s := s.wr pg F.CSI_STATUS_LANE_SYNC (if bitOf sync lane then sync - 2 ^ lane else sync)
    camFault n 1 (irq pg 1 (s.bump pg F.CSI_COUNTS_LANE_ERR))

/-- CSI_LANE_FAULT (R611): a data lane loses synchronisation; the lane count never changes. -/
def execCsiLaneFault (n lane : Nat) (s : State) : Host.Outcome State Fault Refusal :=
  liveP s (csiLaneFaultEffect n lane)

/-- CSI_CLOCK_LANE_CHANGE (R631): the clock lane starts or stops. -/
def execCsiClockLaneChange (n : Nat) (on : Bool) (s : State) : Host.Outcome State Fault Refusal :=
  live s fun s => s.wr (pgCSI n) F.CSI_STATUS_CLK_ACTIVE (b2n on)

/-! The pipeline's steps (R612, R617, R620). -/

/-- Whether the requester of a pipeline may touch bytes of this chip's HBM (Table 12.5). -/
def ispMayHbm (s : State) (n o len : Nat) : Bool :=
  let req := s.owner (pgISP n)
  decide (o + len ≤ hbmSize) && (req = mgmt || granulesOk s req o len)

/-- Row y of the frame after stages 2 and 3; its reference is read from and written to HBM (R613, R614, R691). -/
def nrRow (n y : Nat) (f : CamFrame) (s : State) : List Int × State :=
  let c := f.cfg
  let w := camW s n
  let bits := rawBits (csiNow s n F.CSI_CFG_DT)
  let h := camH s n
  let rows := (List.range 5).foldl (fun (a : List (Nat × List Int) × State) (k : Nat) =>
    let q := mirror h ((y : Int) + k - 2)
    if a.1.any (fun e => e.1 = q) then a
    else
      let r := rawRow c bits (f.lines.getD q []) a.2
      (a.1 ++ [(q, r.1)], r.2)) ([], s)
  let s := rows.2
  let at_ := fun x q => (((rows.1.find? fun e => e.1 = q).map (·.2)).getD []).getD x 0
  let row := (List.range w).map fun x => snr c w h at_ x y
  let o := gaOff (cf64 c F.ISP_TNR_BASE_LO_TNR_BASE F.ISP_TNR_BASE_HI_TNR_BASE) + y * w * 2
  if cf c F.ISP_CFG_TNR_EN = 0 then (row, s)
  else if !ispMayHbm s n o (2 * w) then (row, denyCount (s.owner (pgISP n)) s.chipNum 1 o s)
  else
    let l := s.free 5
    let r := if f.tnrReset then (row, l.2) else
      let s := eccRead l.1 o (2 * w) l.2
      let bs := s.hbmRead o (2 * w)
      let bad := (blocks256 o (2 * w)).filter fun b => s.hbmPoisoned (max b o) (min (b + 256) (o + 2 * w) - max b o)
      let row := (List.range w).map fun x =>
        if s.hbmPoisoned (o + 2 * x) 2 then row.getD x 0
        else tnr c (row.getD x 0) (unsignedValue 16 (fieldOf bs (2 * x) 2))
      (row, bad.foldl (fun s _ => poisonSeen F.ERR_POISON_B_CAMERA s) s)
    (r.1, eccWriteHbm l.1 o (r.1.flatMap fun v => leBytes 2 (toUnsigned 16 v)) r.2)

/-- Row y of the frame after stages 4 to 6, with its statistics. A MONO sample takes one of the gains, which of them being
free. -/
def tonedRow (n y : Nat) (f : CamFrame) (s : State) : CamFrame × State :=
  let c := f.cfg
  let w := camW s n
  let h := camH s n
  let cfa := cf c F.ISP_CFG_CFA
  let g := s.free 2
  let s := if cfa = 4 then g.2 else s
  let at_ := fun x q => balance c (if cfa = 4 then g.1 else cfaAt cfa x q) ((f.nr.getD q []).getD x 0)
  let d := (List.range w).map fun x => demosaic cfa w h at_ x y
  let t := d.map fun p => toned c p
  (rowStats w h y d t { f with toned := f.toned ++ [t] }, s)

/-- The writes of the output rows whose last input row is y. -/
def outputsAt (n y : Nat) (f : CamFrame) (s : State) : State :=
  (List.range 3).foldl (fun s o =>
    if !cfEn f.cfg o || f.failed.contains o then s
    else
      let b := f.seq % (max 1 (cf f.cfg F.ISP_CTRL_NBUF 0 o))
      let base := cfBase f.cfg o + b * cf f.cfg F.ISP_BUF_STEP_BYTES 0 o
      ((List.range (outRows f.cfg o)).filter fun j => lastNeed f.cfg o j = y).foldl (fun s j =>
        (if o = 2 then visRow f j else outRow f o j).foldl (fun s p => camWrite n f.seq o 1 (base + p.1) p.2 s) s) s) s

/-- The statistics block of a frame (R624). -/
def statsWrite (n : Nat) (f : CamFrame) (s : State) : State :=
  let a := cf64 f.cfg F.ISP_STATS_ADDR_LO_STATS_ADDR F.ISP_STATS_ADDR_HI_STATS_ADDR
  if a = 0 then s else camWrite n f.seq 3 2 (a + f.seq % 2 * 4096) ((f.zones ++ f.hist).flatMap (leBytes 4)) s

/-- One step of the pipeline on a frame: line d enters; row d - 3 leaves noise reduction, row d - 5 colour and tone, and the
output rows that end with row d - 6 are written: six held lines (R612). -/
def camStep (n : Nat) (f : CamFrame) (s : State) : State :=
  let d := f.done
  let h := camH s n
  let a := if 3 ≤ d && decide (d - 3 < h) then let r := nrRow n (d - 3) f s; ({ f with nr := f.nr ++ [r.1] }, r.2) else (f, s)
  let a := if 5 ≤ d && decide (d - 5 < h) then tonedRow n (d - 5) a.1 a.2 else a
  let f := { a.1 with done := d + 1 }
  let s := modFrame n f.seq (fun _ => f) a.2
  let s := if 6 ≤ d then outputsAt n (d - 6) f s else s
  if d + 1 = h + 6 then statsWrite n f s else s

/-- The frame the pipeline works on: the oldest that is not CORRUPT. -/
def working (s : State) (n : Nat) : Option CamFrame := (s.cam n).frames.find? fun f => f.cause = 0

/-- ISP_LINE_PROCESSED (R617): the pipeline finishes a step: the next line has been received whole, or the frame has ended and
a held line advances. -/
def execIspLineProcessed (n : Nat) (s : State) : Host.Outcome State Fault Refusal :=
  liveP s fun s =>
    if !csiOn s n then s
    else
      match working s n with
      | none => s
      | some f => if f.done < camH s n + 6 && (decide (f.done < f.lines.length) || f.ended) then camStep n f s else s

/-! The record and the signals (R620-R623). -/

/-- CFG.CORRUPT_SIG lets a CORRUPT frame signal. -/
def sigWithheld (f : CamFrame) : Bool := f.cause ≠ 0 && cf f.cfg F.ISP_CFG_CORRUPT_SIG = 0

/-- FLAGS of the record (Table 21.4). -/
def recFlags (f : CamFrame) : Nat :=
  b2n (f.cause ≠ 0) + 2 * b2n (f.cause = 7) + 4 * b2n f.writeErr + 8 * b2n f.tnrReset + 16 * b2n f.embTrunc + 32 * b2n (sigWithheld f)

/-- The buffer index of the record: that of the first enabled output. -/
def recBuf (f : CamFrame) : Nat :=
  match (List.range 3).find? fun o => cfEn f.cfg o with
  | none => 0
  | some o => f.seq % (max 1 (cf f.cfg F.ISP_CTRL_NBUF 0 o))

/-- The 32 bytes of the record (Table 21.4). -/
def recBytes (f : CamFrame) : List Byte :=
  leBytes 4 f.seq ++ leBytes 2 f.num ++ leBytes 2 (recFlags f) ++ leBytes 8 f.fs ++ leBytes 8 f.fe
    ++ leBytes 2 f.lines.length ++ leBytes 1 (recBuf f) ++ leBytes 1 f.cause ++ leBytes 4 0

/-- The effect of ISP_FRAME_WRITES_COMPLETE out of reset (R620, R622). -/
def ispFrameWritesCompleteEffect (n : Nat) (s : State) : State :=
  match (s.cam n).frames.head? with
  | none => s
  | some f =>
    let ready := f.ended && (decide (f.cause ≠ 0) || f.done = camH s n + 6)
    if !csiOn s n || !ready || f.recSent || camBusy s n f.seq then s
    else
      let a := cf64 f.cfg F.ISP_RECORD_ADDR_LO_RECORD_ADDR F.ISP_RECORD_ADDR_HI_RECORD_ADDR
      let s := modFrame n f.seq (fun f => { f with recSent := true }) s
      if a = 0 then s else camWrite n f.seq 3 4 (a + f.seq % 16 * 32) (recBytes f) s

/-- ISP_FRAME_WRITES_COMPLETE (R620, R622): every write of the oldest frame has completed, and its record is written. -/
def execIspFrameWritesComplete (n : Nat) (s : State) : Host.Outcome State Fault Refusal :=
  liveP s (ispFrameWritesCompleteEffect n)

/-- The signal of one output (R621). -/
def camSignal (n o : Nat) (f : CamFrame) (s : State) : State :=
  let d := cf64 f.cfg F.ISP_SIGNAL_LO_DESC F.ISP_SIGNAL_HI_DESC o
  let a : Ask :=
    { ep := epISP n 3, req := s.owner (pgISP n), dst := dCHIP d, offset := sramBase + dTILE d * 0x40000 + 4 * dCTR d, op := opCSIG,
      words := 1, data := leBytes 4 (dVALUE d), tc := cf f.cfg F.ISP_CFG_TC, ordered := false, use := 5, arg := f.seq, arg2 := o }
  send (if dKIND d then { a with op := opATOMIC 10, offset := fenceOff (dTILE d), data := leBytes 4 (dVALUE d + f.seq) } else a) s

/-- The effect of ISP_RECORD_COMPLETE out of reset (R620-R623, R627). -/
def ispRecordCompleteEffect (n : Nat) (s : State) : State :=
  match (s.cam n).frames.head? with
  | none => s
  | some f =>
    if !csiOn s n || !f.recSent || camBusy s n f.seq then s
    else
      let pg := pgISP n
      let s := s.wr pg F.ISP_LAST_FLAGS_FLAGS (recFlags f)
      let s := s.wr64 pg F.ISP_DONE_MET_LO_MET F.ISP_DONE_MET_HI_MET s.met
      let s := if f.recBad || sigWithheld f then s
        else (List.range 3).foldl (fun s o =>
          if cfEn f.cfg o && cf f.cfg F.ISP_CTRL_SIG_EN 0 o = 1 && !f.failed.contains o then camSignal n o f s else s) s
      let s := if f.cause = 0 then irq pg 1 s else s
      ispSync n (s.modCam n fun x => { x with frames := x.frames.drop 1 })

/-- ISP_RECORD_COMPLETE (R620-R623, R627): the record of the oldest frame is written, and the signals go out; the frame is
finished. -/
def execIspRecordComplete (n : Nat) (s : State) : Host.Outcome State Fault Refusal :=
  liveP s (ispRecordCompleteEffect n)

/-- A write fails with a status, or a free one for a timeout (R623). -/
def camWriteFail (n o dst : Nat) (st : Option Nat) (s : State) : State :=
  let v := match st with | some v => (v, s) | none => s.free 32
  let s := irq (pgISP n) 4 (v.2.bump (pgISP n) F.ISP_COUNTS2_WRITE_ERR)
  logEv (pgISP n) 0x2A05 s o v.1 dst

/-- The failure of an access of a pipeline by its use: an output ends for the frame, the record's frame sends no signal, a
signal counts. -/
def camFail (n use seq o dst : Nat) (st : Option Nat) (s : State) : State :=
  let f := (s.cam n).frames.find? fun f => f.seq = seq
  match use with
  | 1 =>
    if (f.map fun f => f.failed.contains o).getD true then s
    else
      let s := modFrame n seq (fun f => { f with writeErr := true, failed := o :: f.failed }) s
      camWriteFail n o dst st (s.modCam n fun x => { x with wq := x.wq.filter fun e => !(e.seq = seq && e.out = o) })
  | 4 => camWriteFail n 3 dst st (modFrame n seq (fun f => { f with recBad := true }) s)
  | 5 =>
    let s := irq (pgISP n) 5 (s.bump (pgISP n) F.ISP_COUNTS2_SIG_ERR)
    raiseEv (pgISP n) 0x3A06 (s.owner (pgISP n)) s
  | _ => s

/-- The response to an access of pipeline n (R620, R623); a drained pipeline reaches OFF with its last one. -/
def camResult (n use seq o dst : Nat) (r : Res) (s : State) : State :=
  let s := match r with
    | .err st => camFail n use seq o dst (some st) s
    | .timeout => camFail n use seq o dst none s
    | _ => s
  if (s.cam n).stop then (if ispFlying s n = 0 then ispOff n s else s) else camPump n 256 s

/-! CAM_TRIG (R626) and the counters. -/

/-- The Metronome stands at an instant of the trigger (R626, R712). -/
def trigMet (s : State) (n : Nat) : Bool :=
  let pg := pgISP n
  let p := s.rd pg F.ISP_TRIG_PERIOD_PERIOD
  let t0 : Nat := s.rd64 pg F.ISP_TRIG_T0_LO_MET F.ISP_TRIG_T0_HI_MET + s.rd pg F.ISP_TRIG_OFFSET_NS
  let d := (((s.met : Int) - t0) * 64 % p).toNat
  if p = 0 then s.met = t0 else decide (d ≤ 32) || decide (p ≤ d + 32)

/-- CAM_TRIG_RISE (R626): a scheduled instant raises the pin, in FORTE and MEZZO. For source HEAD the instant is one of a head
that is not OFF. -/
def execCamTrigRise (n : Nat) (s : State) : Host.Outcome State Fault Refusal :=
  live s fun s =>
    let src := s.rd (pgISP n) F.ISP_TRIG_SRC
    let ok := (src = 1 && trigMet s n) || (src = 2 && scanning s (s.rd (pgISP n) F.ISP_TRIG_HEAD))
    if ok && s.done && decide (s.ladder < 2) then s.modCam n fun x => { x with trig := true, trigAt := s.ticks } else s

/-- CAM_TRIG_FALL (R626): the pin falls WIDTH_US after its rise, or at half the interval when that is shorter. -/
def execCamTrigFall (n : Nat) (s : State) : Host.Outcome State Fault Refusal :=
  live s fun s => s.modCam n fun x => { x with trig := false }

/-- CSI_CNT_CLR (R631): a write of CNT_CLR. -/
def csiCntClr (n v : Nat) (s : State) : State :=
  if bitOf v 0 then (s.setWord (pgCSI n + 0x114) 0).setWord (pgCSI n + 0x118) 0 else s

def execCsiCntClr (req n : Nat) (v : Word) (s : State) : Host.Outcome State Fault Refusal :=
  live s (regWrite req (pgCSI n + 0x128) (csiCntClr n v.toNat))

/-- ISP_CNT_CLR (R632): a write of CNT_CLR. -/
def ispCntClr (n v : Nat) (s : State) : State :=
  if bitOf v 0 then (s.setWord (pgISP n + 0x120) 0).setWord (pgISP n + 0x124) 0 else s

def execIspCntClr (req n : Nat) (v : Word) (s : State) : Host.Outcome State Fault Refusal :=
  live s (regWrite req (pgISP n + 0x128) (ispCntClr n v.toNat))

end Sys2Proof.Machine
end

