-- ==== Sys2Proof/Machine/Route.lean ====
section
/-! DEFINITION. Routing (15 R431-R440), the egress queues as packets enter them (14 R398, R399, R407), the RTE page and
the routing table window (15 R445-R451), and the TSP counters. -/
namespace Sys2Proof.Machine
open Sys2Proof

/-! Choosing the port (R431-R438). -/

/-- The base of the table a packet uses (R431): its slice's active context, else the active transit table. -/
def tableBase (s : State) (p : Packet) : Option Nat :=
  match (List.range 32).find? fun c =>
    s.flag pgRTE F.RTE_CTX_ALLOCATED c && s.flag pgRTE F.RTE_CTX_ACTIVE c && s.rd pgRTE F.RTE_CTX_SLICE c == p.slice with
  | some c => some (ctxBase c)
  | none => if s.flag pgRTE F.RTE_TRANSIT_ACTIVE then some 0x140000 else none

/-- The window offset of the entry for a destination in a table (R432). -/
def entryAddr (s : State) (base dst : Nat) : Nat :=
  if dst / 32 = s.chipNum / 32 then base + 0x400 + 4 * (dst % 32) else base + 4 * (dst / 32)

/-- A port number of an entry; outside 0-23 it reads as 31 (R432). -/
def entryPort (w lo : Nat) : Nat := let p := getBits w lo 5; if p < 24 then p else 31

/-- A port is usable for a class (R435). -/
def portUsable (s : State) (g c : Nat) : Bool :=
  decide (g < 24) && portUp s g &&
  (c = 7 || (!s.flag (pgLX (g / 4)) F.LX_PSTATUS_TC7_ONLY 0 (g % 4) && !planMismatch s g)) && !(s.port g).settling

/-- SECOND is less loaded than PRIMARY: O_S × A_P < O_P × A_S (R436). -/
def secondLighter (s : State) (a b c : Nat) : Bool :=
  decide (queuedFlits s b c * s.rd (pgLX (a / 4)) F.LX_PSTATUS_TX_LANES 0 (a % 4)
    < queuedFlits s a c * s.rd (pgLX (b / 4)) F.LX_PSTATUS_TX_LANES 0 (b % 4))

/-- How a choice ends. -/
inductive Choice where
  /-- A port, with FLAGS.DETOUR to set. -/
  | port (g : Nat) (detour : Bool)
  /-- No route; the packet was detoured already and the entry names an alternate. -/
  | detourDrop (entry : Nat)
  /-- No route. -/
  | noRoute (entry : Nat)
  deriving DecidableEq, Repr

/-- The port for a packet (R436), and the state with the alternation of ROTATE moved on. -/
def choosePort (p : Packet) (s : State) : Choice × State :=
  match tableBase s p with
  | none => (.noRoute 0, s)
  | some base =>
    let a := entryAddr s base p.dst
    let w := (s.word a).toNat
    if !bitOf w 15 then (.noRoute w, s)
    else
      let pr := entryPort w 0
      let se := entryPort w 5
      let al := entryPort w 10
      let up := portUsable s pr p.tc
      let us := portUsable s se p.tc
      if up && us then
        match s.rd pgRTE F.RTE_SPREAD_MODE with
        | 0 => (.port (if secondLighter s pr se p.tc then se else pr) false, s)
        | 1 =>
          let k := 2 * a + p.tc
          let b := fget (fun _ => false) s.rotate k
          (.port (if b then se else pr) false, { s with rotate := fset (fun _ => false) s.rotate k (!b) })
        | _ => (.port pr false, s)
      else if up then (.port pr false, s)
      else if us then (.port se false, s)
      else if s.flag pgRTE F.RTE_CFG_SLALOM_EN && portUsable s al p.tc && !p.detour then (.port al true, s)
      else if p.detour && s.flag pgRTE F.RTE_DETOUR_REDETOUR && portUsable s al p.tc then (.port al false, s)
      else if p.detour && al ≠ 31 then (.detourDrop w, s)
      else (.noRoute w, s)

/-- The MGC relays a TC7 packet along the control tree (16 R456): on the port its destination's JOIN arrived on, or on the
parent port; with neither it is dropped and counted. A JOIN it relays shows the way back to its sender. -/
def mgcRelay (p : Packet) (s : State) : State :=
  let s := if p.op = 0x35 && decide (p.port < 24) then { s with joinPort := fset (fun _ => 0) s.joinPort p.src (p.port + 1) } else s
  let j := fget (fun _ => 0) s.joinPort p.dst
  let up := s.flag pgFAB F.FAB_CONDUCTOR_VALID && s.rd pgFAB F.FAB_CONDUCTOR_CHIP == p.dst
  let g := if 0 < j && !up then some (j - 1) else s.parent
  match g with
  | none => s.bump pgFAB F.FAB_COUNTS_RELAY_DROPS
  | some g => egressPush g { p with port := g } s

/-- A packet without a route (R440). -/
def noRoute (p : Packet) (entry : Nat) (s : State) : State :=
  if p.tc = 7 then mgcRelay p s
  else
    let fst := s.rd pgRTE F.RTE_NO_ROUTE_COUNT = 0
    let s := irq pgRTE 0 (s.bump pgRTE F.RTE_NO_ROUTE_COUNT)
    if fst then logEv pgRTE 0x2642 s entry p.dst else s

/-- A detoured packet meets a second failure (R436 step 5). -/
def detourDrop (s : State) : State :=
  let fst := s.rd pgRTE F.RTE_DETOUR_DROPS_COUNT = 0
  let s := irq pgRTE 1 (s.bump pgRTE F.RTE_DETOUR_DROPS_COUNT)
  if fst then logEv pgRTE 0x2641 s else s

/-- A packet takes its alternate port (R436 step 3). -/
def countDetour (g dst : Nat) (s : State) : State :=
  let fst := s.rd pgRTE F.RTE_DETOURS_COUNT = 0
  let s := irq pgRTE 3 (s.bump pgRTE F.RTE_DETOURS_COUNT)
  if fst then logEv pgRTE 0x1640 s g dst else s

/-- A marked request meets a class queue filled to MARK_THRESH per cent of its depth (R407). -/
def markDrops (s : State) (g : Nat) (p : Packet) : Bool :=
  p.mark && !isResponse p && decide (p.tc < 6) &&
  decide (s.rd (pgTSP (g / 4)) F.TSP_PORT_CFG_MARK_THRESH 0 (g % 4) * qDepth s g p.tc
    ≤ 100 * (classQueue s g p.tc).length)

/-- A packet enters the egress queue of a port (R398, R407). -/
def enterQueue (g : Nat) (p : Packet) (s : State) : State :=
  if markDrops s g p then
    let fst := s.rd (pgTSP (g / 4)) F.TSP_MARK_DROPS_COUNT 0 (g % 4) = 0
    let s := irq (pgTSP (g / 4)) 1 (s.bump (pgTSP (g / 4)) F.TSP_MARK_DROPS_COUNT 1 0 (g % 4))
    if fst then logEv (pgTSP (g / 4)) 0x0511 s (g % 4) p.tc else s
  else egressPush g p s

/-- Chooses a port for a packet that leaves the chip and queues it there. -/
def route (p : Packet) (s : State) : State :=
  let (c, s) := choosePort p s
  match c with
  | .port g true => enterQueue g { p with detour := true } (countDetour g p.dst s)
  | .port g false => enterQueue g p s
  | .detourDrop w => noRoute p w (detourDrop s)
  | .noRoute w => noRoute p w s

/-- The packets queued on a port and waiting for its queues choose again, class by class and in order (R382, R437); the
packets of the link agents and the flooded ones, which name no destination, end with the port. -/
def slalom (g : Nat) (s : State) : State :=
  (List.range 8).foldl (fun s c =>
    let k := 8 * g + c
    let l := classQueue s g c ++ fget (fun _ => []) s.stall k
    let s := syncOcc g { s with egress := fset (fun _ => []) s.egress k [], stall := fset (fun _ => []) s.stall k [] }
    l.foldl (fun s p => if p.dst = 0x1FFF then s else route p s) s) s

/-- EGRESS_ENQUEUE (R398): the packet at position k of the Rink leaves the chip: it is routed to a port and enters its class
queue there, or waits for a slot. -/
def execEgressEnqueue (k : Nat) (s : State) : Host.Outcome State Fault Refusal :=
  liveP s fun s =>
    match s.rink[k]? with
    | none => s
    | some p => if p.dst = s.chipNum then s else route p { s with rink := s.rink.eraseIdx k }

/-- LINK_SCHEDULER_PICK (R400): the choice at a packet boundary of an ACTIVE port. -/
def execLinkSchedulerPick (g : Nat) (s : State) : Host.Outcome State Fault Refusal :=
  live s fun s => if portState s g = 3 then schedule g s else s

/-- The words of a port's TSP counters that PCLEAR zeroes: +0x1C to +0x34 (Table 14.3). -/
def tspCounterWords (n j : Nat) : List Nat := (List.range 7).map fun i => pgTSP n + 0x140 + 0x40 * j + 0x1C + 4 * i

/-- A write of TSP.CLEAR. -/
def tspClearWrite (n v : Nat) (s : State) : State :=
    if bitOf v 0 then s.zeroWords ((List.range 4).flatMap (tspCounterWords n)) else s

/-- TSP_CLEAR (R410). -/
def execTspClear (req n : Nat) (v : Word) (s : State) : Host.Outcome State Fault Refusal :=
  live s (regWrite req (pgTSP n + 0x100) (tspClearWrite n v.toNat))

/-- A write of PCLEAR of port j of a TSP page. -/
def tspPclearWrite (n j v : Nat) (s : State) : State :=
    if bitOf v 0 then s.zeroWords (tspCounterWords n j) else s

/-- TSP_PCLEAR (R410). -/
def execTspPclear (req n j : Nat) (v : Word) (s : State) : Host.Outcome State Fault Refusal :=
  live s (regWrite req (pgTSP n + 0x178 + 0x40 * j) (tspPclearWrite n j v.toNat))

/-! The topology check after the boot (R134, R429). -/

/-- Runs the check again; after it has finalised, a change of TOPO_PORT or TOPO_STATUS sets TOPO_CHANGED (R134). -/
def topoRecheck (s : State) : State :=
  let t := topoCheck s
  let w (x : State) : List Word := (List.range 24).map (fun g => x.word (pgCHIP + 0x1C0 + 4 * g)) ++ [x.word (pgCHIP + 0x1A0)]
  if s.chip.topoFinal && !decide (w s = w t) then irq pgCHIP 3 t else t

/-- A write of ZPEER[z]. -/
def zpeerWrite (req z v : Nat) (s : State) : State :=
    topoRecheck (storePlain req (pgRTE + 0x300 + 4 * z) (0x300 + 4 * z) v s)

/-- RTE_ZPEER_WRITE (R429). -/
def execRteZpeerWrite (req z : Nat) (v : Word) (s : State) : Host.Outcome State Fault Refusal :=
  live s (regWrite req (pgRTE + 0x300 + 4 * z) (zpeerWrite req z v.toNat))

/-! The routing table window (R445-R448). -/

/-- What a window offset of the routing table window holds (Table 15.8). -/
inductive RteCell where
  /-- An entry of a context's table or of the transit table. -/
  | entry
  /-- Reach word of context c. -/
  | reach (c : Nat)
  /-- Unmapped. -/
  | hole
  deriving DecidableEq, Repr

/-- The cell at a window offset (Table 15.8). -/
def rteCell (a : Nat) : RteCell :=
  if 0x100000 ≤ a && decide (a < 0x140000) then
    let o := (a - 0x100000) % 0x2000
    if o < 0x480 then .entry
    else if 0x800 ≤ o && decide (o < 0xC00) then .reach ((a - 0x100000) / 0x2000)
    else .hole
  else if 0x140000 ≤ a && decide (a < 0x140480) then .entry
  else .hole

/-- A window offset lies in the routing table window. -/
def inRteWindow (a : Nat) : Bool := decide (0x100000 ≤ a) && decide (a < 0x200000)

/-- Ones of a number of 32 bits. -/
def ones (w : Nat) : Nat := ((List.range 32).filter (bitOf w)).length

/-- Ones of a context's reach mask. -/
def reachCount (s : State) (c : Nat) : Nat :=
  (List.range 256).foldl (fun n i => n + ones (s.word (ctxBase c + 0x800 + 4 * i)).toNat) 0

/-- RTE.PAGE_CAPS.SCALE (R434). -/
def scaleOk (s : State) : Bool := bitOf (s.word (pgRTE + 4)).toNat 1

/-- A refused access to RTE (R434, R447). -/
def rteRefuse (req off : Nat) (s : State) : State := pageFault pgRTE causeRefused req true off s

/-- A write of a word of the window (R434, R445, R446). -/
def rteTableWrite (req a : Nat) (v : Word) (s : State) : State :=
  if !s.done then s
  else
    match rteCell a with
    | .hole => unmapped req s.chipNum (winBase + a) s
    | .entry => if req ≠ mgmt then s.bump pgRTE F.RTE_WIN_FAULTS_COUNT else s.setWord a v
    | .reach c =>
      if req ≠ mgmt then s.bump pgRTE F.RTE_WIN_FAULTS_COUNT else
      let n := reachCount s c - ones (s.word a).toNat + ones v.toNat
      if s.flag pgRTE F.RTE_CTX_ACTIVE c && !scaleOk s && decide (32 < n) && decide (reachCount s c < n) then
        rteRefuse req (a % 0x1000) s
      else (s.setWord a v).wr pgRTE F.RTE_CTX_REACH_COUNT n c

/-- RTE_TABLE_WRITE (R446). -/
def execRteTableWrite (req a : Nat) (v : Word) (s : State) : Host.Outcome State Fault Refusal :=
  live s fun s => if inRteWindow a then rteTableWrite req a v s else s

/-- STATUS.ALLOCATED and ACTIVE count the contexts. -/
def rteSync (s : State) : State :=
  let s := s.wr pgRTE F.RTE_STATUS_ALLOCATED ((List.range 32).filter fun c => s.flag pgRTE F.RTE_CTX_ALLOCATED c).length
  s.wr pgRTE F.RTE_STATUS_ACTIVE ((List.range 32).filter fun c => s.flag pgRTE F.RTE_CTX_ACTIVE c).length

/-- The window offsets of a context's tables and reach mask. -/
def ctxWords (c : Nat) : List Nat :=
  (List.range 0x120).map (fun i => ctxBase c + 4 * i) ++ (List.range 0x100).map (fun i => ctxBase c + 0x800 + 4 * i)

/-- A write of CTX_ALLOC (R447, R448). -/
def ctxAlloc (req v : Nat) (s : State) : State :=
  let sl := v % 2 ^ 12
  let refuse (s : State) : State :=
    rteRefuse req 0x108 (irq pgRTE 2 (s.bump pgRTE F.RTE_ALLOC_STATS_REFUSED))
  if bitOf v 16 then
    match ctxOfSlice s sl with
    | none => s
    | some c =>
      if s.flag pgRTE F.RTE_CTX_BOUND c then rteRefuse req 0x108 s
      else rteSync ((s.setWord (pgRTE + 0x120 + 4 * c) 0).zeroWords (ctxWords c))
  else if sl = 0xFFF then refuse s
  else if (ctxOfSlice s sl).isSome then s.bump pgRTE F.RTE_ALLOC_STATS_GRANTED
  else
    match (List.range 32).find? fun c => !s.flag pgRTE F.RTE_CTX_ALLOCATED c with
    | none => refuse s
    | some c =>
      let s := (s.setWord (pgRTE + 0x120 + 4 * c) 0).zeroWords (ctxWords c)
      let s := (s.wr pgRTE F.RTE_CTX_SLICE sl c).wr pgRTE F.RTE_CTX_ALLOCATED 1 c
      rteSync (s.bump pgRTE F.RTE_ALLOC_STATS_GRANTED)

/-- RTE_CTX_ALLOC (R447). -/
def execRteCtxAlloc (req : Nat) (v : Word) (s : State) : Host.Outcome State Fault Refusal :=
  live s (regWrite req (pgRTE + 0x108) (ctxAlloc req v.toNat))

/-- RTE_CTX_FREE (R448). -/
def execRteCtxFree (req : Nat) (v : Word) (s : State) : Host.Outcome State Fault Refusal :=
  live s (regWrite req (pgRTE + 0x108) (ctxAlloc req v.toNat))

/-- A write of CTX[c].ACTIVE: only while ALLOCATED, and refused above 32 chips without SCALE (R434). -/
def ctxActive (req c v : Nat) (s : State) : State :=
  if !s.flag pgRTE F.RTE_CTX_ALLOCATED c then s
  else if bitOf v 13 && !scaleOk s && decide (32 < reachCount s c) then rteRefuse req (0x120 + 4 * c) s
  else rteSync (s.wr pgRTE F.RTE_CTX_ACTIVE (b2n (bitOf v 13)) c)

/-- RTE_CTX_ACTIVE_WRITE (R434). -/
def execRteCtxActiveWrite (req c : Nat) (v : Word) (s : State) : Host.Outcome State Fault Refusal :=
  live s (regWrite req (pgRTE + 0x120 + 4 * c) (ctxActive req c v.toNat))

/-- A write of RTE.CNT_CLR. -/
def rteCntClr (v : Nat) (s : State) : State :=
    if bitOf v 0 then s.zeroWords ((List.range 8).map fun i => pgRTE + 0x1A0 + 4 * i) else s

/-- RTE_CNT_CLR (R449): zeroes 0x1A0-0x1BC. -/
def execRteCntClr (req : Nat) (v : Word) (s : State) : Host.Outcome State Fault Refusal :=
  live s (regWrite req (pgRTE + 0x1C0) (rteCntClr v.toNat))

end Sys2Proof.Machine
end

