-- ==== Sys2Proof/Machine/FabMsg.lean ====
section
/-! DEFINITION. Sending fabric messages to a chip, and the reports a chip makes (16 R454-R456, R469, R475). -/
namespace Sys2Proof.Machine
open Sys2Proof

/-- Sends a message to a chip by the tables or the control tree (R456). -/
def fabSend (dst : Nat) (b : FabBody) (s : State) : State :=
  let s := fabNote dst b s
  route (fabPacket s dst (fabOp b) (fabHeader s.term s.fabSeq (ownKey s) (fabGroup b))) s

/-- The section leader of this chip's group, if one stands. -/
def sectionLeader (s : State) : Option Nat :=
  if s.flag pgFAB F.FAB_SECTION_VALID then some (s.rd pgFAB F.FAB_SECTION_LEADER) else none

/-- The conductor recorded. -/
def conductorOf (s : State) : Option Nat :=
  if s.flag pgFAB F.FAB_CONDUCTOR_VALID then some (s.rd pgFAB F.FAB_CONDUCTOR_CHIP) else none

/-- The MGC sends an EVENT of a port to its section leader and, for Z ports, to the conductor as well; without a section
leader to the conductor alone (R462, R475). The fabric manager runs from DONE on. -/
def fabPortEvent (e : FabEvent) (g : Nat) (s : State) : State :=
  if !s.done then s
  else
    let dests : List Nat :=
      match sectionLeader s, conductorOf s with
      | none, none => []
      | none, some c => [c]
      | some l, none => [l]
      | some l, some c => if 16 ≤ g && l ≠ c then [l, c] else [l]
    dests.foldl (fun s d => if d = s.chipNum then s else fabSend d (.event e) s) s

/-- Sends a message to a chip; one to this chip itself is handled within the command. -/
def fabTell (dst : Nat) (b : FabBody) (s : State) : State :=
  if dst = s.chipNum then s.modFab fun x => { x with mail := x.mail ++ [b] } else fabSend dst b s

/-- Reports the completion of a step to the conductor (R469). -/
def fabReport (step : Nat) (s : State) : State :=
  match conductorOf s with
  | none => s
  | some c => fabTell c (.event (.stepDone step)) s

/-- A port under an order to retrain has come up (step 5). -/
def fabRetrained (g : Nat) (s : State) : State :=
  if s.fab.retr.contains g then fabReport 5 (s.modFab fun x => { x with retr := x.retr.erase g }) else s

/-- Orders to drain whose partitions have all become FREE are reported (step 2). -/
def fabDrained (s : State) : State :=
  let free (p : Nat) : Bool := decide (s.rd pgPART F.PART_P_STATE_STATE p = 0)
  let done := s.fab.drains.filter fun l => l.all free
  let s := s.modFab fun x => { x with drains := x.drains.filter fun l => !l.all free }
  done.foldl (fun s _ => fabReport 2 s) s

end Sys2Proof.Machine
end

