-- ==== Sys2Proof/Machine/FabRoute.lean ====
section
/-! DEFINITION. The circuits, and the routes the fabric manager computes (15 R418-R420, R441, R442, Table 15.5; 16 R475,
R479). -/
namespace Sys2Proof.Machine
open Sys2Proof

/-! Circuits. -/

/-- The groups that the plan marks PRESENT. -/
def presentGroups (p : Plan) : List Nat := (List.range 256).filter fun g => bitOf (grp p g) 0

/-- The Z port, as chip and index, that the plan cables to a switch port (R418, R426). -/
def holderOf (p : Plan) (sw q : Nat) : Option (Nat × Nat) :=
  match p.excs.find? fun x => exKind x = 2 && x.2 % 256 = sw && getBits x.2 8 8 = q with
  | some x => some (exChip x, exPort x - 16)
  | none =>
    let c := 32 * q + sw / 8
    if listed p c && switchOf p c (sw % 8) == some (sw, q) then some (c, sw % 8) else none

/-- The standard traverse set (R420): each pair of present groups through the switch g XOR h. -/
def stdCircuits (p : Plan) : List (Nat × Nat × Nat) :=
  (presentGroups p).flatMap fun g => ((presentGroups p).filter (g < ·)).map fun h => (g ^^^ h, g, h)

/-- The circuits as the conductor knows them. -/
def circuitsOf (s : State) (p : Plan) : List (Nat × Nat × Nat) := s.fab.circuits.getD (stdCircuits p)

/-- Applies an entry of a datagram: connect or disconnect two ports of a switch. -/
def circuitApply (sw : Nat) (cs : List (Nat × Nat × Nat)) (e : Nat × Nat × Bool) : List (Nat × Nat × Nat) :=
  let c := (sw, min e.1 e.2.1, max e.1 e.2.1)
  if e.2.2 then (if cs.contains c then cs else cs ++ [c]) else cs.filter (· ≠ c)

/-- The partner of Z port z of a chip under a set of circuits, as chip and port. -/
def zPartner (p : Plan) (cs : List (Nat × Nat × Nat)) (c z : Nat) : Option (Nat × Nat) :=
  match p.excs.find? fun x => exChip x = c && exPort x = 16 + z && exKind x = 1 with
  | some x => some (x.2 % 2 ^ 13, getBits x.2 13 5)
  | none =>
    match switchOf p c z with
    | none => none
    | some (sw, q) =>
      match cs.find? fun k => k.1 = sw && (k.2.1 = q || k.2.2 = q) with
      | none => none
      | some k => (holderOf p sw (if k.2.1 = q then k.2.2 else k.2.1)).map fun x => (x.1, 16 + x.2)

/-! The machine as the fabric manager sees it. -/

/-- What the routes are computed over: the plan, the circuits, the ports reported down, and the chips to avoid. -/
structure Net where
  plan : Plan
  cs : List (Nat × Nat × Nat)
  down : List (Nat × Nat)
  avoid : List Nat
  deriving DecidableEq, Repr

/-- The partner of a port of any chip. -/
def Net.partner (n : Net) (s : State) (c g : Nat) : Option (Nat × Nat) :=
  if g < 16 then planPartner s n.plan c g else zPartner n.plan n.cs c (g - 16)

/-- The same, while neither end is reported down. -/
def Net.link (n : Net) (s : State) (c g : Nat) : Option (Nat × Nat) :=
  match n.partner s c g with
  | none => none
  | some x => if n.down.contains (c, g) || n.down.contains x then none else some x

/-- The neighbours of a chip in its group, as port and chip, by rising port. -/
def Net.nbrs (n : Net) (s : State) (c : Nat) : List (Nat × Nat) :=
  (List.range 16).filterMap fun g =>
    match n.link s c g with
    | some (d, _) => if d / 32 = c / 32 then some (g, d) else none
    | none => none

/-- One round of the search from a destination: chips with their distances; a chip to avoid passes nothing on. -/
def Net.spread (n : Net) (s : State) (d : Nat) (m : List (Nat × Nat)) (k : Nat) : List (Nat × Nat) :=
  let front := m.filter fun x => x.2 = k && (x.1 = d || !n.avoid.contains x.1)
  let new := (front.flatMap fun x => (n.nbrs s x.1).map (·.2)).filter fun c => !m.any fun x => x.1 = c
  m ++ (new.eraseDups.map fun c => (c, k + 1))

/-- The distances, in hops inside the group, to a chip. -/
def Net.dists (n : Net) (s : State) (d : Nat) : List (Nat × Nat) := (List.range 32).foldl (n.spread s d) [(d, 0)]

/-- The distance of a chip, if it reaches the destination at all. -/
def distIn (m : List (Nat × Nat)) (c : Nat) : Option Nat := (m.find? fun x => x.1 = c).map (·.2)

/-- The next chip of the standard route inside a group (Table 15.5): X first. -/
def stdHop (c d : Nat) : Nat := if c / 4 = d / 4 || c % 4 = d % 4 then d else c - c % 4 + d % 4

/-- Whether a chip is where the standard route's ALTERNATE leads (Table 15.5). -/
def stdAlt (c d x : Nat) : Bool :=
  if c / 4 = d / 4 then x / 4 = c / 4
  else if c % 4 = d % 4 then x % 4 = c % 4
  else x = d - d % 4 + c % 4

/-- The word of a route entry (Table 15.4). -/
def entryWord (pr se al : Nat) : Nat := pr + se * 2 ^ 5 + al * 2 ^ 10 + 2 ^ 15

/-- The LOCAL_TABLE entry of chip c for chip d of its group: a port on a shortest path, that of the standard route where it
is one; 0 where there is no path. Every hop comes nearer, so no chain of choices returns (R441). -/
def Net.localEntry (n : Net) (s : State) (c d : Nat) : Nat :=
  let m := n.dists s d
  match distIn m c with
  | none => 0
  | some k =>
    let nb := n.nbrs s c
    let best := nb.filter fun x => distIn m x.2 == some (k - 1) && (x.2 = d || !n.avoid.contains x.2)
    let h := if best.any (fun x => x.2 = stdHop c d) then some (stdHop c d) else best.head?.map (·.2)
    match h with
    | none => 0
    | some h =>
      let ports := (best.filter fun x => x.2 = h).map (·.1)
      let alts := nb.filter fun x =>
        stdAlt c d x.2 && x.2 ≠ h && x.2 ≠ d && !n.avoid.contains x.2 &&
        (match distIn m x.2 with | some j => decide (j ≤ k) | none => false)
      entryWord (ports.getD 0 31) (ports.getD 1 31) ((alts.head?.map (·.1)).getD 31)

/-- The next chip of the chain of PRIMARY choices from c to d inside a group. -/
def Net.localHop (n : Net) (s : State) (c d : Nat) : Option Nat :=
  let w := n.localEntry s c d
  if bitOf w 15 then (n.link s c (w % 32)).map (·.1) else none

/-- The Z ports of a chip that lead to another group, as index and group. -/
def Net.zLinks (n : Net) (s : State) (c : Nat) : List (Nat × Nat) :=
  (List.range 8).filterMap fun z =>
    match n.link s c (16 + z) with
    | some (d, _) => if d / 32 ≠ c / 32 && !n.avoid.contains d then some (z, d / 32) else none
    | none => none

/-- The chip and Z port by which group g leaves for group h. -/
def Net.exitOf (n : Net) (s : State) (g h : Nat) : Option (Nat × Nat) :=
  (List.range 32).findSome? fun k =>
    let c := 32 * g + k
    if !listed n.plan c || n.avoid.contains c then none
    else ((n.zLinks s c).find? fun x => x.2 = h).map fun x => (c, x.1)

/-- The Z indices of a chip below z, in turn downward. -/
def zBelow (z : Nat) : List Nat := (List.range 7).map fun i => (z + 7 - i) % 8

/-- The chip and Z port that the circuits give the pair g, h, whether or not it is down. -/
def Net.holder (n : Net) (s : State) (g h : Nat) : Option (Nat × Nat) :=
  ({ n with down := [] } : Net).exitOf s g h

/-- A group through which g and h reach each other: both traverses stand in both directions. -/
def Net.viaOk (n : Net) (s : State) (g h k : Nat) : Bool :=
  k ≠ g && k ≠ h && (n.exitOf s g k).isSome && (n.exitOf s k g).isSome && (n.exitOf s k h).isSome && (n.exitOf s h k).isSome

/-- The next group from g toward h: h itself over its traverse, else a group between them, first those that the Z ports of the
lower group's chip lead to, from the one below the lost port on (Table 15.5, 16 Table 16.9). -/
def Net.nextGroup (n : Net) (s : State) (g h : Nat) : Option Nat :=
  if (n.exitOf s g h).isSome && (n.exitOf s h g).isSome then some h
  else
    let lo := min g h
    let hi := max g h
    let near : List Nat :=
      match n.holder s lo hi with
      | none => []
      | some (c, z) => (zBelow z).filterMap fun i => ((n.zLinks s c).find? fun x => x.1 = i).map (·.2)
    (near ++ presentGroups n.plan).find? (n.viaOk s lo hi)

/-- The GROUP_TABLE entry of chip c for group h (Table 15.5); 0 where there is no route. -/
def Net.groupEntry (n : Net) (s : State) (c h : Nat) : Nat :=
  match n.nextGroup s (c / 32) h with
  | none => 0
  | some k =>
    match n.exitOf s (c / 32) k with
    | none => 0
    | some (e, z) =>
      if e = c then
        let alt := (zBelow z).find? fun i => (n.zLinks s c).any fun x => x.1 = i && x.2 ≠ h && x.2 ≠ k
        entryWord (16 + z) 31 ((alt.map (16 + ·)).getD 31)
      else n.localEntry s c e

/-- The words of a routing table of chip c that lie at `base`: GROUP_TABLE of the present groups. -/
def Net.groupWords (n : Net) (s : State) (base c : Nat) : List (Nat × Nat) :=
  ((presentGroups n.plan).filter (· ≠ c / 32)).map fun h => (base + 4 * h, n.groupEntry s c h)

/-- The same, LOCAL_TABLE of the chips of its group. -/
def Net.localWords (n : Net) (s : State) (base c : Nat) : List (Nat × Nat) :=
  ((List.range 32).filter fun k => listed n.plan (c - c % 32 + k) && k ≠ c % 32).map fun k =>
    (base + 0x400 + 4 * k, n.localEntry s c (c - c % 32 + k))

/-- Two chips reach each other (R479, CUT). -/
def Net.reach (n : Net) (s : State) (a b : Nat) : Bool :=
  let inGroup (x y : Nat) : Bool := (distIn (n.dists s y) x).isSome
  if a / 32 = b / 32 then inGroup a b
  else
    match n.nextGroup s (a / 32) (b / 32) with
    | none => false
    | some k =>
      match n.exitOf s (a / 32) k with
      | none => false
      | some (e, z) =>
        match n.link s e (16 + z) with
        | none => false
        | some (f, _) =>
          inGroup a e &&
          (if k = b / 32 then inGroup f b
           else
             match n.exitOf s k (b / 32) with
             | none => false
             | some (e2, z2) =>
               match n.link s e2 (16 + z2) with
               | none => false
               | some (f2, _) => inGroup f e2 && inGroup f2 b)

/-- Routes of other chips pass through a chip (06 R189). -/
def Net.isTransit (n : Net) (s : State) (c : Nat) : Bool :=
  let g := (List.range 32).map (c - c % 32 + ·) |>.filter (listed n.plan)
  !n.avoid.contains c &&
  ((g.any fun a => g.any fun b => a ≠ b && a ≠ c && b ≠ c && n.localHop s a b == some c) ||
    ((presentGroups n.plan).any fun h => h ≠ c / 32 &&
      (match n.exitOf s (c / 32) h with | some (e, _) => decide (e = c) | none => false)))

end Sys2Proof.Machine
end

