-- ==== Sys2Proof/Machine/Lx.lean ====
section
/-! DEFINITION. The Voano ports: enabling, splitting, training, identity exchange, loss, lanes and sleep (13 R363-R395). -/
namespace Sys2Proof.Machine
open Sys2Proof

/-! Settings. -/

/-- The credits of class c that SPLIT and BULK_TC give (R379). -/
def creditOf (split bulk c : Nat) : Nat :=
  if 6 ≤ c then 64
  else if c = bulk then (match split with | 0 => 31360 | 1 => 14976 | _ => 6784)
  else 256

/-- The fields of the credits of a port. -/
def creditFld (c : Nat) : Fld :=
  match c with
  | 0 => F.LX_CREDIT01_TC0 | 1 => F.LX_CREDIT01_TC1 | 2 => F.LX_CREDIT23_TC2 | 3 => F.LX_CREDIT23_TC3
  | 4 => F.LX_CREDIT45_TC4 | 5 => F.LX_CREDIT45_TC5 | 6 => F.LX_CREDIT67_TC6 | _ => F.LX_CREDIT67_TC7

/-- Recomputes the credits of a port (R379). -/
def deriveCredits (n j : Nat) (s : State) : State :=
  (List.range 8).foldl (fun s c =>
    s.wr (pgLX n) (creditFld c)
      (creditOf (s.rd (pgLX n) F.LX_CFG_STATUS_SPLIT_NOW) (s.rd (pgLX n) F.LX_PCTRL_BULK_TC 0 j) c) 0 j) s

/-- The slots of a port (R398). -/
def portSlots (s : State) (n : Nat) : Nat := 1920 / 2 ^ s.rd (pgLX n) F.LX_CFG_STATUS_SPLIT_NOW

/-- Recomputes QDEPTH of a port (R412, Table 14.6). -/
def deriveDepth (n j : Nat) (s : State) : State :=
  let w := fun c => s.rd (pgTSP n) F.TSP_CLASS_WEIGHT c j
  let sum := (List.range 6).foldl (fun a c => a + w c) 0
  let d := fun c => 16 + (portSlots s n - 128) * w c / sum
  let used := (List.range 6).foldl (fun a c => a + d c) 32
  let s := (List.range 6).foldl (fun s c =>
    s.wr (pgTSP n) F.TSP_QDEPTH_TC (if c = 0 then d 0 + (portSlots s n - used) else d c) c j) s
  let s := (s.wr (pgTSP n) F.TSP_QDEPTH_TC 16 6 j).wr (pgTSP n) F.TSP_QDEPTH_TC 16 7 j
  s.wr (pgTSP n) F.HDR_PAGE_STATUS_CUSTOM 0

/-- Every port of a link reads DOWN, RESTED or FAILED (R365). -/
def portsDown (s : State) (n : Nat) : Bool :=
  (List.range 4).all fun j => let st := portState s (4 * n + j); st = 0 || st = 5 || st = 6

/-- The pending split takes effect (R365, R412): credits and queue depths follow, and ports it does not create read DOWN. -/
def splitApply (n : Nat) (s : State) : State :=
  if s.flag (pgLX n) F.LX_CFG_STATUS_SPLIT_PENDING && portsDown s n then
    let s := (s.wr (pgLX n) F.LX_CFG_STATUS_SPLIT_NOW (s.rd (pgLX n) F.LX_CFG_SPLIT)).wr (pgLX n) F.LX_CFG_STATUS_SPLIT_PENDING 0
    (List.range 4).foldl (fun s j =>
      let s := deriveDepth n j (deriveCredits n j s)
      if portExists s (4 * n + j) then s
      else setPortState (4 * n + j) 0 (s.wr (pgLX n) F.LX_PCTRL_EN 0 0 j)) s
  else s

/-- A write of LXn.CFG (R365): SPLIT 3 is stored as 2 and waits until the ports are down; REACH derives TX_EQ. -/
def lxCfgWrite (n v : Nat) (s : State) : State :=
  let s := s.wr (pgLX n) F.LX_CFG_SPLIT (min 2 (v % 4))
  let s := s.wr (pgLX n) F.LX_CFG_AUTO_RESTRIPE (v / 4)
  let s := s.wr (pgLX n) F.LX_CFG_AUTO_LANE_RETRAIN (v / 8)
  let s := s.wr (pgLX n) F.LX_CFG_REACH (v / 16)
  let s := deriveEq n ((List.range 4).foldl (fun s j => deriveCredits n j s) s)
  let s := s.wr (pgLX n) F.HDR_PAGE_STATUS_CUSTOM 0
  let s := s.wr (pgLX n) F.LX_CFG_STATUS_SPLIT_PENDING
    (b2n (s.rd (pgLX n) F.LX_CFG_SPLIT ≠ s.rd (pgLX n) F.LX_CFG_STATUS_SPLIT_NOW))
  splitApply n s

/-- LX_SPLIT_WRITE (R365). -/
def execLxSplitWrite (req n : Nat) (v : Word) (s : State) : Host.Outcome State Fault Refusal :=
  live s (regWrite req (pgLX n + 0x100) (lxCfgWrite n v.toNat))

/-- LX_SPLIT_APPLY (R365). -/
def execLxSplitApply (n : Nat) (s : State) : Host.Outcome State Fault Refusal := live s (splitApply n)

/-! Ports that go down and come up. -/

/-- PWR.STATUS.LINKS_LOCKED follows the ports after the boot; when it rises, a REST whose end waits for it is announced
(06 R191). -/
def linksSync (s : State) : State :=
  if !s.done then s
  else if linksLocked s then
    if s.flag pgPWR F.PWR_STATUS_LINKS_LOCKED then s else restAnnounceEnd (s.wr pgPWR F.PWR_STATUS_LINKS_LOCKED 1)
  else s.wr pgPWR F.PWR_STATUS_LINKS_LOCKED 0

/-- RTE.STATUS.PLAN_MISMATCH: some port in an identity exchange or up shows a mismatch (15 R430). -/
def mismatchSync (s : State) : State :=
  s.wr pgRTE F.RTE_STATUS_PLAN_MISMATCH
    (b2n ((List.range 24).any fun g => (portUp s g || portState s g = 2) && planMismatch s g))

/-- The topology check runs again, during the boot with what waits for it. -/
def topoAgain (s : State) : State := if s.chip.booting then bootAdvance (topoCheck s) else topoRecheck s

/-- The long operation RETRAIN of a port in a parallel mode. -/
def retrainOf (s : State) (g : Nat) : Bool :=
  lopOnPort s g && s.lopOp (pgLX (g / 4)) = 1 && s.lopArg (pgLX (g / 4)) 1 % 4 ≠ 3

/-- A port fails (Table 13.6): FAILED with a cause; a RETRAIN of it fails. -/
def portFails (g cause detail : Nat) (s : State) : State :=
  let s := setCause g cause (setPortState g 6 s)
  let s := if retrainOf s g then lopFail (pgLX (g / 4)) resHW_ERROR detail s else s
  let s := s.modPort g portCleared
  irq (pgLX (g / 4)) 4 (setLanes g [] [] s)

/-- The part of an unplanned loss that every loss shares (R382): the port is down, its queue slaloms, the fabric manager is
told, and it retrains in RELOCK mode while it is enabled. -/
def portDrops (g cause : Nat) (s : State) : State :=
  let s := mismatchSync (linksSync (portLeaves g 0 cause s))
  let s := fabPortEvent (.portDown g) g (slalom g s)
  if s.flag (pgLX (g / 4)) F.LX_PCTRL_EN 0 (g % 4) then startTraining g 2 true s else s

/-- An unplanned loss (R382): counted and logged with the port and the cause. -/
def portLost (g cause : Nat) (s : State) : State :=
  let s := s.bump (pgLX (g / 4)) F.LX_COUNTS_DOWNS 1 0 (g % 4)
  portDrops g cause (logEv (pgLX (g / 4)) 0x2502 s g cause)

/-- A loss of the partner (R381-R383): planned when the partner announced REST. -/
def partnerLost (g : Nat) (s : State) : State :=
  if s.flag (pgLX (g / 4)) F.LX_PSTATUS_PARTNER_RESTED 0 (g % 4) then
    logEv (pgLX (g / 4)) 0x0503 (mismatchSync (linksSync (portLeaves g 5 4 s))) g
  else portLost g 1 s

/-- LX_PARTNER_LOSS (R381). -/
def execLxPartnerLoss (g : Nat) (s : State) : Host.Outcome State Fault Refusal :=
  liveP s fun s => if portUp s g then partnerLost g s else s

/-- PCTRL.EN written 0 (Table 13.6): the queue is drained as on a loss, and the port is DOWN with cause DISABLED. -/
def portDisable (g : Nat) (s : State) : State :=
  let up := portUp s g
  let s := if lopOnPort s g then lopFail (pgLX (g / 4)) resHW_ERROR (s.rd (pgLX (g / 4)) F.LOP_LOP_RESULT_DETAIL) s else s
  let s := if up then mismatchSync (linksSync (portLeaves g 0 5 s))
    else setLanes g [] [] ((setCause g 5 (setPortState g 0 s)).modPort g portCleared)
  let s := slalom g s
  if up then fabPortEvent (.portDown g) g s else s

/-- A write of PCTRL of a port (R363, R366, R379, R382): BULK_TC 6 and 7 are stored as 5, BULK_TC and FIBRE_M derive CREDIT
and NAK_WAIT_NS, and EN starts FULL training of a DOWN or FAILED port or takes the port down. -/
def pctrlWrite (n j v : Nat) (s : State) : State :=
  let g := 4 * n + j
  let on := bitOf v 0 && portExists s g
  let was := s.flag (pgLX n) F.LX_PCTRL_EN 0 j
  let s := s.wr (pgLX n) F.LX_PCTRL_EN (b2n on) 0 j
  let s := s.wr (pgLX n) F.LX_PCTRL_BULK_TC (min 5 (getBits v 1 3)) 0 j
  let s := s.wr (pgLX n) F.LX_PCTRL_FIBRE_M (v / 2 ^ 16) 0 j
  let s := deriveCredits n j s
  let s := s.wr (pgLX n) F.LX_REPLAY_NAK_WAIT_NS (satAt 16 (420 + 10 * (v / 2 ^ 16))) 0 j
  let s := s.wr (pgLX n) F.HDR_PAGE_STATUS_CUSTOM 0
  if on then (if portState s g = 0 || portState s g = 6 then startTraining g 0 true s else s)
  else if was then portDisable g s
  else s

/-- LX_PORT_ENABLE (R366): a write of PCTRL with EN = 1. -/
def execLxPortEnable (req n j : Nat) (v : Word) (s : State) : Host.Outcome State Fault Refusal :=
  liveP s (regWrite req (pgLX n + 0x140 + 0x40 * j) (pctrlWrite n j v.toNat))

/-- LX_PORT_DISABLE (R382): a write of PCTRL with EN = 0. -/
def execLxPortDisable (req n j : Nat) (v : Word) (s : State) : Host.Outcome State Fault Refusal :=
  liveP s (regWrite req (pgLX n + 0x140 + 0x40 * j) (pctrlWrite n j v.toNat))

/-! Training and the identity exchange (R366-R369). -/

/-- The width code of Table 13.3. -/
def widthCode (s : State) (g : Nat) : Nat := s.rd (pgLX (g / 4)) F.LX_CFG_STATUS_SPLIT_NOW

/-- The IDENT of a port (Table 13.3). -/
def identPacket (s : State) (g : Nat) : Packet :=
  let pg := pgLX (g / 4)
  { floodPacket s 7 0x30 12
      (leBytes 2 (s.chipNum + s.rd pgCHIP F.CHIP_CHIP_NUM_SOURCE * 2 ^ 13)
        ++ leBytes 1 (g + widthCode s g * 2 ^ 5 + s.rd pg F.LX_CFG_REACH * 2 ^ 7) ++ leBytes 1 0
        ++ leBytes 4 (s.rd pgCHIP F.CHIP_PLAN_ID_ID) ++ leBytes 4 (maskOf (txLanes s g)) ++ leBytes 4 (maskOf (rxLanes s g))
        ++ ((List.range 8).flatMap fun c => leBytes 2 (s.rd pg (creditFld c) 0 (g % 4)))
        ++ leBytes 2 (s.rd pgPWR F.PWR_LINK_SLEEP_HB_NS) ++ leBytes 2 (b2n (s.flag pgPWR F.PWR_REST_ACKED))
        ++ leBytes 8 s.fuses.serial ++ leBytes 4 0) with port := g }

/-- A packet of the link agent goes out on a port. -/
def agentSend (g : Nat) (p : Packet) (s : State) : State := { s with outbox := s.outbox ++ [.agent g p] }

/-- The state of each lane after a training: locked where it trained, BAD where it was left out, with the trained
equaliser. -/
def laneTrained (n : Nat) (ok : Bool) (inv : Bool) (eq : Word) (k : Nat) (s : State) : State :=
  let pg := pgLX n
  let s := (s.wr pg F.LX_LANE_LOCK (b2n ok) k).wr pg F.LX_LANE_BAD (b2n !ok) k
  let s := (s.wr pg F.LX_LANE_FAILING (if ok then 0 else s.rd pg F.LX_LANE_FAILING k) k).wr pg F.LX_LANE_POL_INV (b2n (ok && inv)) k
  if ok then s.setWord (pg + 0x600 + 4 * k) eq else s

/-- The lanes left out at a training go to CHIP.LANE_BAD (R366, 04 R126). -/
def laneBadSync (g : Nat) (ok : List Nat) (s : State) : State :=
  let out := (portLanes s g).filter fun k => !ok.contains k
  let old := lanesIn (s.rd pgCHIP F.CHIP_LANE_BAD_LANES (g / 4)) ((List.range 32).filter fun k => !(portLanes s g).contains k)
  s.wr pgCHIP F.CHIP_LANE_BAD_LANES (maskOf (old ++ out)) (g / 4)

/-- Training of a port fails (R366): FAILED with cause LANES. After RELOCK that the PN4 started itself, FULL follows at once
(R382). -/
def trainingFails (g : Nat) (ok : List Nat) (s : State) : State :=
  let p := s.port g
  let s := laneBadSync g ok s
  let s := portFails g 2 (maskOf ((portLanes s g).filter fun k => !ok.contains k)) s
  let s := topoAgain s
  if p.auto && p.trainMode = 2 && s.flag (pgLX (g / 4)) F.LX_PCTRL_EN 0 (g % 4) then startTraining g 0 true s else s

/-- The lanes of a port lock and deskew (R366): the port forms on its trained lanes when at least W/2 trained in each
direction, and sends IDENT. -/
def trainingEnds (g tx rx inv : Nat) (eq : List Word) (s : State) : State :=
  let ls := portLanes s g
  let t := lanesIn tx ls
  let r := lanesIn rx ls
  let ok := ls.filter fun k => t.contains k && r.contains k
  let s := ls.foldl (fun s k => laneTrained (g / 4) (ok.contains k) (bitOf inv k) (eq.getD k 0) k s) s
  let s := if retrainOf s g then
      let s := s.wr (pgLX (g / 4)) F.LOP_LOP_PROGRESS_DONE ls.length
      s.wr (pgLX (g / 4)) F.LOP_LOP_RESULT_DETAIL (maskOf (ls.filter fun k => !ok.contains k))
    else s
  if 2 * t.length < ls.length || 2 * r.length < ls.length then trainingFails g ok s
  else
    let s := setPortState g 2 (setLanes g t r (laneBadSync g ok s))
    agentSend g (identPacket s g) s

/-- LX_TRAINING_COMPLETE (R366): while the link reference clock is there (R742), with the masks of link lanes that trained in each direction, the inversions corrected and
the trained equalisers. -/
def execLxTrainingComplete (g : Nat) (tx rx inv : Word) (eq : List Word) (s : State) : Host.Outcome State Fault Refusal :=
  liveP s fun s => if portState s g = 1 && s.chip.refLnk then trainingEnds g tx.toNat rx.toNat inv.toNat eq s else s

/-- LX_TRAINING_FAIL (R366): fewer than W/2 lanes trained, or the bound was exceeded; with the mask of lanes that did. -/
def execLxTrainingFail (g : Nat) (ok : Word) (s : State) : Host.Outcome State Fault Refusal :=
  liveP s fun s => if portState s g = 1 then trainingFails g (lanesIn ok.toNat (portLanes s g)) s else s

/-- The long operation RETRAIN of a port that has come up ends. -/
def retrainDone (g : Nat) (s : State) : State :=
  if retrainOf s g then
    let pg := pgLX (g / 4)
    if s.lop pg = lopCANCELLING then
      lopCancelled pg (mismatchSync (linksSync (portLeaves g 0 8 s)))
    else lopFinish pg s
  else s

/-- The exchange is complete (R365, R368, R369): ACTIVE with the partner's credits, or FAILED when the widths differ. -/
def identComplete (g : Nat) (s : State) : State :=
  let p := s.port g
  let pg := pgLX (g / 4)
  if !(portState s g = 2 && p.gotAck && p.sentAck) then s
  else if p.pWidth ≠ widthCode s g then
    let s := portFails g 6 0 (s.wr pg F.LX_PARTNER_VALID 0 0 (g % 4))
    topoAgain (mismatchSync (logEv pg 0x0507 s))
  else
    let up := p.everUp && decide (s.rd pgRTE F.RTE_SETTLE_US ≠ 0)
    let s := s.modPort g fun x => { x with creds := x.pCreds, everUp := true, settling := up }
    let s := enterActive g s
    let s := logEv pg 0x0501 (irq pg 0 s) g (s.rd pg F.LX_PARTNER_CHIP 0 (g % 4)) (s.rd pg F.LX_PARTNER_PORT 0 (g % 4))
    let s := fabRetrained g (retrainDone g (linksSync (mismatchSync s)))
    if up || portState s g ≠ 3 then s else fabPortEvent (.portUp g) g s

/-- What an IDENT tells of the partner (R369, R430, R478, Table 13.3). -/
def identRecord (g : Nat) (p : Packet) (s : State) : State :=
  let pg := pgLX (g / 4)
  let j := g % 4
  let chip := payloadAt p.data 0 2 % 2 ^ 13
  let port := payloadAt p.data 2 1 % 32
  let plan := payloadAt p.data 4 4
  let other := s.flag pg F.LX_PARTNER_VALID 0 j && (s.rd pg F.LX_PARTNER_CHIP 0 j ≠ chip || s.rd pg F.LX_PARTNER_PORT 0 j ≠ port)
  let s := if other then s.wr pgFAB F.FAB_ADMIT_PORTS (putBits (s.rd pgFAB F.FAB_ADMIT_PORTS) g 1 0) else s
  let s := (s.wr pg F.LX_PARTNER_CHIP chip 0 j).wr pg F.LX_PARTNER_PORT port 0 j
  let s := (s.wr pg F.LX_PARTNER_VALID 1 0 j).wr pg F.LX_PARTNER_PLAN_ID plan 0 j
  let rest := bitOf (payloadAt p.data 0x22 2) 0
  let s := s.wr pg F.LX_PSTATUS_PARTNER_RESTED (b2n rest) 0 j
  let s := s.modPort g fun x =>
    { x with sentAck := true, pWidth := payloadAt p.data 2 1 / 32 % 4, pHb := payloadAt p.data 0x20 2, pRest := rest,
             pCreds := (List.range 8).map fun c => payloadAt p.data (0x10 + 2 * c) 2 }
  let s := if planMismatch s g then logEv pgRTE 0x0643 (irq pgRTE 4 s) g plan else s
  topoAgain (mismatchSync s)

/-- An IDENT arrives (R368): it is answered with an IDENT_ACK that echoes its first 4 bytes; in state IDENT the partner is
recorded and checked. -/
def identReceive (g : Nat) (p : Packet) (s : State) : State :=
  if !(p.op = 0x30 && p.data.length = 48 && (portUp s g || portState s g = 2)) then s
  else
    let s := agentSend g { floodPacket s 7 0x31 1 (p.data.take 4) with port := g } s
    if portState s g = 2 then identComplete g (identRecord g p s) else s

/-- LX_IDENT_RECEIVE (R368). -/
def execLxIdentReceive (g : Nat) (p : Packet) (s : State) : Host.Outcome State Fault Refusal := liveP s (identReceive g p)

/-- An IDENT_ACK arrives (R368); it answers the IDENT whose first 4 bytes it echoes. -/
def identAck (g echo : Nat) (s : State) : State :=
  if portState s g = 2 && decide (echo = payloadAt (identPacket s g).data 0 4) then
    identComplete g (s.modPort g fun p => { p with gotAck := true })
  else s

/-- LX_IDENT_ACK_RECEIVE (R368). -/
def execLxIdentAckReceive (g : Nat) (echo : Word) (s : State) : Host.Outcome State Fault Refusal := liveP s (identAck g echo.toNat)

/-- LX_IDENT_RESEND (R368): 1 ms passed without an IDENT_ACK. -/
def execLxIdentResend (g : Nat) (s : State) : Host.Outcome State Fault Refusal :=
  live s fun s => if portState s g = 2 && !(s.port g).gotAck then agentSend g (identPacket s g) s else s

/-- LX_RETRAIN_RETRY (R382): 1 s after the last try, an enabled port that is still down trains in FULL mode. -/
def execLxRetrainRetry (g : Nat) (s : State) : Host.Outcome State Fault Refusal :=
  liveP s fun s =>
    if s.flag (pgLX (g / 4)) F.LX_PCTRL_EN 0 (g % 4) && (portState s g = 0 || portState s g = 6) then startTraining g 0 true s else s

/-- LX_PARTNER_SIGNAL_RETURN (R383): the signal of a rested partner returns; a port that this chip's ladder rests stays. -/
def execLxPartnerSignalReturn (g : Nat) (s : State) : Host.Outcome State Fault Refusal :=
  liveP s fun s =>
    if portState s g = 5 && decide (s.ladder ≤ 2) then startTraining g 2 true s else s

/-- A REST_NOTE arrives (R390): BEGIN sets PARTNER_RESTED, END clears it. -/
def restNoteReceive (g : Nat) (begin : Bool) (s : State) : State :=
  let s := s.wr (pgLX (g / 4)) F.LX_PSTATUS_PARTNER_RESTED (b2n begin) 0 (g % 4)
  if begin then irq (pgLX (g / 4)) 5 s else s

/-- LX_REST_NOTE_RECEIVE (R390). -/
def execLxRestNoteReceive (g : Nat) (begin : Bool) (s : State) : Host.Outcome State Fault Refusal :=
  live s fun s => if portUp s g then restNoteReceive g begin s else s

/-- RTE_SETTLE_END (15 R438, 16 R475): the port is usable for new choices, and its return is reported. -/
def execRteSettleEnd (g : Nat) (s : State) : Host.Outcome State Fault Refusal :=
  live s fun s =>
    if (s.port g).settling then
      let s := s.modPort g fun p => { p with settling := false }
      if portUp s g then fabPortEvent (.portUp g) g s else s
    else s

/-! Lanes (R384-R387). -/

/-- The link lane of a port-local lane. -/
def linkLane (s : State) (g i : Nat) : Nat := g % 4 * portWidth s g + i

/-- Receive lanes of a port that stay in use once the drops under way are done and lane k goes as well. -/
def lanesLeft (s : State) (g : Nat) (ks : List Nat) : Nat :=
  ((rxLanes s g).filter fun k => !ks.contains k && !((s.port g).drops.map (linkLane s g)).contains k).length

/-- Sends DROP_REQ for a receive lane in use; a lane already on its way out is not asked for again (R384, R385). -/
def dropLane (g k : Nat) (s : State) : State :=
  let i := k % portWidth s g
  if (rxLanes s g).contains k && !(s.port g).drops.contains i then
    addItem g 5 i 0 (s.modPort g fun p => { p with drops := p.drops ++ [i] })
  else s

/-- A receive lane is FAILING (R384). -/
def laneFails (n k : Nat) (s : State) : State :=
  let g := portOfLane s n k
  let pg := pgLX n
  let s := s.wr pg F.LX_LANE_FAILING 1 k
  if portState s g ≠ 3 || !(rxLanes s g).contains k then s
  else if !s.flag pg F.LX_CFG_AUTO_RESTRIPE then
    if (s.port g).failLogged.contains k then s
    else logEv pg 0x1504 (s.modPort g fun p => { p with failLogged := k :: p.failLogged }) g k 1
  else if 2 * lanesLeft s g [k] < portWidth s g then portLost g 2 s
  else dropLane g k s

/-- LX_LANE_LOCK_LOSS (R384): a lane has lost lock for LOSS_LOCK_NS. -/
def execLxLaneLockLoss (n k : Nat) (s : State) : Host.Outcome State Fault Refusal :=
  liveP s fun s => laneFails n k (s.wr (pgLX n) F.LX_LANE_LOCK 0 k)

/-- A lane left a direction (0 transmit, 1 receive) of a port (R385). -/
def laneDropped (g k dir : Nat) (s : State) : State :=
  let s := irq (pgLX (g / 4)) 2 (s.bump (pgLX (g / 4)) F.LX_LANE_COUNTS_DROPS 1 0 (g % 4))
  let s := logEv (pgLX (g / 4)) 0x1504 s g k dir
  fabPortEvent (.laneDrop g (rxLanes s g).length) g s

/-- A lane joined a direction of a port (R386). -/
def laneAdded (g k dir : Nat) (s : State) : State :=
  let s := irq (pgLX (g / 4)) 3 (s.bump (pgLX (g / 4)) F.LX_LANE_COUNTS_ADDS 1 0 (g % 4))
  logEv (pgLX (g / 4)) 0x0505 s g k dir

/-- DROP_REQ (R385): the sender leaves the lane, sends MAP unnumbered on the new set, and replays from the oldest
unacknowledged codeword. -/
def dropReq (g i : Nat) (s : State) : State :=
  if !portUp s g then s
  else
    let k := linkLane s g i
    let had := (txLanes s g).contains k
    let s := setLanes g ((txLanes s g).filter (· ≠ k)) (rxLanes s g) s
    let s := if had then laneDropped g k 0 s else s
    replayFrom g 0 (sendIdle g (5, i, 2) s)

/-- ADD_REQ (R386): the sender adds the lane with a MAP. -/
def addReq (g i : Nat) (s : State) : State :=
  if !portUp s g then s
  else
    let k := linkLane s g i
    let had := (txLanes s g).contains k
    let s := setLanes g ((portLanes s g).filter fun x => x = k || (txLanes s g).contains x) (rxLanes s g) s
    let s := if had then s else laneAdded g k 0 s
    addItem g 5 (i + 32) 2 s

/-- MAP (R385, R386): the receiver takes the new lane set for the request it waits on. -/
def mapItem (g i : Nat) (add : Bool) (s : State) : State :=
  let p := s.port g
  let k := linkLane s g i
  if add then
    if p.adds.contains i then
      let s := s.setPort g { p with adds := p.adds.erase i, mapTries := 0 }
      laneAdded g k 1 (setLanes g (txLanes s g) ((portLanes s g).filter fun x => x = k || (rxLanes s g).contains x) s)
    else s
  else if p.drops.contains i then
    let s := s.setPort g { p with drops := p.drops.erase i, mapTries := 0 }
    laneDropped g k 1 (setLanes g (txLanes s g) ((rxLanes s g).filter (· ≠ k)) s)
  else s

/-- LX_NAK_WAIT_TIMEOUT (R375, R376, R385): no REPLAY or MAP decoded within NAK_WAIT_NS: the NAK or the oldest DROP_REQ is
sent again, and after REPLAY.MAX of them the port goes down. -/
def nakWait (g : Nat) (s : State) : State :=
  let p := s.port g
  let m := s.rd (pgLX (g / 4)) F.LX_REPLAY_MAX 0 (g % 4)
  if !portUp s g then s
  else if p.nak then
    if m ≤ p.nakTries then portLost g 3 s
    else addItem g 2 p.rxWant 0 (s.setPort g { p with nakTries := p.nakTries + 1 })
  else
    match p.drops with
    | [] => s
    | i :: _ =>
      if m ≤ p.mapTries + 1 then portLost g 3 s
      else addItem g 5 i 0 (s.setPort g { p with mapTries := p.mapTries + 1 })

/-- LX_NAK_WAIT_TIMEOUT (R375). -/
def execLxNakWaitTimeout (g : Nat) (s : State) : Host.Outcome State Fault Refusal := liveP s (nakWait g)

/-- LX_RETRAIN_START (R367): a START of RETRAIN; the parallel modes first take the port down with cause RETRAIN, LANE mode
drops each named lane that is in use. -/
def retrainRun (n : Nat) (s : State) : State :=
  let pg := pgLX n
  let j := s.lopArg pg 0 % 4
  let mode := s.lopArg pg 1 % 4
  let g := 4 * n + j
  let ls := lanesIn (s.lopArg pg 2) (List.range 32)
  if !portExists s g then lopRefuse pg resBAD_ARG s
  else if mode = 3 then
    if ls.any fun k => !(portLanes s g).contains k then lopRefuse pg resBAD_ARG s
    else if portState s g ≠ 3 || decide (2 * lanesLeft s g ls < portWidth s g) then lopRefuse pg resCONFLICT s
    else
      let s := ls.foldl (fun s k => dropLane g k s) s
      if ls.isEmpty then lopFinish pg s else s
  else
    let s := if portUp s g then
        fabPortEvent (.portDown g) g (slalom g (mismatchSync (linksSync (portLeaves g 0 8 s))))
      else if portState s g = 1 || portState s g = 2 then setCause g 8 s
      else s
    startTraining g mode false s

/-- A START of RETRAIN on a link. -/
def lxRetrainStart (req n : Nat) : State → State :=
  wakeStart (pgLX n) false (lopStart req (pgLX n) 1 false (retrainRun n))

/-- LX_RETRAIN_START (R367). -/
def execLxRetrainStart (req n : Nat) (s : State) : Host.Outcome State Fault Refusal :=
  liveP s (regWrite req (pgLX n + 0x40) (lxRetrainStart req n))

/-- The effect of LX_AUTO_LANE_RETRAIN_START out of reset (R386). -/
def lxAutoLaneRetrainStartEffect (n : Nat) (s : State) : State :=
  let pg := pgLX n
  let cand := (List.range 32).find? fun k =>
    s.flag pg F.LX_LANE_FAILING k && !s.flag pg F.LX_LANE_BAD k && !s.flag pg F.LX_LANE_RX_USE k && portState s (portOfLane s n k) = 3
  match cand with
  | none => s
  | some k =>
    if s.flag pg F.LX_CFG_AUTO_LANE_RETRAIN && !s.lopActive pg && s.running pg && s.avail pg then
      let s := lopAccept pg 1 s
      { s with lopArgs := fset (fun _ => []) s.lopArgs pg [portOfLane s n k % 4, 3, 2 ^ k, 0] }
    else s

/-- LX_AUTO_LANE_RETRAIN_START (R386): RETRAIN in LANE mode of the first dropped lane that has not failed to train. -/
def execLxAutoLaneRetrainStart (n : Nat) (s : State) : Host.Outcome State Fault Refusal :=
  liveP s (lxAutoLaneRetrainStartEffect n)

/-- The effect of LX_LANE_TRAINED out of reset (R386). -/
def lxLaneTrainedEffect (n k : Nat) (ok : Bool) (s : State) : State :=
  let pg := pgLX n
  let m := s.lopArg pg 2
  if !(lopRuns s pg 1 && s.lopArg pg 1 % 4 = 3 && bitOf m k) then s
  else
    let g := portOfLane s n k
    let i := k % portWidth s g
    let s := s.bump pg F.LX_LANE_RETRAINS 1 k
    let s := if ok then
        let s := ((s.wr pg F.LX_LANE_LOCK 1 k).wr pg F.LX_LANE_FAILING 0 k).wr pg F.LX_LANE_BAD 0 k
        if s.lop pg = lopCANCELLING then s
        else addItem g 5 i 1 (s.modPort g fun p => { p with adds := p.adds ++ [i] })
      else
        let s := (s.wr pg F.LX_LANE_FAILING 1 k).wr pg F.LX_LANE_BAD 1 k
        lopDetail pg (s.rd pg F.LOP_LOP_RESULT_DETAIL ||| 2 ^ k) s
    let m' := putBits m k 1 0
    let s := { s with lopArgs := fset (fun _ => []) s.lopArgs pg [s.lopArg pg 0, 3, m', 0] }
    lopUnit pg 1 (decide (m' = 0)) s

/-- LX_LANE_TRAINED (R386): a lane of the LANE-mode RETRAIN ends; a trained one is asked back into use unless the operation
is being cancelled. -/
def execLxLaneTrained (n k : Nat) (ok : Bool) (s : State) : Host.Outcome State Fault Refusal :=
  liveP s (lxLaneTrainedEffect n k ok)

/-- The end of a LANE_TEST: TEST_STOP, and the lane is asked back (R387). -/
def laneTestEnd (n : Nat) (s : State) : State :=
  let k := s.lopArg (pgLX n) 0 % 32
  let g := portOfLane s n k
  let i := k % portWidth s g
  addItem g 5 i 1 (addItem g 5 i 4 (s.modPort g fun p => { p with adds := p.adds ++ [i] }))

/-- LANE_TEST begins (R387): the lane is dropped from the receive direction, and TEST_START follows. -/
def laneTestRun (n : Nat) (s : State) : State :=
  let pg := pgLX n
  let k := s.lopArg pg 0 % 32
  let g := portOfLane s n k
  if s.lopArg pg 1 % 2 ^ 20 = 0 then lopRefuse pg resBAD_ARG s
  else if portState s g ≠ 3 || ((rxLanes s g).contains k && decide (2 * lanesLeft s g [k] < portWidth s g)) then
    lopRefuse pg resCONFLICT s
  else addItem g 5 (k % portWidth s g) 3 (dropLane g k s)

/-- A START of LANE_TEST. -/
def lxLaneTestStart (req n : Nat) : State → State :=
  wakeStart (pgLX n) false (lopStart req (pgLX n) 2 false (laneTestRun n))

/-- LX_LANE_TEST_START (R387). -/
def execLxLaneTestStart (req n : Nat) (s : State) : Host.Outcome State Fault Refusal :=
  liveP s (regWrite req (pgLX n + 0x40) (lxLaneTestStart req n))

/-- The effect of LX_LANE_TEST_UNIT_DONE out of reset (R387). -/
def lxLaneTestUnitDoneEffect (n errs : Nat) (s : State) : State :=
  let pg := pgLX n
  if !lopRuns s pg 2 then s
  else
    let s := lopDetail pg (satAt 24 (s.rd pg F.LOP_LOP_RESULT_DETAIL + errs)) s
    let last := decide (s.lopArg pg 1 % 2 ^ 20 ≤ s.rd pg F.LOP_LOP_PROGRESS_DONE + 1)
    let stop := last || s.lop pg = lopCANCELLING
    let s := lopUnit pg 1 last s
    if stop then laneTestEnd n s else s

/-- LX_LANE_TEST_UNIT_DONE (R387): 2^20 bits more, with so many errors. -/
def execLxLaneTestUnitDone (n errs : Nat) (s : State) : Host.Outcome State Fault Refusal :=
  liveP s (lxLaneTestUnitDoneEffect n errs)

/-- A write of LANE_CLR. -/
def laneClrWrite (n v : Nat) (s : State) : State :=
    if bitOf v 0 then
      (List.range 32).foldl (fun s k => (s.wr (pgLX n) F.LX_LANE_SYM_ERR 0 k).wr (pgLX n) F.LX_LANE_RETRAINS 0 k) s
    else s

/-- LX_LANE_CLR (R392). -/
def execLxLaneClr (req n : Nat) (v : Word) (s : State) : Host.Outcome State Fault Refusal :=
  live s (regWrite req (pgLX n + 0x108) (laneClrWrite n v.toNat))

/-- A write of PCLEAR of port j. -/
def pclearWrite (n j v : Nat) (s : State) : State :=
    if bitOf v 0 then s.zeroWords ((List.range 4).map fun i => pgLX n + 0x158 + 0x40 * j + 4 * i) else s

/-- LX_PCLEAR (R392): zeroes +0x18 to +0x24 of a port's block. -/
def execLxPclear (req n j : Nat) (v : Word) (s : State) : Host.Outcome State Fault Refusal :=
  live s (regWrite req (pgLX n + 0x170 + 0x40 * j) (pclearWrite n j v.toNat))

end Sys2Proof.Machine
end

