-- ==== Sys2Proof/Machine/Part.lean ====
section
/-! DEFINITION. The PART page (23): CREATE and ASSIGN (R668-R672), DRAIN_SCRUB (R677-R682). -/
namespace Sys2Proof.Machine
open Sys2Proof

/-- P_STATE[p].STATE (Table 23.1): 0 FREE, 1 ACTIVE, 2 FENCED, 3 DRAINING, 4 SCRUBBING. -/
def partState (s : State) (p : Nat) : Nat := s.rd pgPART F.PART_P_STATE_STATE p

/-- Enters a partition state. -/
def setPartState (p st : Nat) (s : State) : State := s.wr pgPART F.PART_P_STATE_STATE st p

/-- How many resources of a kind there are (Table 23.2). -/
def resCount (kind : Nat) : Nat :=
  match kind with | 0 => 2560 | 1 => 512 | 2 => 32 | 3 => 4 | 4 => 4 | 5 => 32 | _ => 1

/-- The partition that a field of P_STATE names as holder, or the management domain. -/
def holderBy (f : Nat → Bool) : Nat := ((List.range 32).find? f).getD mgmt

/-- The owner of a resource in the PART table (R670). -/
def resOwner (s : State) (kind i : Nat) : Nat :=
  match kind with
  | 0 => s.owner (pgTILE i)
  | 1 => fget (fun _ => mgmt) s.granOwner i
  | 2 => holderBy fun p => ctxOfPart s p == some i
  | 3 => holderBy fun p => bitOf (s.rd pgPART F.PART_P_STATE_HEADS p) i
  | 4 => holderBy fun p => bitOf (s.rd pgPART F.PART_P_STATE_PIPES p) i
  | 5 => holderBy fun p => vfOf s p == some (i + 1)
  | _ => holderBy fun p => s.flag pgPART F.PART_P_STATE_BLT p

/-- QUERY_OWNER: the owner of the resource that QUERY names (Table 23.4). -/
def queryOwner (s : State) : Nat :=
  let k := s.rd pgPART F.PART_QUERY_KIND
  let i := s.rd pgPART F.PART_QUERY_INDEX
  if k < 7 && i < resCount k then resOwner s k i else mgmt

/-- LIMIT (R668). -/
def partLimit (s : State) : Nat := getBits (s.word (pgPART + 4)).toNat 1 6

/-- A write of CREATE (Table 23.1). -/
def partCreate (req v : Nat) (s : State) : State :=
  let p := v % 32
  if partLimit s ≤ p then pageFault pgPART causeRefused req true 0x104 (s.wr pgPART F.PART_ASSIGN_STATUS_RESULT 4)
  else if partState s p ≠ 0 then pageFault pgPART causeRefused req true 0x104 s
  else logEv pgPART 0x0C01 (setPartState p 1 s)

/-- PART_CREATE (R669). -/
def execPartCreate (req : Nat) (v : Word) (s : State) : Host.Outcome State Fault Refusal :=
  liveP s (regWrite req (pgPART + 0x104) (partCreate req v.toNat))

/-- Whether a resource can be assigned (R671, cause 5): a tile that is good and whose page is not enabled, a head or pipeline
whose pages are available, a context that is allocated. -/
def resAvailable (s : State) (kind i : Nat) : Bool :=
  match kind with
  | 0 => decide (fget (fun _ => 0) s.chip.fp i = 0) && !s.flag (pgTILE i) F.HDR_PAGE_CTRL_ENABLE
  | 2 => s.flag pgRTE F.RTE_CTX_ALLOCATED i
  | 3 => s.avail (pgDH i) && s.avail (pgDPTX i)
  | 4 => s.avail (pgCSI i) && s.avail (pgISP i)
  | _ => true

/-- The first failing cause of an ASSIGN with its index (R671). -/
def assignCheck (s : State) (kind p first count : Nat) : Option (Nat × Nat) :=
  let range := (List.range count).map (first + ·)
  if 7 ≤ kind || count = 0 then some (1, first)
  else if resCount kind < first + count then some (1, max first (resCount kind))
  else if (kind = 2 || kind = 5 || kind = 6) && decide (1 < count) then some (1, first)
  else
    match range.find? fun i => resOwner s kind i ≠ mgmt with
    | some i => some (2, i)
    | none =>
      if partState s p ≠ 1 then some (3, first)
      else if (kind = 2 && (ctxOfPart s p).isSome) || (kind = 5 && (vfOf s p).isSome) then some (4, first)
      else (range.find? fun i => !resAvailable s kind i).map fun i => (5, i)

/-- The page of a resource is given to p, which also clears its lock (R93). -/
def pageGive (pg p : Nat) (s : State) : State := (s.wr pg F.OWN_PAGE_OWNER_OWNER p).wr pg F.OWN_PAGE_LOCK_LOCK 0

/-- A function block's FN_ID names the partition it is bound to (22 R638). -/
def fnBind (fn p : Nat) (on : Bool) (s : State) : State :=
  (s.wr (pgFN fn) F.FN_FN_ID_REQUESTER p).wr (pgFN fn) F.FN_FN_ID_BOUND (b2n on)

/-- One resource is given to partition p (R672). -/
def resGive (kind p : Nat) (s : State) (i : Nat) : State :=
  match kind with
  | 0 => (pageGive (pgTILE i) p s).wr pgPART F.PART_P_COUNT_TILES (s.rd pgPART F.PART_P_COUNT_TILES p + 1) p
  | 1 =>
    let s := { s with granOwner := fset (fun _ => mgmt) s.granOwner i p }
    s.wr pgPART F.PART_P_COUNT_GRANULES (s.rd pgPART F.PART_P_COUNT_GRANULES p + 1) p
  | 2 =>
    let s := s.wr pgRTE F.RTE_CTX_BOUND 1 i
    (s.wr pgPART F.PART_P_STATE_CTX i p).wr pgPART F.PART_P_STATE_CTX_VALID 1 p
  | 3 =>
    let s := pageGive (pgDPTX i) p (pageGive (pgDH i) p s)
    s.wr pgPART F.PART_P_STATE_HEADS (s.rd pgPART F.PART_P_STATE_HEADS p ||| 2 ^ i) p
  | 4 =>
    let s := pageGive (pgISP i) p (pageGive (pgCSI i) p s)
    s.wr pgPART F.PART_P_STATE_PIPES (s.rd pgPART F.PART_P_STATE_PIPES p ||| 2 ^ i) p
  | 5 =>
    let s := (s.wr pgPART F.PART_P_STATE_VF i p).wr pgPART F.PART_P_STATE_VF_VALID 1 p
    fnBind (i + 1) p true s
  | _ => (pageGive pgBLT p s).wr pgPART F.PART_P_STATE_BLT 1 p

/-- A write of ASSIGN (R671, R672): all of the range, or nothing. -/
def partAssign (req v : Nat) (s : State) : State :=
  let kind := v % 16
  let p := getBits v 4 5
  let first := s.rd pgPART F.PART_ASSIGN_IDX_FIRST
  let count := s.rd pgPART F.PART_ASSIGN_IDX_COUNT
  match assignCheck s kind p first count with
  | some (r, i) =>
    let s := (s.wr pgPART F.PART_ASSIGN_STATUS_RESULT r).wr pgPART F.PART_ASSIGN_STATUS_INDEX i
    pageFault pgPART causeRefused req true 0x108 (irq pgPART 2 s)
  | none =>
    let s := ((List.range count).map (first + ·)).foldl (resGive kind p) s
    (s.wr pgPART F.PART_ASSIGN_STATUS_RESULT 0).wr pgPART F.PART_ASSIGN_STATUS_INDEX 0

/-- PART_ASSIGN (R671). -/
def execPartAssign (req : Nat) (v : Word) (s : State) : Host.Outcome State Fault Refusal :=
  liveP s (regWrite req (pgPART + 0x108) (partAssign req v.toNat))

/-! DRAIN_SCRUB. -/

/-- The partitions of a mask. -/
def maskParts (m : Nat) : List Nat := (List.range 32).filter (bitOf m)

/-- The tile units and all units of a set of partitions (R677). -/
def tileUnits (s : State) (ps : List Nat) : Nat := ps.foldl (fun n p => n + (s.rd pgPART F.PART_P_COUNT_TILES p + 3) / 4) 0
def drainUnits (s : State) (ps : List Nat) : Nat :=
  tileUnits s ps + ps.foldl (fun n p => n + 1024 * s.rd pgPART F.PART_P_COUNT_GRANULES p) 0

/-- A named partition enters the drain phase: an ACTIVE one is fenced first; one whose scrub failed stays SCRUBBING (R682). -/
def drainEnter (s : State) (p : Nat) : State :=
  let s := fencePart p 0 s
  if partState s p = 2 then setPartState p 3 s else s

/-- An accepted DRAIN_SCRUB over a mask begins (R677). A partition left SCRUBBING by a failed one may be named (R682). -/
def drainRun (m : Nat) (s : State) : State :=
  let ps := maskParts m
  if ps.isEmpty || ps.any (fun p => partState s p = 0 || partState s p = 3) then lopRefuse pgPART resBAD_ARG s
  else
    let s := lopDetail pgPART (drainUnits s ps % 2 ^ 24) s
    let s := ps.foldl drainEnter s
    { s with drain := { mask := ps, scrubbing := false, units := [] } }

/-- A START of DRAIN_SCRUB. -/
def drainStart (req : Nat) : State → State := wakeStart pgPART false (lopStart req pgPART 1 false fun s => drainRun (s.rd pgPART F.LOP_LOP_ARG_ARG 0) s)

/-- DRAIN_SCRUB_START (R677). -/
def execDrainScrubStart (req : Nat) (s : State) : Host.Outcome State Fault Refusal :=
  liveP s (regWrite req (pgPART + 0x40) (drainStart req))

/-- The PN4 starts DRAIN_SCRUB by itself over a mask. -/
def drainAuto (m : Nat) (s : State) : State :=
  let s := lopAccept pgPART 1 s
  drainRun m { s with lopArgs := fset (fun _ => []) s.lopArgs pgPART [m, 0, 0, 0] }

/-- The partitions that wait FENCED, as a mask. -/
def fencedMask (s : State) : Nat := ((List.range 32).filter fun p => partState s p = 2).foldl (fun m p => m + 2 ^ p) 0

/-- PART_AUTO_DRAIN_START (R678). -/
def execPartAutoDrainStart (s : State) : Host.Outcome State Fault Refusal :=
  liveP s fun s =>
    if s.lopActive pgPART || fencedMask s = 0 || !s.running pgPART then s else drainAuto (fencedMask s) s

/-- A request of an endpoint of a tile, pipeline, queue or blitter: all but the apertures of HIF. -/
def ofPartition (t : Track) : Bool := !(decide (t.ep / 64 = 0x29) && decide (t.use = 1))

/-- A partition's drain phase is complete (R679). -/
def drainComplete (s : State) (p : Nat) : Bool :=
  (s.outst.all fun t => t.req ≠ p || t.quar || !ofPartition t) &&
  ((tilesOf s p).all fun t => s.seqState t = stOFF) &&
  (!s.flag pgPART F.PART_P_STATE_BLT p || !s.lopActive pgBLT) &&
  (match vfOf s p with
   | none => true
   | some fn => (queuesOf s fn).all fun q => hqRd s q F.HQ_QCFG_STATE ≠ 1)

/-- The SRAM of a tile is zeroed. -/
def tileScrub (s : State) (t : Nat) : State :=
  { s with sram := mclear s.sram (t * 0x40000) 0x40000, sramErr := mclear s.sramErr (t * 0x8000) 0x8000 }

/-- The granules of a partition. -/
def granulesOf (s : State) (p : Nat) : List Nat := (s.granOwner.filter fun x => x.2 = p).map (·.1)

/-- What a partition held goes back to the management domain (R681). -/
def partRelease (s : State) (p : Nat) : State :=
  let s := (tilesOf s p).foldl (fun s t =>
    let caps := s.word (pgTILE t + 4)
    let s := { s with regs := mclear s.regs (pgTILE t) 0x1000 }
    (s.setWord (pgTILE t + 4) caps).setTile t Tile.fresh) s
  let s := { s with granOwner := s.granOwner.filter fun x => x.2 ≠ p }
  let s := match ctxOfPart s p with | none => s | some c => s.wr pgRTE F.RTE_CTX_BOUND 0 c
  let s := match vfOf s p with | none => s | some fn => fnBind fn 0 false s
  let heads := s.rd pgPART F.PART_P_STATE_HEADS p
  let pipes := s.rd pgPART F.PART_P_STATE_PIPES p
  let s := (List.range 4).foldl (fun s n => if bitOf heads n then pageGive (pgDPTX n) mgmt (pageGive (pgDH n) mgmt s) else s) s
  let s := (List.range 4).foldl (fun s n => if bitOf pipes n then pageGive (pgISP n) mgmt (pageGive (pgCSI n) mgmt s) else s) s
  let s := if s.flag pgPART F.PART_P_STATE_BLT p then pageGive pgBLT mgmt s else s
  let s := { s with outst := s.outst.map fun (t : Track) => if t.req = p then { t with use := 0 } else t }
  (s.setWord (pgPART + 0x140 + 8 * p) 0).setWord (pgPART + 0x144 + 8 * p) 0

/-- The release of every named partition in a single step (R681), and the end of the operation. -/
def drainRelease (s : State) : State :=
  let ps := s.drain.mask
  let s := ps.foldl partRelease { s with drain := { mask := [], scrubbing := false, units := [] } }
  fabDrained (logEv pgPART 0x0C03 s (ps.foldl (fun m p => m + 2 ^ p) 0))

/-- Units of the scrub phase are done; after the last one the partitions are released. -/
def scrubUnits (n : Nat) (s : State) : State :=
  if s.drain.units.isEmpty then lopUnit pgPART n true (drainRelease s) else lopUnits pgPART n s

/-- The drain phase ends: every named partition is SCRUBBING, its tile SRAM is zeroed and counted at once (R680). -/
def drainPhaseEnd (s : State) : State :=
  let ps := s.drain.mask
  let s := ps.foldl (fun s p => setPartState p 4 s) s
  let s := ps.foldl (fun s p => (tilesOf s p).foldl tileScrub s) s
  let us := (ps.flatMap (granulesOf s)).flatMap fun g => (List.range 1024).map fun k => (g, k)
  let n := tileUnits s ps
  let s := { s with drain := { s.drain with scrubbing := true, units := us } }
  if n = 0 && !us.isEmpty then s else scrubUnits n s

/-- PART_DRAIN_PHASE_COMPLETE (R679). -/
def execPartDrainPhaseComplete (s : State) : Host.Outcome State Fault Refusal :=
  liveP s fun s =>
    if lopRuns s pgPART 1 && !s.drain.scrubbing && s.drain.mask.all (drainComplete s) then drainPhaseEnd s else s

/-- The controllers that serve a granule (R314). -/
def granMcus (s : State) (g : Nat) : List Nat := if s.imap (g / 8) then [g % 8] else List.range 8

/-- A unit of 1 MiB is zeroed: its bytes, poison markers and errors (R320, R680). -/
def scrubUnit (g k : Nat) (s : State) : State :=
  let a := g * 2 ^ 30 + k * 2 ^ 20
  let s := s.hbmZero a (2 ^ 20)
  { s with hbmErr := mclear s.hbmErr (a / 32) (2 ^ 15) }

/-- The effect of PART_SCRUB_UNIT_DONE out of reset (R680, R682). -/
def partScrubUnitDoneEffect (s : State) : State :=
  if !(lopRuns s pgPART 1 && s.drain.scrubbing) then s
  else
    match s.drain.units with
    | [] => s
    | (g, k) :: r =>
      if (granMcus s g).any fun n => s.rd (pgMCU n) F.MCU_STATUS_OFFLINE ≠ 0 then
        lopFail pgPART resHW_ERROR g { s with drain := { mask := [], scrubbing := false, units := [] } }
      else if (granMcus s g).any fun n => !s.running (pgMCU n) then s
      else scrubUnits 1 { scrubUnit g k s with drain := { s.drain with units := r } }

/-- PART_SCRUB_UNIT_DONE (R680, R682): a unit ends, or an offline controller fails the operation; the partitions then stay
SCRUBBING. -/
def execPartScrubUnitDone (s : State) : Host.Outcome State Fault Refusal :=
  liveP s partScrubUnitDoneEffect

/-- A write of CNT_CLR (Table 23.4): zeroes DENY, DRAIN_DROPS and the DENY_LOG record. -/
def partCntClr (v : Nat) (s : State) : State :=
  if bitOf v 0 then
    s.zeroWords ((List.range 32).map (fun p => pgPART + 0x240 + 4 * p) ++
      [pgPART + 0x2C0, pgPART + 0x380, pgPART + 0x384, pgPART + 0x388, pgPART + 0x38C, pgPART + 0x390])
  else s

/-- PART_CNT_CLR (R684). -/
def execPartCntClr (req : Nat) (v : Word) (s : State) : Host.Outcome State Fault Refusal :=
  liveP s (regWrite req (pgPART + 0x394) (partCntClr v.toNat))

end Sys2Proof.Machine
end

