-- ==== Sys2Proof/Machine/Fab.lean ====
section
/-! DEFINITION. The fabric manager (16): messages of the conductor and its members, the mailbox, the changeover by the steps
of Table 1.3, route repair and REST. -/
namespace Sys2Proof.Machine
open Sys2Proof

/-- A term is newer than another (R455). -/
def termNewer (a b : Nat) : Bool := a ≠ b && decide ((a + 2 ^ 32 - b % 2 ^ 32) % 2 ^ 32 < 2 ^ 31)

/-- A message other than CANDIDATE with an older TERM is dropped and counted (R455). -/
def unlessStale (h : FabHdr) (f : State → State) (s : State) : State :=
  if termNewer s.term h.term then s.bump pgFAB F.FAB_COUNTS_STALE else f s

/-- The deputy recorded. -/
def deputyOf (s : State) : Option Nat :=
  if s.flag pgFAB F.FAB_CONDUCTOR_DEPUTY_VALID then some (s.rd pgFAB F.FAB_CONDUCTOR_DEPUTY) else none

/-- Records the deputy. -/
def setDeputy (d : Option Nat) (s : State) : State :=
  (s.wr pgFAB F.FAB_CONDUCTOR_DEPUTY (d.getD 0)).wr pgFAB F.FAB_CONDUCTOR_DEPUTY_VALID (b2n d.isSome)

/-- Records the section leader of this chip's group. -/
def setSection (l : Option Nat) (s : State) : State :=
  let s := (s.wr pgFAB F.FAB_SECTION_LEADER (l.getD 0)).wr pgFAB F.FAB_SECTION_VALID (b2n l.isSome)
  s.wr pgFAB F.FAB_ROLE_SECTION_LEADER (b2n (l == some s.chipNum))

/-- A flooded message is new: no newer one of its sender has come (R456). -/
def floodNew (s : State) (h : FabHdr) : Bool :=
  let x := fget (fun _ => (0, 0)) s.fab.seen h.src
  h.src ≠ s.chipNum && (x.2 = 0 || termNewer h.term x.1 || (decide (h.term = x.1) && termNewer h.seq (x.2 - 1)))

/-- It is forwarded, once (R456). -/
def floodOn (g op : Nat) (h : FabHdr) (s : State) : State :=
  let s := s.modFab fun x => { x with seen := fset (fun _ => (0, 0)) x.seen h.src (h.term, h.seq + 1) }
  fabForward h.group { fabPacket s 0x1FFF op (fabHeader h.term h.seq h.key h.group) with src := h.src, port := g } s

/-! The conductor's knowledge. -/

/-- The machine by the plan, with further chips to avoid. -/
def fabNet (s : State) (avoid : List Nat) : Option Net :=
  s.plan.map fun p => { plan := p, cs := circuitsOf s p, down := s.fab.down, avoid := avoid ++ s.fab.avoid }

/-- The chip has joined. -/
def isJoined (s : State) (c : Nat) : Bool := s.fab.joined.any fun m => m.chip = c

/-- The joined chip with the best key among those that a condition admits. -/
def bestMember (s : State) (ok : Nat → Bool) : Option Nat :=
  ((s.fab.joined.filter fun m => ok m.chip).foldl
    (fun (b : Option FabMember) m => match b with | none => some m | some x => if x.key < m.key then some m else some x)
    none).map (·.chip)

/-- The section leader of a group as the conductor appointed it. -/
def leaderOf (s : State) (g : Nat) : Option Nat := (s.fab.leaders.find? fun x => x.1 = g).map (·.2)

/-- What a MIRROR carries. -/
def mirrorOf (s : State) : FabMirror :=
  { queue := s.fab.queue, run := s.fab.run, record := s.fab.record, circuits := s.fab.circuits }

/-- The conductor sends a MIRROR to its deputy (R463). -/
def fabMirror (s : State) : State :=
  match deputyOf s with
  | some d => if d = s.chipNum then s else fabSend d (.mirror (mirrorOf s)) s
  | none => s

/-- The conductor names its deputy (R463): the joined chip with the best key outside its own group, else inside it; never a
chip that asks for REST (R480). -/
def nameDeputy (s : State) : State :=
  let ok (c : Nat) : Bool := c ≠ s.chipNum && !s.fab.avoid.contains c && !s.fab.restWait.contains c
  let d := match bestMember s fun c => ok c && c / 32 ≠ s.chipNum / 32 with
    | some c => some c
    | none => bestMember s ok
  if d = deputyOf s then s else fabMirror (setDeputy d s)

/-- The conductor appoints the best chip of a group that a condition admits as its section leader (R462), and tells it. -/
def appoint (g : Nat) (ok : Nat → Bool) (s : State) : State :=
  match bestMember s fun c => c / 32 = g && ok c with
  | none =>
    let s := s.modFab fun x => { x with leaders := x.leaders.filter fun l => l.1 ≠ g }
    if g = s.chipNum / 32 then withRoles (setSection none) s else s
  | some c =>
    let s := s.modFab fun x => { x with leaders := (x.leaders.filter fun l => l.1 ≠ g) ++ [(g, c)] }
    let s := if g = s.chipNum / 32 then withRoles (setSection (some c)) s else s
    let s := logEv pgFAB 0x0661 s g c
    if c = s.chipNum then s else fabSend c (.order (.leader c)) s

/-- The BEAT of the conductor (R459). -/
def fabBeat (s : State) : State := fabFlood (.beat (deputyOf s) s.fab.leaders) s

/-- The chip becomes conductor under a term (R458, R459), with the state its predecessor mirrored. -/
def becomeConductor (term : Nat) (m : Option FabMirror) (s : State) : State :=
  let s := withRoles (fun s =>
    let s := s.wr pgFAB F.FAB_TERM_TERM term
    let s := (s.setWord (pgFAB + 0x104) 0x5).setWord (pgFAB + 0x108) 0
    let s := (s.wr pgFAB F.FAB_CONDUCTOR_CHIP s.chipNum).wr pgFAB F.FAB_CONDUCTOR_VALID 1
    s.modFab fun x =>
      { x with condKey := ownKey s, leaders := [], mirror := none, avoid := [], restWait := [], endWait := [],
               joined := [{ chip := s.chipNum, key := ownKey s, scale := scaleOk s, seq := 0 }],
               queue := (m.map (·.queue)).getD [], run := (m.map (·.run)).getD none, record := (m.map (·.record)).getD [],
               circuits := (m.map (·.circuits)).getD none, recompute := true }) s
  let s := logEv pgFAB 0x0660 { s with parent := none } s.chipNum
  appoint (s.chipNum / 32) (fun _ => true) (fabBeat s)

/-! Answers. -/

/-- The answer to this chip's mailbox request (R465). -/
def mbxAnswer (tag result detail : Nat) (s : State) : State :=
  if s.rd pgFAB F.FAB_MBX_STATUS_STATE = 1 then
    let s := (s.wr pgFAB F.FAB_MBX_STATUS_STATE 2).wr pgFAB F.FAB_MBX_STATUS_RESULT result
    let s := (s.wr pgFAB F.FAB_MBX_STATUS_TAG tag).wr pgFAB F.FAB_MBX_DETAIL_DETAIL detail
    irq pgFAB 0 ((s.wr64 pgFAB F.FAB_MBX_MET_LO_MET F.FAB_MBX_MET_HI_MET s.met).modFab fun x => { x with mbx := none })
  else s

/-- The conductor answers a request; a DETAIL that the spec does not give is a free value. A dissolve of the conductor's own
has nobody to answer. -/
def fabAnswer (r : FabReq) (result : Nat) (detail : Option Nat) (s : State) : State :=
  if r.code = 0 then s
  else
    let (d, s) := match detail with
      | some d => (d, s)
      | none => s.free 32
    fabTell r.chip (.order (.answer r.tag result d)) s

/-- The running request ends without failure (step 7). -/
def fabFinish (s : State) : State :=
  match s.fab.run with
  | none => s
  | some r =>
    let s := fabAnswer r.req 0 none (s.modFab fun x => { x with run := none })
    fabMirror (logEv pgFAB 0x0663 s r.req.chip r.req.tag)

/-- The running request ends with a result at step 1. -/
def fabReject (result : Nat) (detail : Option Nat) (s : State) : State :=
  match s.fab.run with
  | none => s
  | some r => fabMirror (fabAnswer r.req result detail (s.modFab fun x => { x with run := none, pend := [], fly := [] }))

/-- A request fails after step 1 (R470): the contexts allocated for it are freed, and event 0x2664 names the step and the
chip. -/
def fabFail (result chip : Nat) (s : State) : State :=
  match s.fab.run with
  | none => s
  | some r =>
    let frees : List FabOp := r.got.map fun g => .alloc g.2.1 g.1 true
    let s := s.modFab fun x =>
      { x with run := none, pend := frees, fly := [], dgrams := x.dgrams.filter (·.recirc),
               record := x.record.filter fun a => !r.got.any fun g => g.1 = a.slice }
    let s := fabAnswer r.req result (if result = 9 then some chip else none) s
    fabMirror (logEv pgFAB 0x2664 s r.step chip)

/-! The request block (Table 16.6). -/

/-- A slice to carve. -/
structure Carve where
  slice : Nat
  chips : List Nat
  deriving DecidableEq, Repr

/-- A changeover as its block states it. -/
structure Changeover where
  dissolve : List Nat
  carve : List Carve
  /-- Switch, port a, port b, connect. -/
  circuits : List (Nat × Nat × Nat × Bool)
  stdSet : Bool
  limit : Nat
  deriving DecidableEq, Repr

/-- Word k of a block. -/
def blockWord (b : List Byte) (k : Nat) : Nat := fieldOf b (4 * k) 4

/-- The ranges of one slice, from a word on: its chips, or the word of a range that runs backward. -/
def blockRanges (b : List Byte) (k : Nat) : Nat → Except Nat (List Nat)
  | 0 => .ok []
  | n + 1 =>
    let w := blockWord b k
    let lo := w % 2 ^ 13
    let hi := getBits w 13 13
    if hi < lo then .error (4 * k)
    else
      match blockRanges b (k + 1) n with
      | .ok l => .ok ((List.range (hi + 1 - lo)).map (lo + ·) ++ l)
      | .error e => .error e

/-- The slices to carve, from a word on, with the word after them; an error is the byte offset of what is malformed. -/
def blockCarves (b : List Byte) (len k : Nat) : Nat → Except Nat (List Carve × Nat)
  | 0 => .ok ([], k)
  | n + 1 =>
    let w := blockWord b k
    let r := w / 2 ^ 16
    if len < 4 * (k + 1 + r) then .error (4 * k)
    else
      match blockRanges b (k + 1) r with
      | .error e => .error e
      | .ok l =>
        match blockCarves b len (k + 1 + r) n with
        | .ok (cs, k') => .ok ({ slice := w % 2 ^ 12, chips := l } :: cs, k')
        | .error e => .error e

/-- Reads a request block of a length; an error is the byte offset of what is malformed (R466, Table 16.6). -/
def readBlock (b : List Byte) (len : Nat) : Except Nat Changeover :=
  if b.length < len || len < 0x10 || fieldOf b 0 4 ≠ 0x43484731 then .error 0
  else
    let nd := fieldOf b 4 2
    let nc := fieldOf b 6 2
    let nk := fieldOf b 8 2
    if len < 0x10 + 4 * nd then .error 4
    else
      match blockCarves b len (4 + nd) nc with
      | .error e => .error e
      | .ok (cs, k) =>
        if len < 4 * (k + nk) then .error 8
        else
          .ok { dissolve := (List.range nd).map fun i => blockWord b (4 + i) % 2 ^ 12
                carve := cs
                circuits := (List.range nk).map fun i =>
                  let w := blockWord b (k + i)
                  (w % 256, getBits w 8 8, getBits w 16 8, bitOf w 24)
                stdSet := bitOf (fieldOf b 0xA 2) 0
                limit := fieldOf b 0xC 4 }

/-- The changeover of a request: its block, or the dissolves of a merge. -/
def changeOf (r : FabReq) : Changeover :=
  let none : Changeover := { dissolve := [], carve := [], circuits := [], stdSet := false, limit := 0 }
  if r.code = 2 then (match readBlock r.block (r.args.getD 1 0) with | .ok c => c | .error _ => none) else none

/-- The entry of the record for a slice. -/
def allocOf (s : State) (sl : Nat) : Option FabAlloc := s.fab.record.find? fun a => a.slice = sl

/-- The slices that a request dissolves, with the chips that hold them. -/
def departing (s : State) (r : FabReq) : List (Nat × List Nat) :=
  r.dissolve ++ (changeOf r).dissolve.filterMap fun sl => (allocOf s sl).map fun a => (sl, a.chips)

/-- The circuit changes of a request, as switch and entry, disconnects first (R472). -/
def circuitChanges (s : State) (p : Plan) (c : Changeover) : List (Nat × Nat × Nat × Bool) :=
  let cs := circuitsOf s p
  let std := stdCircuits p
  let set := if c.stdSet then
      (cs.filter fun k => !std.contains k).map (fun k => (k.1, k.2.1, k.2.2, false)) ++
      (std.filter fun k => !cs.contains k).map (fun k => (k.1, k.2.1, k.2.2, true))
    else []
  let l := set ++ c.circuits
  (l.filter fun e => !e.2.2.2) ++ l.filter fun e => e.2.2.2

/-- A switch port is cabled to a Z port of a present group. -/
def cabled (p : Plan) (sw q : Nat) : Bool :=
  match holderOf p sw q with
  | none => false
  | some (c, _) => bitOf (grp p (c / 32)) 0

/-- How many contexts a chip needs after a changeover. -/
def ctxNeed (s : State) (c : Changeover) (chip : Nat) : Nat :=
  (s.fab.record.filter fun a => a.chips.contains chip && !c.dissolve.contains a.slice).length +
  (c.carve.filter fun v => v.chips.contains chip).length

/-- A list names something twice. -/
def hasTwice : List Nat → Bool
  | [] => false
  | a :: r => r.contains a || hasTwice r

/-- The checks of R468, in order: the result and DETAIL of the first that fails. -/
def changeCheck (s : State) (c : Changeover) : Option (Nat × Option Nat) :=
  let scale (chip : Nat) : Bool := s.fab.joined.any fun m => m.chip = chip && m.scale
  let chips := c.carve.flatMap (·.chips)
  if c.carve.any fun v => (allocOf s v.slice).isSome && !c.dissolve.contains v.slice then some (5, none)
  else if hasTwice c.dissolve || hasTwice (c.carve.map (·.slice)) then some (5, none)
  else if chips.any fun k => !isJoined s k then some (4, none)
  else
    match ((c.carve.filter fun v => decide (32 < v.chips.eraseDups.length)).flatMap (·.chips)).find? fun k => !scale k with
    | some k => some (3, some k)
    | none =>
      if chips.any fun k => decide (32 < ctxNeed s c k) then some (6, none)
      else
        match s.plan with
        | none => if c.circuits.isEmpty then none else some (4, none)
        | some p =>
          if c.circuits.any fun e => !(cabled p e.1 e.2.1 && cabled p e.1 e.2.2.1) then some (4, none) else none

/-! The steps. -/

/-- Changes the running request. -/
def modRun (f : FabRun → FabRun) (s : State) : State := s.modFab fun x => { x with run := x.run.map f }

/-- Adds remote accesses to make. -/
def addOps (l : List FabOp) (s : State) : State := s.modFab fun x => { x with pend := x.pend ++ l }

/-- The management Ethernet is set up (R472). -/
def swReady (s : State) : Bool := s.rd pgFAB F.FAB_SW_NET_NET ≠ 0 && s.rd pgFAB F.FAB_MGMT_IP_ADDR ≠ 0

/-- Sends the first datagram to each switch that has none in flight (R472). -/
def dgramsGo (s : State) : State :=
  s.fab.dgrams.foldl (fun s d =>
    if d.sent || (s.fab.dgrams.any fun x => x.sw = d.sw && x.sent) then s
    else
      let n := (s.fab.swSeq + 1) % 2 ^ 32
      let s := s.modFab fun x =>
        { x with swSeq := n, dgrams := x.dgrams.map fun y => if y = d then { y with sent := true, seq := n, tries := 1 } else y }
      { s with outbox := s.outbox ++ [.datagram d.sw n s.term d.entries] }) s

/-- Queues the entries of one step, for each switch, in datagrams of at most 64. -/
def dgramsFor (recirc : Bool) (l : List (Nat × Nat × Nat × Bool)) (s : State) : State :=
  let sws := (l.map (·.1)).eraseDups
  let ds : List FabDgram := sws.flatMap fun sw =>
    let es := (l.filter fun e => e.1 = sw).map (·.2)
    (List.range ((es.length + 63) / 64)).map fun i =>
      { sw := sw, seq := 0, sent := false, tries := 0, entries := (es.drop (64 * i)).take 64, recirc := recirc }
  dgramsGo (s.modFab fun x => { x with dgrams := x.dgrams ++ ds })

/-- The chip offset of a register of RTE. -/
def rteOff (o : Nat) : Nat := winBase + pgRTE + o

/-- The Z ports whose partner differs between two sets of circuits, with the new partner. -/
def zChanges (p : Plan) (a b : List (Nat × Nat × Nat)) (l : List (Nat × Nat × Nat × Bool)) :
    List (Nat × Nat × Option (Nat × Nat)) :=
  let ends := (l.flatMap fun e => [holderOf p e.1 e.2.1, holderOf p e.1 e.2.2.1]).filterMap id
  (ends.eraseDups.filter fun x => zPartner p a x.1 x.2 ≠ zPartner p b x.1 x.2).map fun x => (x.1, x.2, zPartner p b x.1 x.2)

/-- The word of a ZPEER register. -/
def zpeerWord (x : Option (Nat × Nat)) : Nat :=
  match x with | none => 0 | some (c, g) => c + g * 2 ^ 13 + 2 ^ 31

/-- What a step does when it begins (R469). -/
def stepEnter (n : Nat) (s : State) : State :=
  match s.fab.run with
  | none => s
  | some r =>
    let s := modRun (fun r => { r with step := n, phase := 0, waits := [] }) s
    match n with
    | 2 =>
      let l := (departing s r.req).flatMap fun d => d.2.map fun c => (c, d.1)
      let s := modRun (fun r => { r with waits := l.map (·.1) }) s
      l.foldl (fun s x => fabTell x.1 (.order (.drain x.2)) s) s
    | 3 => addOps ((departing s r.req).flatMap fun d => d.2.map fun c => .alloc c d.1 true) s
    | 4 =>
      match s.plan with
      | none => modRun (fun r => { r with phase := 3 }) s
      | some p =>
        let l := circuitChanges s p (changeOf r.req)
        if l.isEmpty then modRun (fun r => { r with phase := 3 }) s
        else if !swReady s then fabFail 7 s.chipNum s
        else
          let cs := circuitsOf s p
          let z := zChanges p cs (l.foldl (fun cs e => circuitApply e.1 cs e.2) cs) l
          dgramsFor false l (modRun (fun r => { r with zports := z }) s)
    | 5 =>
      let s := modRun (fun r => { r with waits := (r.zports.filter fun z => z.2.2.isSome).map (·.1) }) s
      r.zports.foldl (fun s z => fabTell z.1 (.order (.retrain (16 + z.2.1))) s) s
    | 6 =>
      let cs := (changeOf r.req).carve
      let s := s.modFab fun x =>
        { x with record := x.record ++ cs.map fun v =>
            { slice := v.slice, chips := v.chips.eraseDups, ctxs := [], tick := s.met, own := true } }
      let todo := cs.flatMap fun v => (v.chips.eraseDups.filter fun c => !r.got.any fun g => g.1 = v.slice && g.2.1 = c).map fun c => (v.slice, c)
      addOps (todo.map fun x => .alloc x.2 x.1 false) s
    | _ => s

/-- A member of a slice has its context (step 6): its reach mask and GROUP_TABLE are written. -/
def ctxReady (sl chip c : Nat) (s : State) : State :=
  let s := modRun (fun r => { r with got := r.got ++ [(sl, chip, c)] }) s
  let s := s.modFab fun x =>
    { x with record := x.record.map fun a => if a.slice = sl then { a with ctxs := (a.ctxs.filter fun y => y.1 ≠ chip) ++ [(chip, c)] } else a }
  let chips := match allocOf s sl with | none => [] | some a => a.chips
  let word (k : Nat) : Nat := (chips.filter fun x => x / 32 = k).foldl (fun w x => w + 2 ^ (x % 32)) 0
  let reach : List FabOp := ((List.range 256).filter fun k => word k ≠ 0).map fun k => .write chip (winBase + ctxBase c + 0x800 + 4 * k) (word k)
  let grp : List FabOp := match fabNet s [] with
    | none => []
    | some n => (n.groupWords s (ctxBase c) chip).map fun x => .write chip (winBase + x.1) x.2
  addOps (reach ++ grp) s

/-- The LOCAL_TABLE words of a slice's contexts in a group (step 6), and of the transit tables (Table 16.1). -/
def localOps (s : State) (n : Net) (l : List (Nat × Nat)) : List FabOp :=
  l.flatMap fun x => (n.localWords s x.2 x.1).map fun y => .write x.1 (winBase + y.1) y.2

/-- Step 6 goes on: each section leader, or the conductor where none stands, writes the LOCAL_TABLE entries. -/
def localOrders (r : FabRun) (s : State) : State :=
  let slices := (r.got.map (·.1)).eraseDups
  slices.foldl (fun s sl =>
    let ms := (r.got.filter fun g => g.1 = sl).map (·.2)
    let gs := (ms.map fun m => m.1 / 32).eraseDups
    gs.foldl (fun s g =>
      let mem := ms.filter fun m => m.1 / 32 = g
      match leaderOf s g with
      | some l =>
        fabTell l (.order (.localTables sl mem)) (modRun (fun r => { r with waits := r.waits ++ [l] }) s)
      | none =>
        match fabNet s [] with
        | none => s
        | some n => addOps (localOps s n (mem.map fun m => (m.1, ctxBase m.2))) s) s) s

/-- Everything the step under way waits for has happened. -/
def stepIdle (s : State) (r : FabRun) : Bool :=
  r.waits.isEmpty && s.fab.pend.isEmpty && s.fab.fly.isEmpty && !s.fab.dgrams.any fun d => !d.recirc || decide (r.req.code = 6)

/-- The next step begins; a recompute that is due runs first, at the boundary (R471, R485). -/
def stepNext (n : Nat) (s : State) : State := if s.fab.recompute then s else stepEnter n (fabMirror s)

/-- The departing slices leave the record. -/
def forgetSlices (l : List (Nat × List Nat)) (s : State) : State :=
  s.modFab fun x => { x with record := x.record.filter fun a => !l.any fun d => d.1 = a.slice && d.2 == a.chips }

/-- The running request goes on when its step is complete (R469). -/
def stepAdvance (s : State) : State :=
  match s.fab.run with
  | none => s
  | some r =>
    if !stepIdle s r then s
    else if r.req.code = 1 || r.req.code = 6 then fabFinish s
    else
      match r.step, r.phase with
      | 2, _ => stepNext 3 s
      | 3, _ => if s.fab.recompute then s else let d := departing s r.req; stepEnter 4 (fabMirror (forgetSlices d s))
      | 4, 0 =>
        let w : List FabOp := r.zports.map fun z => .write z.1 (rteOff (0x300 + 4 * z.2.1)) (zpeerWord z.2.2)
        addOps w (modRun (fun r => { r with phase := 1 }) s)
      | 4, 1 => modRun (fun r => { r with phase := 2 }) s
      | 4, 2 => s
      | 4, _ => stepNext 5 s
      | 5, _ => stepNext 6 s
      | 6, 0 => localOrders r (modRun (fun r => { r with phase := 1 }) s)
      | 6, 1 =>
        addOps (r.got.map fun g => .write g.2.1 (rteOff (0x120 + 4 * g.2.2)) 0x2000) (modRun (fun r => { r with phase := 2 }) s)
      | 6, _ => if s.fab.recompute then s else fabFinish (modRun (fun r => { r with step := 7 }) s)
      | _, _ => s

/-- Words as bytes. -/
def wordsBytes (l : List Nat) : List Byte := l.flatMap (leBytes 4)

/-- The report block of a QUERY (Table 16.8). -/
def queryBlock (s : State) : List Byte :=
  let act := s.fab.record
  let pres (k : Nat) : Nat :=
    (List.range 32).foldl (fun w b => if s.fab.joined.any (fun m => m.chip / 32 = 32 * k + b) then w + 2 ^ b else w) 0
  wordsBytes [s.term, s.chipNum + (deputyOf s).getD 0 * 2 ^ 16, s.fab.joined.length, act.length] ++
  wordsBytes ((List.range 8).map pres) ++
  ((List.range 256).flatMap fun g => leBytes 2 ((leaderOf s g).getD 0xFFFF)) ++
  (act.flatMap fun a => leBytes 4 (a.slice + a.chips.length % 2 ^ 16 * 2 ^ 16)) ++
  (act.flatMap fun a => leBytes 8 a.tick)

/-- Writes of bytes at a chip offset, in pieces of 256. -/
def dataOps (dst : Nat) : Nat → Nat → List Byte → List FabOp
  | 0, _, _ => []
  | n + 1, off, bs => if bs.isEmpty then [] else .data dst off (bs.take 256) :: dataOps dst n (off + 256) (bs.drop 256)

/-- A request of the queue starts (R466-R469). -/
def fabStart (q : FabReq) (s : State) : State :=
  let s := s.modFab fun x => { x with run := some { req := q, step := 1, phase := 0, waits := [], got := [], zports := [] } }
  let a := q.args.getD 0 0
  match q.code with
  | 0 => stepEnter 2 s
  | 1 => addOps (dataOps q.chip 16 (a * 256) ((queryBlock s).take 4096)) s
  | 2 =>
    match readBlock q.block (q.args.getD 1 0) with
    | .error e => fabReject 2 (some e) s
    | .ok c =>
      match changeCheck s c with
      | some (r, d) => fabReject r d s
      | none => stepEnter 2 s
  | 4 => addOps [.partner (a % 2 ^ 13) (getBits a 13 5)] s
  | 5 => fabFinish (fabSend (a % 2 ^ 13) .resetReq s)
  | 6 =>
    let sw := a % 256
    let e := (sw, getBits a 8 8, getBits a 16 8, true)
    match s.plan with
    | none => fabReject 4 none s
    | some p =>
      if !(cabled p sw e.2.1 && cabled p sw e.2.2.1) then fabReject 4 none s
      else if !swReady s then fabReject 7 none s
      else dgramsFor true [e] s
  | _ => fabReject 2 (some 0) s

/-! Routes. -/

/-- The conductor rewrites every table of every joined chip (Table 16.9), each entry by one write (R446), and every chip's
transit table is in force. -/
def recomputeOps (s : State) (n : Net) : List FabOp :=
  s.fab.joined.flatMap fun m =>
    let bases := 0x140000 :: ((s.fab.record.flatMap (·.ctxs)).filter fun x => x.1 = m.chip).map fun x => ctxBase x.2
    (bases.flatMap fun b => (n.groupWords s b m.chip ++ n.localWords s b m.chip).map fun y => FabOp.write m.chip (winBase + y.1) y.2) ++
      [.write m.chip (rteOff 0x10C) 1]

/-- The section leader rewrites the LOCAL_TABLE entries of its group (Table 16.9); where it cannot connect the group, it
tells the conductor. -/
def sectionRepair (s : State) : State :=
  match fabNet s [] with
  | none => s
  | some n =>
    let base := s.chipNum - s.chipNum % 32
    let chips := (List.range 32).map (base + ·) |>.filter (listed n.plan)
    let s := addOps (localOps s n (chips.map fun c => (c, 0x140000))) s
    let s := addOps (localOps s n (s.fab.tables.map fun t => (t.2.1, ctxBase t.2.2))) s
    if chips.any fun a => chips.any fun b => !n.reach s a b then
      match conductorOf s with
      | none => s
      | some c => fabTell c (.event .unable) s
    else s

/-- Why the conductor refuses a REST request (R479). -/
def restReason (chip : Nat) (bound : Bool) (s : State) : Nat :=
  let cut := match fabNet s [chip] with
    | none => false
    | some n => s.fab.record.any fun a => a.chips.any fun x => a.chips.any fun y => !n.reach s x y
  if bound then 1
  else if cut then 2
  else match s.fab.run with
    | some r => if r.step = 4 || r.step = 5 then 3 else 0
    | none => 0

/-- A REST request reaches the conductor (R479, R480): a deputy or section leader is replaced first; then the request is
refused, or waits for the recompute. -/
def restAsk (chip : Nat) (bound : Bool) (s : State) : State :=
  let s := if leaderOf s (chip / 32) == some chip then appoint (chip / 32) (· ≠ chip) s else s
  let s := if deputyOf s == some chip then
      let s := nameDeputy (s.modFab fun x => { x with restWait := x.restWait ++ [chip] })
      s.modFab fun x => { x with restWait := x.restWait.erase chip }
    else s
  match restReason chip bound s with
  | 0 => s.modFab fun x => { x with avoid := chip :: x.avoid.erase chip, restWait := x.restWait ++ [chip], recompute := true }
  | k => logEv pgFAB 0x1666 (fabTell chip (.order (.restAnswer false k)) s) chip k

/-- A recompute ends (R476, R479, R481): the entries are written, LAST_RECOMPUTE and event 0x1668 follow, and every REST
request and end that waited for it is answered. -/
def recomputeEnd (us : Nat) (s : State) : State :=
  let s := match fabNet s [] with | none => s | some n => addOps (recomputeOps s n) s
  let s := s.wr pgFAB F.FAB_LAST_RECOMPUTE_US us
  let s := logEv pgFAB 0x1668 (irq pgFAB 3 s) us
  let s := s.fab.restWait.foldl (fun s c =>
    let s := fabTell c (.order (.transit false)) s
    logEv pgFAB 0x0665 (fabTell c (.order (.restAnswer true 0)) s) c) s
  let s := s.fab.endWait.foldl (fun s c =>
    let s := if (match fabNet s [] with | none => false | some n => n.isTransit s c) then fabTell c (.order (.transit true)) s else s
    fabTell c (.order .restEndOk) s) s
  fabMirror (s.modFab fun x => { x with restWait := [], endWait := [], recompute := false })

/-! Events and orders. -/

/-- A mailbox request reaches the conductor (R466, R467): CANCEL is judged at once, the others queue, 16 at most. -/
def reqArrive (q : FabReq) (s : State) : State :=
  if q.code = 3 then
    let t := q.args.getD 0 0 % 2 ^ 16
    match s.fab.queue.find? fun x => x.code = 2 && x.tag = t with
    | some x => fabAnswer q 0 none (fabAnswer x 10 none (s.modFab fun y => { y with queue := y.queue.erase x }))
    | none => fabAnswer q 11 none s
  else if 16 ≤ s.fab.queue.length + (match s.fab.run with | none => 0 | some _ => 1) then fabAnswer q 1 none s
  else s.modFab fun x => { x with queue := x.queue ++ [q] }

/-- A port of a chip changes (R475): a Z port makes the conductor recompute; an X or Y port is repaired by the section
leader, or by the conductor where none stands (R462). -/
def portChange (src p : Nat) (isDown : Bool) (lanes : Bool) (s : State) : State :=
  let s := if lanes then s
    else s.modFab fun x => { x with down := if isDown then (src, p) :: x.down.erase (src, p) else x.down.erase (src, p) }
  if 16 ≤ p then (if s.isConductor then s.modFab fun x => { x with recompute := true } else s)
  else if s.flag pgFAB F.FAB_ROLE_SECTION_LEADER && src / 32 = s.chipNum / 32 then sectionRepair s
  else if s.isConductor then s.modFab fun x => { x with recompute := true }
  else s

/-- What an EVENT makes its receiver do. -/
def eventDo (src : Nat) (e : FabEvent) (s : State) : State :=
  match e with
  | .portDown p => portChange src p true false s
  | .portUp p => portChange src p false false s
  | .laneDrop p _ => portChange src p false true s
  | .stepDone n =>
    match s.fab.run with
    | some r => if r.step = n then modRun (fun r => { r with waits := r.waits.erase src }) s else s
    | none => s
  | .stepFail k => if s.isConductor then fabFail k src s else s
  | .slLost l =>
    if s.isConductor && leaderOf s (src / 32) == some l then appoint (src / 32) (· ≠ l) s else s
  | .unable => if s.isConductor then s.modFab fun x => { x with recompute := true } else s
  | .restRequest bound _ => if s.isConductor then restAsk src bound s else s
  | .restEnd =>
    if s.isConductor then
      s.modFab fun x => { x with avoid := x.avoid.erase src, restWait := x.restWait.erase src, endWait := x.endWait ++ [src], recompute := true }
    else s
  | .mailbox c t a b =>
    if s.isConductor then reqArrive { chip := src, code := c, tag := t, args := a, block := b, dissolve := [] } s else s

/-- An order to drain (step 2): DRAIN_SCRUB starts over the partitions bound to the slice's context; while another one runs
they are fenced and wait for the next (23 R678). -/
def orderDrain (sl : Nat) (s : State) : State :=
  let ps := match ctxOfSlice s sl with
    | none => []
    | some c => (List.range 32).filter fun p => ctxOfPart s p == some c && partState s p ≠ 0
  let s := s.modFab fun x => { x with drains := x.drains ++ [ps] }
  let go := ps.filter fun p => partState s p ≠ 3
  if go.isEmpty then fabDrained s
  else if s.lopActive pgPART || !s.running pgPART then go.foldl (fun s p => fencePart p 0 s) s
  else
    let m := go.foldl (fun m p => m + 2 ^ p) 0
    lopStart mgmt pgPART 1 false (drainRun m) (s.wr pgPART F.LOP_LOP_ARG_ARG m 0)

/-- An order to retrain a port in FULL mode (step 5, 13 R367). -/
def orderRetrain (g : Nat) (s : State) : State :=
  let pg := pgLX (g / 4)
  let s := s.modFab fun x => { x with retr := g :: x.retr.erase g }
  if s.lopActive pg then s
  else
    let s := (s.wr pg F.LOP_LOP_ARG_ARG (g % 4) 0).wr pg F.LOP_LOP_ARG_ARG 0 1
    lopStart mgmt pg 1 false (retrainRun (g / 4)) s

/-- The deputy succeeds the conductor under the next term (R459, R480). -/
def succeed (s : State) : State :=
  let old := (conductorOf s).getD 0
  let s := becomeConductor ((s.term + 1) % 2 ^ 32) s.fab.mirror s
  let s := s.bump pgFAB F.FAB_ELECTIONS_SUCCESSIONS
  let s := logEv pgFAB 0x0662 s old s.chipNum
  match s.fab.run with
  | some r => if 2 ≤ r.step then stepEnter r.step s else fabStart r.req s
  | none => s

/-- What an ORDER makes its receiver do. -/
def orderDo (o : FabOrder) (s : State) : State :=
  match o with
  | .drain sl => orderDrain sl s
  | .retrain p => orderRetrain p s
  | .leader c =>
    let s := withRoles (setSection (some c)) s
    if c = s.chipNum then sectionRepair s else s
  | .localTables sl ms =>
    let s := s.modFab fun x =>
      { x with tables := (x.tables.filter fun t => t.1 ≠ sl) ++ ms.map fun m => (sl, m.1, m.2), tablesDue := x.tablesDue + 1 }
    match fabNet s [] with
    | none => s
    | some n => addOps (localOps s n (ms.map fun m => (m.1, ctxBase m.2))) s
  | .admitPort p on => topoRecheck (s.wr pgFAB F.FAB_ADMIT_PORTS (putBits (s.rd pgFAB F.FAB_ADMIT_PORTS) p 1 (b2n on)))
  | .transit on => restTransit on s
  | .restAnswer ok r =>
    let s := (s.wr pgFAB F.FAB_REST_STATUS_ANSWER (if ok then 1 else 2)).wr pgFAB F.FAB_REST_STATUS_REASON r
    if ok then restAcked s else s
  | .restEndOk => restEndConfirmed s
  | .answer t r d => mbxAnswer t r d s
  | .succeed => if s.flag pgFAB F.FAB_ROLE_DEPUTY then succeed s else s

end Sys2Proof.Machine
end

