-- ==== Sys2Proof/Machine/FabCmd.lean ====
section
/-! DEFINITION. The commands of the fabric manager (16), with what each makes it send and carry on. -/
namespace Sys2Proof.Machine
open Sys2Proof

/-! Carrying on. -/

/-- The endpoint of the fabric manager at the MGC. -/
def epFAB : Nat := 0xA80

/-- A remote access as a request (R469): TC7, of the management domain. -/
def opAsk (id : Nat) (o : FabOp) : Ask :=
  let ask (dst off op words : Nat) (data : List Byte) : Ask :=
    { ep := epFAB, req := mgmt, dst := dst, offset := off, op := op, words := words, data := data, tc := 7, ordered := false,
      use := 1, arg := id, arg2 := 0 }
  match o with
  | .write dst off w => ask dst off opWRITE 1 (leBytes 4 w)
  | .data dst off bs => ask dst off opWRITE (bs.length / 4) bs
  | .alloc dst sl free => ask dst (rteOff 0x108) opWRITE 1 (leBytes 4 (sl + b2n free * 2 ^ 16))
  | .scan dst _ i _ => ask dst (rteOff (0x120 + 4 * i)) opREAD 1 []
  | .partner dst p => ask dst (winBase + pgLX (p / 4) + fldOff F.LX_PARTNER_CHIP 0 (p % 4)) opREAD 1 []

/-- Sends remote accesses while fewer than 200 are in flight. -/
def fabPump (s : State) : State :=
  let n := 200 - s.fab.fly.length
  let go := s.fab.pend.take n
  let s := s.modFab fun x => { x with pend := x.pend.drop n }
  go.foldl (fun s o =>
    let id := s.fab.opNum
    send (opAsk id o) (s.modFab fun x => { x with fly := x.fly ++ [(id, o)], opNum := id + 1 })) s

/-- Handles a message of this chip to itself. -/
def mailDo (b : FabBody) (s : State) : State :=
  match b with
  | .event e => eventDo s.chipNum e s
  | .order o => orderDo o s
  | _ => s

/-- One piece of work the fabric manager can do at once, if there is one. -/
def fabOne (s : State) : Option State :=
  match s.fab.mail with
  | b :: r => some (mailDo b (s.modFab fun x => { x with mail := r }))
  | [] =>
    if 0 < s.fab.tablesDue && s.fab.pend.isEmpty && s.fab.fly.isEmpty then
      some (fabReport 6 (s.modFab fun x => { x with tablesDue := x.tablesDue - 1 }))
    else
      match s.fab.run, s.fab.queue with
      | some _, _ =>
        let t := stepAdvance s
        if t.fab.run = s.fab.run then none else some t
      | none, q :: r => some (fabStart q (s.modFab fun x => { x with queue := r }))
      | none, [] => none

/-- Does what can be done at once. -/
def fabSettle : Nat → State → State
  | 0, s => s
  | n + 1, s => match fabOne s with | none => s | some t => fabSettle n t

/-- The conductor hands over to its deputy (R480) and waits as a member for its BEAT. -/
def handOver (s : State) : State :=
  match deputyOf s with
  | none => s
  | some d =>
    let s := fabSend d (.order .succeed) (fabMirror s)
    withRoles (fun s =>
      let s := ((s.wr pgFAB F.FAB_ROLE_CONDUCTOR 0).wr pgFAB F.FAB_CONDUCTOR_VALID 0).modFab fun x =>
        { x with queue := [], run := none, joined := [], leaders := [], pend := [], fly := [], dgrams := [] }
      s) s

/-- Announcements and mailbox requests go to the conductor once one is recorded (R465, R479, R480). -/
def fabOut (s : State) : State :=
  match conductorOf s with
  | none => s
  | some c =>
    let s := match s.fab.mbx with
      | none => s
      | some q => fabTell c (.event (.mailbox q.code q.tag q.args q.block)) (s.modFab fun x => { x with mbx := none })
    match s.fab.out with
    | [] => s
    | l =>
      if c = s.chipNum && l.contains 1 then handOver s
      else
        let bound := (List.range 32).any fun i => s.flag pgRTE F.RTE_CTX_BOUND i
        let t := s.flag pgPWR F.PWR_REST_TRANSIT
        l.foldl (fun s k => fabTell c (.event (if k = 1 then .restRequest bound t else .restEnd)) s)
          (s.modFab fun x => { x with out := [] })

/-- A command of the fabric manager: it acts while the manager runs, and what follows at once is done with it. -/
def fabDo (f : State → State) (s : State) : State :=
  if fabOn s then fabPump (fabSettle 4096 (fabOut (f s))) else s

/-- What a remote access returns. -/
def opResult (o : FabOp) (r : Res) (s : State) : State :=
  let again (s : State) : State := if s.fab.run.isSome then addOps [o] s else s
  match o, r with
  | .write _ _ _, .ack => s
  | .data _ _ _, .ack => s
  | .alloc dst sl free, .ack => addOps [.scan dst sl 0 free] s
  | .scan dst sl i free, .data bs _ =>
    let w := leNat bs
    if bitOf w 12 && decide (w % 2 ^ 12 = sl) then
      if free then addOps [.alloc dst sl true] s
      else if s.fab.run.isSome then ctxReady sl dst i s
      else s
    else if i < 31 then addOps [.scan dst sl (i + 1) free] s
    else if free then s
    else fabFail 6 dst s
  | .partner dst p, .data bs _ =>
    let w := leNat bs
    let c := w % 2 ^ 13
    let q := getBits w 13 5
    match s.fab.run with
    | none => s
    | some x =>
      if !bitOf w 18 then fabReject 11 none s
      else
        match x.got with
        | [] => addOps [.partner c q] (modRun (fun x => { x with got := [(0, dst, p)] }) s)
        | (_, c0, p0) :: _ =>
          if c = c0 && q = p0 then
            let on := bitOf (x.req.args.getD 0 0) 18
            let s := fabTell c0 (.order (.admitPort p0 on)) s
            fabFinish (fabTell dst (.order (.admitPort p on)) s)
          else fabReject 11 none s
  | .partner _ _, _ => fabReject 11 none s
  | _, _ => again s

/-- A response to the fabric manager's endpoint. -/
def fabResult (id : Nat) (r : Res) (s : State) : State :=
  match s.fab.fly.find? fun x => x.1 = id with
  | none => s
  | some x => fabDo (fun s => opResult x.2 r (s.modFab fun y => { y with fly := y.fly.filter fun z => z.1 ≠ id })) s

/-! Election and succession (R457-R460). -/

/-- A CANDIDATE arrives (R458): adopted and flooded when newer, or equal with a better key; else dropped. -/
def candidateIn (g : Nat) (h : FabHdr) (s : State) : State :=
  if floodNew s h && (termNewer h.term s.term || (decide (h.term = s.term) && decide (s.fab.best < h.key + 1))) then
    floodOn g 0x33 h ((s.wr pgFAB F.FAB_TERM_TERM h.term).modFab fun x => { x with best := h.key + 1 })
  else s

/-- FAB_CANDIDATE_RECEIVE (R458). -/
def execFabCandidateReceive (g : Nat) (h : FabHdr) (s : State) : Host.Outcome State Fault Refusal :=
  liveP s (fabDo (candidateIn g h))

/-- FAB_ELECT_TIMEOUT (R458): the best key has stayed unchanged for ELECT_MS; where it is the chip's own, it becomes
conductor. -/
def execFabElectTimeout (s : State) : Host.Outcome State Fault Refusal :=
  liveP s (fabDo fun s =>
    if s.flag pgFAB F.FAB_ROLE_ELECTING && s.flag pgFAB F.FAB_CFG_ELIGIBLE && s.fab.best = ownKey s + 1 then
      becomeConductor s.term none s
    else s)

/-- The contexts a JOIN lists. -/
def joinSlices (s : State) : List (Nat × Nat × List Nat) :=
  ((List.range 32).filter fun c => s.flag pgRTE F.RTE_CTX_ALLOCATED c).map fun c =>
    (c, s.rd pgRTE F.RTE_CTX_SLICE c,
      (List.range 256).flatMap fun k =>
        let w := (s.word (ctxBase c + 0x800 + 4 * k)).toNat
        ((List.range 32).filter (bitOf w)).map (32 * k + ·))

/-- A member sends its JOIN (R460). -/
def sendJoin (s : State) : State :=
  match conductorOf s with
  | none => s
  | some c => if c = s.chipNum then s else fabSend c (.join (scaleOk s) (joinSlices s)) s

/-- A BEAT of a conductor is judged (R460). -/
def beatIn (g : Nat) (h : FabHdr) (dep : Option Nat) (leaders : List (Nat × Nat)) (s : State) : State :=
  let old := conductorOf s
  let same := old == some h.src && decide (h.term = s.term)
  let better := termNewer h.term s.term || (decide (h.term = s.term) && (old.isNone || decide (s.fab.condKey < h.key)))
  if !(same || better) then s
  else
    let took := !same && deputyOf s == some h.src && decide (h.term = (s.term + 1) % 2 ^ 32)
    let s := withRoles (fun s =>
      let s := if s.isConductor then
          s.modFab fun x => { x with queue := [], run := none, joined := [], leaders := [], pend := [], fly := [], dgrams := [] }
        else s
      let s := s.wr pgFAB F.FAB_TERM_TERM h.term
      let s := (s.wr pgFAB F.FAB_CONDUCTOR_CHIP h.src).wr pgFAB F.FAB_CONDUCTOR_VALID 1
      let s := setDeputy dep s
      let s := s.setWord (pgFAB + 0x104) (BitVec.ofNat 32 (1 + 8 * b2n (dep == some s.chipNum)))
      let s := setSection ((leaders.find? fun x => x.1 = s.chipNum / 32).map (·.2)) s
      s.modFab fun x => { x with condKey := h.key, best := h.key + 1 }) { s with parent := some g }
    let s := if took then s.bump pgFAB F.FAB_ELECTIONS_SUCCESSIONS else s
    if same then s else sendJoin s

/-- A BEAT arrives: forwarded once, then judged; a group BEAT changes nothing. -/
def beatReceive (g : Nat) (h : FabHdr) (dep : Option Nat) (leaders : List (Nat × Nat)) (s : State) : State :=
  if !floodNew s h then s
  else
    let s := floodOn g 0x34 h s
    if h.group then s else beatIn g h dep leaders s

/-- FAB_BEAT_RECEIVE (R460). -/
def execFabBeatReceive (g : Nat) (h : FabHdr) (dep : Option Nat) (leaders : List (Nat × Nat)) (s : State) :
    Host.Outcome State Fault Refusal :=
  liveP s (fabDo (unlessStale h (beatReceive g h dep leaders)))

/-- FAB_BEAT_TIMER (R459, R462). -/
def execFabBeatTimer (s : State) : Host.Outcome State Fault Refusal :=
  liveP s (fabDo fun s =>
    let s := if s.isConductor then fabBeat s else s
    if s.flag pgFAB F.FAB_ROLE_SECTION_LEADER then fabFlood .groupBeat s else s)

/-- A member, which is not conductor. -/
def isMember (s : State) : Bool := s.flag pgFAB F.FAB_ROLE_MEMBER && !s.isConductor

/-- FAB_CONDUCTOR_LOSS (R459): the deputy succeeds. -/
def execFabConductorLoss (s : State) : Host.Outcome State Fault Refusal :=
  liveP s (fabDo fun s => if isMember s && s.flag pgFAB F.FAB_ROLE_DEPUTY then succeed s else s)

/-- FAB_DEPUTY_LOSS (R459). -/
def execFabDeputyLoss (s : State) : Host.Outcome State Fault Refusal :=
  liveP s (fabDo fun s => if isMember s then startElection s else s)

/-- FAB_JOIN_TIMER (R460). -/
def execFabJoinTimer (s : State) : Host.Outcome State Fault Refusal :=
  liveP s (fabDo fun s => if isMember s then sendJoin s else s)

/-- One slice context that a JOIN lists (R461): it enters the record; where the record has the slice on a disjoint set, one
of the two sets is dissolved with reason SPLIT, a code that the spec does not give (log 3). -/
def joinSlice (src : Nat) (s : State) (x : Nat × Nat × List Nat) : State :=
  let (ctx, sl, chips) := x
  if !chips.contains src then s
  else
    match allocOf s sl with
    | none => s.modFab fun f => { f with record := f.record ++ [{ slice := sl, chips := chips, ctxs := [(src, ctx)], tick := 0, own := false }] }
    | some a =>
      if a.chips.any chips.contains then
        s.modFab fun f => { f with record := f.record.map fun b =>
          if b.slice = sl then { b with ctxs := (b.ctxs.filter fun y => y.1 ≠ src) ++ [(src, ctx)] } else b }
      else
        let keep := a.own || decide (a.chips.foldl min 0x2000 ≤ chips.foldl min 0x2000)
        let q : FabReq := { chip := s.chipNum, code := 0, tag := 0, args := [], block := [], dissolve := [(sl, if keep then chips else a.chips)] }
        if s.fab.queue.contains q || (match s.fab.run with | some r => r.req == q | none => false) then s
        else
          let s := s.modFab fun f =>
            { f with queue := f.queue ++ [q], recompute := true,
                     record := if keep then f.record else f.record.map fun b =>
                       if b.slice = sl then { b with chips := chips, ctxs := [(src, ctx)] } else b }
          let (d, s) := s.free 32
          logEv pgFAB 0x2664 s d

/-- A chip that was reset during a request joins again (R471): steps 2 and 3 count as complete for it, and it is given steps
5 and 6 anew. -/
def rejoin (c : Nat) (s : State) : State :=
  match s.fab.run with
  | none => s
  | some r =>
    match r.step with
    | 2 => modRun (fun r => { r with waits := r.waits.filter (· ≠ c) }) s
    | 5 => (r.zports.filter fun z => z.1 = c && r.waits.contains c).foldl (fun s z => fabTell c (.order (.retrain (16 + z.2.1))) s) s
    | 6 =>
      let mine := r.got.filter fun g => g.2.1 = c
      addOps (mine.map fun g => .alloc c g.1 false) (modRun (fun r => { r with phase := 0, got := r.got.filter fun g => g.2.1 ≠ c }) s)
    | _ => s

/-- A JOIN reaches the conductor (R461-R463). -/
def joinIn (h : FabHdr) (scale : Bool) (slices : List (Nat × Nat × List Nat)) (s : State) : State :=
  let old := s.fab.joined.find? fun m => m.chip = h.src
  let reset := match old with | none => false | some m => termNewer m.seq h.seq
  let s := s.modFab fun x =>
    { x with joined := (x.joined.filter fun m => m.chip ≠ h.src) ++ [{ chip := h.src, key := h.key, scale := scale, seq := h.seq }] }
  let s := slices.foldl (joinSlice h.src) s
  let s := if (leaderOf s (h.src / 32)).isNone then appoint (h.src / 32) (fun _ => true) s else s
  let s := nameDeputy s
  let s := if old.isNone then s.modFab fun x => { x with recompute := true } else s
  if reset then rejoin h.src s else s

/-- FAB_JOIN_RECEIVE (R462): the port it came in on leads back to its sender (R456). -/
def execFabJoinReceive (g : Nat) (h : FabHdr) (scale : Bool) (slices : List (Nat × Nat × List Nat)) (s : State) :
    Host.Outcome State Fault Refusal :=
  liveP s (fabDo (unlessStale h fun s =>
    let s := { s with joinPort := fset (fun _ => 0) s.joinPort h.src (g + 1) }
    if s.isConductor then joinIn h scale slices s else s))

/-- FAB_GROUP_BEAT_LOSS (R462): until an appointment stands, events go to the conductor alone. -/
def execFabGroupBeatLoss (s : State) : Host.Outcome State Fault Refusal :=
  liveP s (fabDo fun s =>
    match sectionLeader s, conductorOf s with
    | some l, some c =>
      if s.flag pgFAB F.FAB_ROLE_MEMBER && l ≠ s.chipNum then fabTell c (.event (.slLost l)) (withRoles (setSection none) s) else s
    | _, _ => s)

/-! Events, orders and mirrors. -/

/-- FAB_EVENT_RECEIVE (R469). -/
def execFabEventReceive (h : FabHdr) (e : FabEvent) (s : State) : Host.Outcome State Fault Refusal :=
  liveP s (fabDo (unlessStale h (eventDo h.src e)))

/-- An ORDER arrives (R455): only the recorded conductor and section leader may give one; it is carried out and
acknowledged. -/
def orderIn (h : FabHdr) (o : FabOrder) (s : State) : State :=
  if conductorOf s == some h.src || sectionLeader s == some h.src then fabSend h.src (.orderAck h.seq) (orderDo o s)
  else s.bump pgFAB F.FAB_COUNTS_STALE

/-- FAB_ORDER_RECEIVE (R455). -/
def execFabOrderReceive (h : FabHdr) (o : FabOrder) (s : State) : Host.Outcome State Fault Refusal :=
  liveP s (fabDo (unlessStale h (orderIn h o)))

/-- FAB_ORDER_ACK_RECEIVE (R454): the sender learns that its ORDER was carried out; nothing waits for it. -/
def execFabOrderAckReceive (h : FabHdr) (s : State) : Host.Outcome State Fault Refusal := liveP s (fabDo (unlessStale h id))

/-- FAB_MIRROR_RECEIVE (R463): the deputy stores what its conductor mirrors. -/
def execFabMirrorReceive (h : FabHdr) (m : FabMirror) (s : State) : Host.Outcome State Fault Refusal :=
  liveP s (fabDo (unlessStale h fun s =>
    if s.flag pgFAB F.FAB_ROLE_DEPUTY && conductorOf s == some h.src then s.modFab fun x => { x with mirror := some m } else s))

/-! The mailbox (R465, R466). -/

/-- A write of MBX_CMD: refused while the page is stopped (R79), ignored and recorded while BUSY; else the arguments are copied and the request goes to the conductor,
a CHANGEOVER with the block it names. An unknown code is answered at once. -/
def mbxWrite (req v : Nat) (s : State) : State :=
  if !s.running pgFAB then pageFault pgFAB causeRefused req true 0x128 s
  else if s.rd pgFAB F.FAB_MBX_STATUS_STATE = 1 then
    pageFault pgFAB causeRefused req true 0x128 (s.bump pgFAB F.FAB_COUNTS2_MBX_BUSY)
  else
    let code := v % 256
    let tag := v / 2 ^ 16
    let args := (List.range 4).map fun i => s.rd pgFAB F.FAB_MBX_ARG_ARG i
    let s := s.wr pgFAB F.FAB_MBX_STATUS_STATE 1
    if code = 0 || 6 < code then mbxAnswer tag 2 0 s
    else
      let a := args.getD 0 0 * 256
      let n := args.getD 1 0
      let fits := decide (a + n ≤ hbmSize)
      let s := if code = 2 && fits && s.hbmPoisoned a n then poisonSeen F.ERR_POISON_C_MGC s else s
      s.modFab fun x =>
        { x with mbx := some { chip := s.chipNum, code := code, tag := tag, args := args, dissolve := [],
                               block := if code = 2 && fits then s.hbmRead a n else [] } }

/-- A write of MBX_CMD by a requester. -/
def mbxCmd (req : Nat) (v : Word) (s : State) : State := fabDo id (regWrite req (pgFAB + 0x128) (mbxWrite req v.toNat) s)

/-- FAB_MBX_QUERY (R466). -/
def execFabMbxQuery (req : Nat) (v : Word) (s : State) : Host.Outcome State Fault Refusal := liveP s (mbxCmd req v)
/-- FAB_MBX_CHANGEOVER (R468). -/
def execFabMbxChangeover (req : Nat) (v : Word) (s : State) : Host.Outcome State Fault Refusal := liveP s (mbxCmd req v)
/-- FAB_MBX_CANCEL (R466). -/
def execFabMbxCancel (req : Nat) (v : Word) (s : State) : Host.Outcome State Fault Refusal := liveP s (mbxCmd req v)
/-- FAB_MBX_ADMIT (R478). -/
def execFabMbxAdmit (req : Nat) (v : Word) (s : State) : Host.Outcome State Fault Refusal := liveP s (mbxCmd req v)
/-- FAB_MBX_RESET_CHIP (R464). -/
def execFabMbxResetChip (req : Nat) (v : Word) (s : State) : Host.Outcome State Fault Refusal := liveP s (mbxCmd req v)
/-- FAB_MBX_RECIRCUIT (R477). -/
def execFabMbxRecircuit (req : Nat) (v : Word) (s : State) : Host.Outcome State Fault Refusal := liveP s (mbxCmd req v)
/-- FAB_MBX_UNKNOWN (R466). -/
def execFabMbxUnknown (req : Nat) (v : Word) (s : State) : Host.Outcome State Fault Refusal := liveP s (mbxCmd req v)

/-- FAB_MBX_ANSWER (R465). -/
def execFabMbxAnswer (tag result detail : Nat) (s : State) : Host.Outcome State Fault Refusal :=
  liveP s (mbxAnswer tag result detail)

/-- FAB_NO_CONDUCTOR_TIMEOUT (R467): the request that waits in the mailbox is answered NO_CONDUCTOR. -/
def execFabNoConductorTimeout (s : State) : Host.Outcome State Fault Refusal :=
  liveP s fun s =>
    match s.fab.mbx with
    | none => s
    | some q => let (d, s) := s.free 32; mbxAnswer q.tag 8 d s

/-! Traverse control (R472-R474, R477). -/

/-- A datagram fails (R474): the step fails with SWITCH, and event 0x2667 names the switch and the first failing entry. -/
def swFail (d : FabDgram) (i : Nat) (s : State) : State :=
  let s := s.modFab fun x => { x with dgrams := x.dgrams.erase d }
  let s := logEv pgFAB 0x2667 (irq pgFAB 4 s) d.sw i
  let s := if !d.recirc then fabFail 7 s.chipNum s
    else if (match s.fab.run with | some r => decide (r.req.code = 6) | none => false) then fabReject 7 none s
    else s
  dgramsGo s

/-- A reply of a switch (Table 16.8b): the entries that are OK have changed their circuits. -/
def swReply (sw seq term : Nat) (sts : List Nat) (s : State) : State :=
  match s.fab.dgrams.find? fun d => d.sent && d.sw = sw && d.seq = seq with
  | none => s
  | some d =>
    if term ≠ s.term || sts.length ≠ d.entries.length then s
    else
      let ok := (d.entries.zip sts).filterMap fun x => if x.2 = 0 then some x.1 else none
      let s := match s.plan with
        | none => s
        | some p => s.modFab fun x => { x with circuits := some (ok.foldl (circuitApply sw) (circuitsOf s p)) }
      match sts.findIdx? (· ≠ 0) with
      | some i => swFail d i s
      | none => dgramsGo (s.modFab fun x => { x with dgrams := x.dgrams.erase d })

/-- FAB_SWITCH_REPLY (R474). -/
def execFabSwitchReply (sw seq term : Nat) (sts : List Nat) (s : State) : Host.Outcome State Fault Refusal :=
  liveP s (fabDo (swReply sw seq term sts))

/-- No reply within ACK_MS: the datagram goes out again with its SEQ, or the step fails after TRIES. -/
def swTimeout (sw : Nat) (s : State) : State :=
  match s.fab.dgrams.find? fun d => d.sent && d.sw = sw with
  | none => s
  | some d =>
    if d.tries < s.rd pgFAB F.FAB_SW_TIMING_TRIES then
      let s := s.modFab fun x => { x with dgrams := x.dgrams.map fun y => if y = d then { y with tries := y.tries + 1 } else y }
      { s with outbox := s.outbox ++ [.datagram sw d.seq s.term d.entries] }
    else swFail d 0 s

/-- FAB_SWITCH_ACK_TIMEOUT (R474). -/
def execFabSwitchAckTimeout (sw : Nat) (s : State) : Host.Outcome State Fault Refusal := liveP s (fabDo (swTimeout sw))

/-- FAB_SWITCH_SETTLE_END (R469): SETTLE_MS have passed after the replies. -/
def execFabSwitchSettleEnd (s : State) : Host.Outcome State Fault Refusal :=
  liveP s (fabDo fun s =>
    match s.fab.run with
    | some r => if r.step = 4 && r.phase = 2 then modRun (fun r => { r with phase := 3 }) s else s
    | none => s)

/-- The chip an access of the fabric manager goes to. -/
def opDst : FabOp → Nat
  | .write d _ _ => d
  | .data d _ _ => d
  | .alloc d _ _ => d
  | .scan d _ _ _ => d
  | .partner d _ => d

/-- FAB_STEP_LIMIT_TIMEOUT (R467): a chip has not completed the step within STEP_LIMIT_S. -/
def execFabStepLimitTimeout (chip : Nat) (s : State) : Host.Outcome State Fault Refusal :=
  liveP s (fabDo fun s =>
    match s.fab.run with
    | none => s
    | some r =>
      let late := r.waits.contains chip || s.fab.pend.any (fun o => opDst o = chip) || s.fab.fly.any fun x => opDst x.2 = chip
      if 2 ≤ r.step && (changeOf r.req).limit ≠ 0 && late then fabFail 9 chip s else s)

/-- The connects of the traverses whose Z port is down, for switches that no datagram is in flight to (R477). -/
def recircuits (s : State) (p : Plan) : List (Nat × Nat × Nat × Bool) :=
  let isDown (sw q : Nat) : Bool := match holderOf p sw q with | none => false | some (c, z) => s.fab.down.contains (c, 16 + z)
  ((circuitsOf s p).filter fun k =>
    (isDown k.1 k.2.1 || isDown k.1 k.2.2) && !s.fab.dgrams.any fun d => d.sw = k.1).map fun k => (k.1, k.2.1, k.2.2, true)

/-- FAB_RECIRCUIT_TIMER (R477). -/
def execFabRecircuitTimer (s : State) : Host.Outcome State Fault Refusal :=
  liveP s (fabDo fun s =>
    match s.plan with
    | none => s
    | some p =>
      if s.isConductor && s.rd pgFAB F.FAB_SW_TIMING_RECIRCUIT_S ≠ 0 && swReady s then dgramsFor true (recircuits s p) s else s)

/-- FAB_RECOMPUTE_DONE (R476): a recompute that is due ends after so many microseconds, at a step boundary. -/
def execFabRecomputeDone (us : Nat) (s : State) : Host.Outcome State Fault Refusal :=
  liveP s (fabDo fun s =>
    let free := match s.fab.run with | none => true | some r => stepIdle s r
    if s.isConductor && s.fab.recompute && free then recomputeEnd us s else s)

/-- A write of FAB.CNT_CLR. -/
def fabCntClr (v : Nat) (s : State) : State :=
    if bitOf v 0 then s.zeroWords [pgFAB + 0x14C, pgFAB + 0x150, pgFAB + 0x154] else s

/-- FAB_CNT_CLR (R483): zeroes 0x14C-0x154. -/
def execFabCntClr (req : Nat) (v : Word) (s : State) : Host.Outcome State Fault Refusal :=
  liveP s (regWrite req (pgFAB + 0x160) (fabCntClr v.toNat))

/-! REST and remote reset. -/

/-- REST_REQUEST (06 R190): firmware writes PWR.REST with REQ, and the conductor is asked. -/
def execRestRequest (req : Nat) (v : Word) (s : State) : Host.Outcome State Fault Refusal :=
  liveP s fun s => fabDo id (regWrite req (pgPWR + 0x120) (restWrite v.toNat) s)

/-- REST_END_REQUEST (06 R191): firmware writes PWR.REST with REQ = 0. -/
def execRestEndRequest (req : Nat) (v : Word) (s : State) : Host.Outcome State Fault Refusal :=
  liveP s fun s => fabDo id (regWrite req (pgPWR + 0x120) (restWrite v.toNat) s)

/-- RESET_REQ_RECEIVE (04 R109, R464): a warm reset on TC7 from the recorded conductor while REMOTE_EN = 1; any other
request is discarded, counted and logged with its sender. -/
def execResetReqReceive (src tc : Nat) (s : State) : Host.Outcome State Fault Refusal :=
  live s fun s =>
    if tc = 7 && conductorOf s == some src && s.flag pgCHIP F.CHIP_RESET_CFG_REMOTE_EN then enterReset 9 0 s
    else logEv pgFAB 0x2669 (s.bump pgFAB F.FAB_COUNTS2_RESET_REFUSED) src

end Sys2Proof.Machine
end

