-- ==== Sys2Proof/Machine/Dptx.lean ====
section
/-! DEFINITION. The DisplayPort transmitters: link configurations and training (18 R533-R535), hot plug (R536), and the AUX
channel (R537). -/
namespace Sys2Proof.Machine
open Sys2Proof

/-- Link states (Table 18.5). -/
def dpIDLE : Nat := 0
def dpNO_SINK : Nat := 1
def dpTRAINING : Nat := 2
def dpVALID : Nat := 3
def dpINVALID : Nat := 4
def dpFAILED : Nat := 5

/-- LINK_STATUS.STATE. -/
def dpState (s : State) (n : Nat) : Nat := s.rd (pgDPTX n) F.DPTX_LINK_STATUS_STATE

/-- A sink is present. -/
def dpSink (s : State) (n : Nat) : Bool := s.flag (pgDPTX n) F.DPTX_HPD_SINK

/-- A DPTX field in force: LINK_CFG and OUT_FMT as the last training took them (R544). -/
def dpNow (s : State) (n : Nat) (f : Fld) : Nat := s.rd (pgDPTX n + inForce) f

/-- A link rate in 10^7 bit/s per lane (Table 18.4). -/
def linkRate (r : Nat) : Nat := [162, 270, 540, 810, 1000, 1350, 2000].getD r 0

/-- Bits per component of an OUT_FMT code. -/
def bpcOf (c : Nat) : Nat := if c = 0 then 8 else if c = 1 then 10 else 12

/-- 16 × the bits per pixel on the link (R533). -/
def bpp16 (s : State) (n : Nat) : Nat :=
  if dpNow s n F.DPTX_OUT_FMT_DSC_EN = 1 then dpNow s n F.DPTX_OUT_FMT_DSC_BPP
  else 16 * (if dpNow s n F.DPTX_OUT_FMT_COLOUR = 2 then 2 else 3) * bpcOf (dpNow s n F.DPTX_OUT_FMT_BPC)

/-- The output format meets R532 and the sink takes it: DSC never on 4:2:2, in slices of at most 2,560 whole pixels, at no
more bits than the source has. -/
def formatOk (s : State) (n : Nat) : Bool :=
  let caps := (s.head n).caps
  if dpNow s n F.DPTX_OUT_FMT_DSC_EN = 1 then
    let k := 2 ^ dpNow s n F.DPTX_OUT_FMT_DSC_SLICES
    decide (dpNow s n F.DPTX_OUT_FMT_COLOUR ≠ 2) && caps.2.2.2 && activeH s n % k = 0 && decide (activeH s n / k ≤ 2560)
      && decide (dpNow s n F.DPTX_OUT_FMT_DSC_BPP ≤ 48 * bpcOf (dpNow s n F.DPTX_OUT_FMT_BPC))
  else true

/-- Whether 2^l lanes at rate r qualify (R533): the sink, LINK_CFG, the format and D ≤ 0.99 × L × r × η. -/
def qualifies (s : State) (n : Nat) (c : Nat × Nat) : Bool :=
  let r := c.1
  let l := c.2
  let caps := (s.head n).caps
  let ppm := if dhNow s n F.DH_GENLOCK_SOURCE = 0 then 0 else s.rd (pgDH n) F.DH_GL_LOOP_PULL_PPM
  let d := pixHz s n * (1000000 + ppm) * bpp16 s n
  let cap := 2 ^ l * linkRate r * 10000000 * 16 * 1000000 * 99
  decide (r ≤ caps.1) && decide (l ≤ caps.2.1) && decide (r ≤ dpNow s n F.DPTX_LINK_CFG_MAX_RATE)
    && decide (l ≤ min 2 (dpNow s n F.DPTX_LINK_CFG_MAX_LANES))
    && (decide (r ≤ 3) || (caps.2.2.1 && decide (dpNow s n F.DPTX_LINK_CFG_UHBR_EN = 1)))
    && formatOk s n
    && (if r ≤ 3 then decide (d * 100 * 5 ≤ cap * 4) else decide (d * 100 * 132 ≤ cap * 128))

/-- Every link configuration in the order of fallback: by falling rate, then by falling lanes (log 30). -/
def allConfigs : List (Nat × Nat) :=
  [6, 5, 4, 3, 2, 1, 0].flatMap fun r => [2, 1, 0].map fun l => (r, l)

/-- The link leaves VALID with a cause (R535). -/
def dpLose (n cause st : Nat) (s : State) : State :=
  let pg := pgDPTX n
  let was := decide (dpState s n = dpVALID)
  let s := (s.wr pg F.DPTX_LINK_STATUS_CAUSE cause).wr pg F.DPTX_LINK_STATUS_STATE st
  let s := s.modHead n fun h => { h with pixels := false, whole := false }
  let s := if was then irq pg 4 (s.bump pg F.DPTX_COUNTS_LOSSES) else s
  hokJudge n s

/-- No configuration trains: FAILED with a cause, 3 TRAIN_FAIL or 4 BANDWIDTH (R534). -/
def dpFail (n cause : Nat) (s : State) : State :=
  let pg := pgDPTX n
  let s := (s.wr pg F.DPTX_LINK_STATUS_CAUSE cause).wr pg F.DPTX_LINK_STATUS_STATE dpFAILED
  let s := (s.modHead n fun h => { h with cfgs := [] }).bump pg F.DPTX_COUNTS2_TRAIN_FAILS
  logEv pg 0x280C (irq pg 5 s)

/-- Training starts (R534): LINK_CFG and OUT_FMT are taken, and the configurations that qualify are tried in order, from
`fro` on when it is given; without FALLBACK_EN only the first is. -/
def dpTrain (n : Nat) (fro : Option (Nat × Nat)) (s : State) : State :=
  let s := takeStaged (pgDPTX n) [0x100, 0x104] s
  let cs := allConfigs.filter (qualifies s n)
  let cs := match fro with
    | none => cs
    | some c => if cs.contains c then cs.dropWhile (fun x => x ≠ c) else cs
  let cs := if dpNow s n F.DPTX_LINK_CFG_FALLBACK_EN = 1 then cs else cs.take 1
  if cs.isEmpty then dpFail n 4 s
  else (s.wr (pgDPTX n) F.DPTX_LINK_STATUS_STATE dpTRAINING).modHead n fun h => { h with cfgs := cs }

/-- The head starts (Table 18.5). -/
def dpHeadStarts (n : Nat) (s : State) : State :=
  if dpSink s n then dpTrain n none s else s.wr (pgDPTX n) F.DPTX_LINK_STATUS_STATE dpNO_SINK

/-- The head reaches OFF: the main link is idle (Table 18.5). -/
def dpHeadOff (n : Nat) (s : State) : State :=
  (s.wr (pgDPTX n) F.DPTX_LINK_STATUS_STATE dpIDLE).modHead n fun h =>
    { h with pixels := false, whole := false, cfgs := [], retrain := false }

/-- The effect of DPTX_TRAIN_DONE out of reset (R534). -/
def dptxTrainDoneEffect (n : Nat) (lv : List Word) (s : State) : State :=
  let pg := pgDPTX n
  match (s.head n).cfgs with
  | [] => s
  | c :: _ =>
    if dpState s n ≠ dpTRAINING then s
    else
      let s := (s.wr pg F.DPTX_LINK_STATUS_STATE dpVALID).wr pg F.DPTX_LINK_STATUS_RATE c.1
      let s := (s.wr pg F.DPTX_LINK_STATUS_LANES c.2).wr pg F.DPTX_LINK_STATUS_UHBR (b2n (decide (4 ≤ c.1)))
      let s := s.wr pg F.DPTX_LINK_STATUS_DSC (dpNow s n F.DPTX_OUT_FMT_DSC_EN)
      let s := (List.range 4).foldl (fun s i =>
        let v := (lv.getD i 0).toNat
        ((s.wr pg F.DPTX_TX_LEVEL_SWING v i).wr pg F.DPTX_TX_LEVEL_PREEMPH (v / 4) i).wr pg F.DPTX_TX_LEVEL_FFE_PRESET (v / 16) i) s
      let s := s.wr64 pg F.DPTX_VALID_MET_LO_MET F.DPTX_VALID_MET_HI_MET s.met
      let s := s.modHead n fun h => { h with cfgs := [], lastCfg := some c }
      hokJudge n (logEv pg 0x080A (irq pg 3 (s.bump pg F.DPTX_COUNTS_TRAINS)))

/-- DPTX_TRAIN_DONE (R534): the configuration on trial trains, with the transmit levels that training found, one word per
lane (R545). -/
def execDptxTrainDone (n : Nat) (lv : List Word) (s : State) : Host.Outcome State Fault Refusal :=
  live s (dptxTrainDoneEffect n lv)

/-- DPTX_TRAIN_TIMEOUT (R534): the attempt exceeds TIMEOUT_MS; the next configuration is tried, or the link is FAILED. -/
def execDptxTrainTimeout (n : Nat) (s : State) : Host.Outcome State Fault Refusal :=
  live s fun s =>
    if dpState s n ≠ dpTRAINING then s
    else
      match (s.head n).cfgs with
      | _ :: c :: r => s.modHead n fun h => { h with cfgs := c :: r }
      | _ => dpFail n 3 s

/-- DPTX_TRAIN_RETRY (R534): RETRY_S after a failure, while HPD stays high. -/
def execDptxTrainRetry (n : Nat) (s : State) : Host.Outcome State Fault Refusal :=
  live s fun s => if dpState s n = dpFAILED && dpSink s n then dpTrain n none s else s

/-- DPTX_STATUS_POLL (R535): the sink's link and lane status is read; a lane that lost lock or alignment makes a VALID link
INVALID. It also serves a waiting IRQ_HPD. -/
def execDptxStatusPoll (n : Nat) (ok : Bool) (s : State) : Host.Outcome State Fault Refusal :=
  live s fun s =>
    let s := s.modHead n fun h => { h with irqWait := false }
    if ok || decide (dpState s n ≠ dpVALID) then s else logEv (pgDPTX n) 0x280B (dpLose n 1 dpINVALID s)

/-- What the start of the vertical blank does to the link (R535): an INVALID link retrains from the last valid
configuration, and a VALID one does when RETRAIN.REQ waits. -/
def dpVblank (n : Nat) (s : State) : State :=
  let again := fun (s : State) => dpTrain n (s.head n).lastCfg s
  if dpState s n = dpINVALID then again s
  else if dpState s n = dpVALID && (s.head n).retrain then
    again (logEv (pgDPTX n) 0x280B (dpLose n 5 dpINVALID (s.modHead n fun h => { h with retrain := false })))
  else s

/-- A write of RETRAIN. -/
def dpRetrainWrite (n v : Nat) (s : State) : State :=
    if bitOf v 0 && decide (dpState s n = dpVALID) then s.modHead n fun h => { h with retrain := true } else s

/-- DPTX_RETRAIN_REQ (R535): a write of RETRAIN. -/
def execDptxRetrainReq (req n : Nat) (v : Word) (s : State) : Host.Outcome State Fault Refusal :=
  live s (regWrite req (pgDPTX n + 0x110) (dpRetrainWrite n v.toNat))

/-! Hot plug. -/

/-- The effect of DPTX_HPD_RISE out of reset (R536). -/
def dptxHpdRiseEffect (n us : Nat) (s : State) : State :=
  let pg := pgDPTX n
  let s := s.wr pg F.DPTX_HPD_LEVEL 1
  if us < s.rd pg F.DPTX_HPDX_IRQ_MIN_US then s.bump pg F.DPTX_COUNTS_HPD_SHORT
  else if us ≤ s.rd pg F.DPTX_HPDX_UNPLUG_MS * 1000 then
    (irq pg 2 (s.bump pg F.DPTX_COUNTS_HPD_IRQS)).modHead n fun h => { h with irqWait := true }
  else s

/-- DPTX_HPD_RISE (R536): HPD rises after `us` low. -/
def execDptxHpdRise (n us : Nat) (s : State) : Host.Outcome State Fault Refusal :=
  live s (dptxHpdRiseEffect n us)

/-- The effect of DPTX_HPD_UNPLUG out of reset (R536). -/
def dptxHpdUnplugEffect (n : Nat) (s : State) : State :=
  let pg := pgDPTX n
  let had := dpSink s n
  let s := (s.wr pg F.DPTX_HPD_LEVEL 0).wr pg F.DPTX_HPD_SINK 0
  if !had then s
  else
    let s := logEv pg 0x080E (irq pg 1 (s.bump pg F.DPTX_COUNTS2_UNPLUGS))
    if 2 ≤ dpState s n then (dpLose n 2 dpNO_SINK s).modHead n fun h => { h with cfgs := [], irqWait := false } else s

/-- DPTX_HPD_UNPLUG (R536): HPD has been low longer than UNPLUG_MS; a sink present until then is gone. -/
def execDptxHpdUnplug (n : Nat) (s : State) : Host.Outcome State Fault Refusal :=
  live s (dptxHpdUnplugEffect n)

/-- The effect of DPTX_HPD_SETTLED out of reset (R536). -/
def dptxHpdSettledEffect (n rate lanes : Nat) (uhbr dsc : Bool) (s : State) : State :=
  let pg := pgDPTX n
  if dpSink s n || !s.flag pg F.DPTX_HPD_LEVEL then s
  else
    let s := (s.wr pg F.DPTX_HPD_SINK 1).modHead n fun h => { h with caps := (rate, lanes, uhbr, dsc) }
    let s := logEv pg 0x080D (irq pg 0 s)
    if dpState s n = dpNO_SINK then dpTrain n none s else s

/-- DPTX_HPD_SETTLED (R536): HPD has been high for SETTLE_MS; the sink is present and its capabilities are read: its highest
rate, its lanes (as LINK_CFG codes them), whether it takes 128b/132b, and whether it decodes DSC. -/
def execDptxHpdSettled (n rate lanes : Nat) (uhbr dsc : Bool) (s : State) : Host.Outcome State Fault Refusal :=
  live s (dptxHpdSettledEffect n rate lanes uhbr dsc)

/-- DPTX_CNT_CLR (R544). -/
def dptxCntClr (n v : Nat) (s : State) : State :=
  if bitOf v 0 then s.zeroWords [pgDPTX n + 0x12C, pgDPTX n + 0x130] else s

/-- DPTX_CNT_CLR (R544): a write of CNT_CLR. -/
def execDptxCntClr (req n : Nat) (v : Word) (s : State) : Host.Outcome State Fault Refusal :=
  live s (regWrite req (pgDPTX n + 0x134) (dptxCntClr n v.toNat))

/-! The AUX channel. -/

/-- A driver transaction ends with a reply and the bytes transferred. -/
def auxEnd (n reply done : Nat) (s : State) : State :=
  let pg := pgDPTX n
  let s := (s.wr pg F.DPTX_AUX_STATUS_BUSY 0).wr pg F.DPTX_AUX_STATUS_REPLY reply
  irq pg 6 ((s.wr pg F.DPTX_AUX_STATUS_DONE done).modHead n fun h => { h with aux := none })

/-- The bytes of AUX_DATA. -/
def auxData (s : State) (n len : Nat) : List Byte := (s.wordBytes (pgDPTX n + 0x118) 4).take len

/-- The transaction goes out on the channel. -/
def auxSend (n : Nat) (j : AuxJob) (s : State) : State :=
  { s with outbox := s.outbox ++ [Output.aux n j.req j.addr j.len (if j.req % 2 = 1 then auxData s n j.len else [])] }

/-- A write of AUX_CMD (R537): refused and recorded while BUSY; a native write that touches 0x00100 to 0x001FF is answered
REFUSED and nothing is sent. -/
def auxCmd (req n k v : Nat) (s : State) : State :=
  let pg := pgDPTX n
  let addr := getBits v 2 20
  let len := min 16 (getBits v 22 5 + 1)
  if s.flag pg F.DPTX_AUX_STATUS_BUSY then pageFault pg causeRefused req true 0x114 s
  else if k = 1 && decide (addr ≤ 0x1FF) && decide (0x100 < addr + len) then auxEnd n 4 0 s
  else
    let j : AuxJob := { req := k, addr := if 2 ≤ k then addr % 128 else addr, len := len, tries := 0 }
    auxSend n j ((s.wr pg F.DPTX_AUX_STATUS_BUSY 1).modHead n fun h => { h with aux := some j })

/-- AUX_NATIVE_READ (R537): a write of AUX_CMD with REQ 0. -/
def execAuxNativeRead (req n : Nat) (v : Word) (s : State) : Host.Outcome State Fault Refusal :=
  live s (regWrite req (pgDPTX n + 0x114) (auxCmd req n 0 v.toNat))

/-- AUX_NATIVE_WRITE (R537): with REQ 1. -/
def execAuxNativeWrite (req n : Nat) (v : Word) (s : State) : Host.Outcome State Fault Refusal :=
  live s (regWrite req (pgDPTX n + 0x114) (auxCmd req n 1 v.toNat))

/-- AUX_I2C_READ (R537): with REQ 2. -/
def execAuxI2cRead (req n : Nat) (v : Word) (s : State) : Host.Outcome State Fault Refusal :=
  live s (regWrite req (pgDPTX n + 0x114) (auxCmd req n 2 v.toNat))

/-- AUX_I2C_WRITE (R537): with REQ 3. -/
def execAuxI2cWrite (req n : Nat) (v : Word) (s : State) : Host.Outcome State Fault Refusal :=
  live s (regWrite req (pgDPTX n + 0x114) (auxCmd req n 3 v.toNat))

/-- Bytes read over AUX land in AUX_DATA. -/
def auxStore (n : Nat) (bs : List Byte) (s : State) : State :=
  (List.range 4).foldl (fun s i =>
    if 4 * i < bs.length then s.wr (pgDPTX n) F.DPTX_AUX_DATA_DATA (fieldOf bs (4 * i) 4) i else s) s

/-- The effect of DPTX_AUX_REPLY out of reset (R537). -/
def dptxAuxReplyEffect (n reply : Nat) (bs : List Byte) (s : State) : State :=
  match (s.head n).aux with
  | none => s
  | some j =>
    if reply = 2 && decide (j.tries < s.rd (pgDPTX n) F.DPTX_AUX_DEFER_MAX) then
      let j := { j with tries := j.tries + 1 }
      auxSend n j (s.modHead n fun h => { h with aux := some j })
    else if reply = 0 && j.req % 2 = 0 then
      let bs := bs.take j.len
      auxEnd n 0 bs.length (auxStore n bs s)
    else auxEnd n reply (if reply = 0 then j.len else 0) s

/-- DPTX_AUX_REPLY (R537): 0 ACK, 1 NACK or 2 DEFER, with the bytes a read returned; a DEFER is retried up to DEFER_MAX
times. -/
def execDptxAuxReply (n reply : Nat) (bs : List Byte) (s : State) : Host.Outcome State Fault Refusal :=
  live s (dptxAuxReplyEffect n reply bs)

/-- DPTX_AUX_TIMEOUT (R537). -/
def execDptxAuxTimeout (n : Nat) (s : State) : Host.Outcome State Fault Refusal :=
  live s fun s =>
    match (s.head n).aux with
    | none => s
    | some _ => auxEnd n 3 0 (s.bump (pgDPTX n) F.DPTX_COUNTS2_AUX_TIMEOUTS)

end Sys2Proof.Machine
end

