-- ==== Sys2Proof/Machine/Prot.lean ====
section
/-! DEFINITION. The protected layer and its buffer (19 R559-R561), and the region signatures (R575-R579). -/
namespace Sys2Proof.Machine
open Sys2Proof

/-! The protected buffer. -/

/-- The size of a protected buffer. -/
def protSize : Nat := 0x400000

/-- n bytes of head h's protected buffer from an offset on. -/
def State.protRead (s : State) (h o n : Nat) : List Byte := mread (fun _ => 0) s.prot (h * protSize + o) n

/-- Writes bytes of the buffer. -/
def State.protWrite (s : State) (h o : Nat) (bs : List Byte) : State :=
  { s with prot := mwrite (fun _ => 0) s.prot (h * protSize + o) bs }

/-- A write of WIN_DATA (R560): 4 bytes are stored at WIN_ADDR, which advances by 4. -/
def protWin (n v : Nat) (s : State) : State :=
  let a := s.rd (pgPROT n) F.PROT_WIN_ADDR_ADDR
  (s.protWrite n (4 * a) (leBytes 4 v)).wr (pgPROT n) F.PROT_WIN_ADDR_ADDR (a + 1)

/-- PROT_WIN_WRITE (R560): a write of WIN_DATA. -/
def execProtWinWrite (req n : Nat) (v : Word) (s : State) : Host.Outcome State Fault Refusal :=
  live s (regWrite req (pgPROT n + 0x11C) (protWin n v.toNat))

/-- The endpoint of a head's LOAD. -/
def epProt (n : Nat) : Nat := 0xA18 + n

/-- The LOAD's next read of 256 bytes goes out. -/
def protFetch (n : Nat) (s : State) : State :=
  match (s.head n).load with
  | none => s
  | some l =>
    if l.left = 0 || l.flying || l.bad then s
    else displayRead (epProt n) 1 l.src 256 0 0 (s.modHead n fun h => { h with load := some { l with flying := true } })

/-- A write of LOAD_CTRL with START (R560): refused while BUSY; a LOAD beyond the buffer ends with ERROR. -/
def protLoadStart (req n v : Nat) (s : State) : State :=
  let pg := pgPROT n
  if !bitOf v 0 then s
  else if s.flag pg F.PROT_STATUS_BUSY then pageFault pg causeRefused req true 0x130 s
  else
    let dst := s.rd pg F.PROT_LOAD_DST_DST * 256
    let len := s.rd pg F.PROT_LOAD_LEN_LEN * 256
    let src := s.rd pg F.PROT_LOAD_SRC_LO_SRC * 256 + s.rd pg F.PROT_LOAD_SRC_HI_SRC * 2 ^ 32
    let s := (s.wr pg F.PROT_STATUS_BUSY 1).wr pg F.PROT_STATUS_ERROR 0
    protFetch n (s.modHead n fun h =>
      { h with load := some { src := src, dst := dst, left := len / 256, flying := false,
                              bad := decide (protSize < dst + len) || decide (hbmSize < src + len) } })

/-- PROT_LOAD_START (R560): a write of LOAD_CTRL. -/
def execProtLoadStart (req n : Nat) (v : Word) (s : State) : Host.Outcome State Fault Refusal :=
  live s (regWrite req (pgPROT n + 0x130) (protLoadStart req n v.toNat))

/-- The response to a read of a LOAD: 256 bytes land in the buffer, or the LOAD stops. -/
def protResult (n : Nat) (r : Res) (s : State) : State :=
  match (s.head n).load with
  | none => s
  | some l =>
    match r with
    | .data bs false =>
      let l := { l with src := l.src + 256, dst := l.dst + 256, left := l.left - 1, flying := false }
      protFetch n ((s.protWrite n (l.dst - 256) bs).modHead n fun h => { h with load := some l })
    | _ =>
      let s := match r with | .data _ true => poisonSeen F.ERR_POISON_B_DISPLAY s | _ => s
      s.modHead n fun h => { h with load := some { l with flying := false, bad := true } }

/-- The effect of PROT_LOAD_DONE out of reset (R560). -/
def protLoadDoneEffect (n : Nat) (s : State) : State :=
  let pg := pgPROT n
  match (s.head n).load with
  | none => s
  | some l =>
    if l.flying || (!l.bad && !decide (l.left = 0)) then s
    else
      let s := (s.wr pg F.PROT_STATUS_BUSY 0).modHead n fun h => { h with load := none }
      if l.bad then logEv pg 0x2840 (irq pg 2 (s.wr pg F.PROT_STATUS_ERROR 1)) else irq pg 1 s

/-- PROT_LOAD_DONE (R560): the LOAD has copied every byte, or a failed read has stopped it. -/
def execProtLoadDone (n : Nat) (s : State) : Host.Outcome State Fault Refusal :=
  live s (protLoadDoneEffect n)

/-- The staged words of a PROT page. -/
def protWords : List Nat := [0x100, 0x104, 0x108, 0x10C, 0x110]

/-- A write of PROT.APPLY. -/
def protApplyWrite (n v : Nat) (s : State) : State :=
    if bitOf v 0 then (s.wr (pgPROT n) F.PROT_STATUS_APPLY_PENDING 1).wr (pgPROT n) F.PROT_STATUS_BAD_APPLY 0 else s

/-- PROT_APPLY (R561): a write of APPLY; the staged values wait for the next frame boundary. -/
def execProtApply (req n : Nat) (v : Word) (s : State) : Host.Outcome State Fault Refusal :=
  live s (regWrite req (pgPROT n + 0x114) (protApplyWrite n v.toNat))

/-- Bytes of a pixel of a PROT format: ARGB8888, ARGB4444, I8. -/
def protBpp (fmt : Nat) : Nat := if fmt = 0 then 4 else if fmt = 1 then 2 else 1

/-- The staged values would read beyond the buffer, or I8 pixels would overlap the palette (R561). -/
def protBad (s : State) (n : Nat) : Bool :=
  let r := fun (f : Fld) => s.rd (pgPROT n) f
  let w := r F.PROT_SIZE_W
  let h := r F.PROT_SIZE_H
  let o := r F.PROT_OFFSET_OFFSET * 16
  decide (0 < w) && decide (0 < h)
    && (decide (protSize < o + (h - 1) * (r F.PROT_STRIDE_STRIDE * 16) + w * protBpp (r F.PROT_CTRL_FMT))
        || (r F.PROT_CTRL_FMT = 2 && decide (o < 0x400)))

/-- A PROT field in force. -/
def protNow (s : State) (n : Nat) (f : Fld) : Nat := s.rd (pgPROT n + inForce) f

/-- PROTn is shown: the page is enabled and SHOW in force is 1 (R559). -/
def protShown (s : State) (n : Nat) : Bool := s.flag (pgPROT n) F.HDR_PAGE_CTRL_ENABLE && protNow s n F.PROT_CTRL_SHOW = 1

/-- STATUS.SHOWN: in force and drawn. -/
def protSync (n : Nat) (s : State) : State :=
  s.wr (pgPROT n) F.PROT_STATUS_SHOWN (b2n (protShown s n && scanning s n))

/-- The frame boundary meets staged PROT values (R561). -/
def protBoundary (n : Nat) (s : State) : State :=
  let pg := pgPROT n
  if s.flag pg F.PROT_STATUS_APPLY_PENDING then
    let s := s.wr pg F.PROT_STATUS_APPLY_PENDING 0
    if protBad s n then logEv pg 0x0841 (irq pg 3 (s.wr pg F.PROT_STATUS_BAD_APPLY 1))
    else irq pg 0 (takeStaged pg protWords s)
  else s

/-- The source pixels a replication code stands for. -/
def repOf (c : Nat) : Nat := if c = 0 then 1 else if c = 1 then 2 else 4

/-- The pixel of the protected layer at active position (x, y), if the layer covers it (R559). -/
def protPx (s : State) (n x y : Nat) : Option Px :=
  let r := protNow s n
  let i := (x - r F.PROT_POS_X) / repOf (r F.PROT_CTRL_REP_X)
  let j := (y - r F.PROT_POS_Y) / repOf (r F.PROT_CTRL_REP_Y)
  if protShown s n && decide (r F.PROT_POS_X ≤ x) && decide (r F.PROT_POS_Y ≤ y) && decide (i < r F.PROT_SIZE_W)
      && decide (j < r F.PROT_SIZE_H) then
    let fmt := r F.PROT_CTRL_FMT
    let o := r F.PROT_OFFSET_OFFSET * 16 + j * (r F.PROT_STRIDE_STRIDE * 16) + i * protBpp fmt
    let v := leNat (s.protRead n o (protBpp fmt))
    let at8 := fun (w : Nat) => (⟨unsignedValue 8 (w / 2 ^ 16 % 256), unsignedValue 8 (w / 2 ^ 8 % 256),
      unsignedValue 8 (w % 256), unsignedValue 8 (w / 2 ^ 24 % 256)⟩ : Px)
    let p : Px :=
      if fmt = 1 then ⟨unsignedValue 4 (v / 256 % 16), unsignedValue 4 (v / 16 % 16), unsignedValue 4 (v % 16), unsignedValue 4 (v / 4096)⟩
      else if fmt = 2 then at8 (leNat (s.protRead n (4 * v) 4))
      else at8 v
    some (alphaForm (if r F.PROT_CTRL_PREMULT = 1 then 2 else 1) 255 p)
  else none

/-! Region signatures. -/

/-- The staged words of a SIG page. -/
def sigWords : List Nat := [0x100, 0x2C0] ++ (List.range 16).flatMap fun i => [0x200 + 4 * i, 0x240 + 4 * i, 0x280 + 4 * i]

/-- A SIG field in force. -/
def sigNow (s : State) (n : Nat) (f : Fld) (i : Nat := 0) : Nat := s.rd (pgSIG n + inForce) f i

/-- A write of SIG.APPLY. -/
def sigApplyWrite (n v : Nat) (s : State) : State :=
    if bitOf v 0 then s.wr (pgSIG n) F.SIG_STATUS_APPLY_PENDING 1 else s

/-- SIG_APPLY (R579): a write of APPLY. -/
def execSigApply (req n : Nat) (v : Word) (s : State) : Host.Outcome State Fault Refusal :=
  live s (regWrite req (pgSIG n + 0x104) (sigApplyWrite n v.toNat))

/-- An enabled region of the staged values has a zero width or height or leaves the active area. -/
def sigBad (s : State) (n : Nat) : Bool :=
  (List.range 16).any fun i =>
    let r := fun (f : Fld) => s.rd (pgSIG n) f i
    bitOf (s.rd (pgSIG n) F.SIG_RCTRL_EN) i &&
      (r F.SIG_RWH_W = 0 || r F.SIG_RWH_H = 0 || decide (activeH s n < r F.SIG_RXY_X + r F.SIG_RWH_W)
        || decide (activeV s n < r F.SIG_RXY_Y + r F.SIG_RWH_H))

/-- The regions enabled in force. -/
def sigEn (s : State) (n : Nat) : List Nat := (List.range 16).filter fun i => bitOf (sigNow s n F.SIG_RCTRL_EN) i

/-- The frame is checked: the link has been VALID throughout, and SIGn works (R576). -/
def sigChecks (s : State) (n : Nat) : Bool := (s.head n).whole && s.running (pgSIG n)

/-- The frame boundary meets SIGn: the mismatch state clears after a checked frame in which every enabled region matched,
MATCH is cleared, and staged values take effect (R576, R577, R579). -/
def sigBoundary (n : Nat) (s : State) : State :=
  let pg := pgSIG n
  let checked := sigChecks s n
  let all := (sigEn s n).all fun i => bitOf (s.rd pg F.SIG_MATCH_MATCH) i
  let s := if checked && all && s.flag pg F.SIG_STATUS_MISMATCH then
      logEv pg 0x0831 (irq pg 1 (s.wr pg F.SIG_STATUS_MISMATCH 0))
    else s
  let s := s.modHead n fun h =>
    { h with failPrev := if checked then h.failNow else h.failPrev, failNow := false, crc := List.replicate 16 (0, 0) }
  let s := (s.wr pg F.SIG_STATUS_CHECKING (b2n checked)).wr pg F.SIG_MATCH_MATCH 0
  let s := s.wr pg F.SIG_MATCH_CHECKED 0
  if s.flag pg F.SIG_STATUS_APPLY_PENDING then
    let s := s.wr pg F.SIG_STATUS_APPLY_PENDING 0
    if sigBad s n then irq pg 3 (s.wr pg F.SIG_STATUS_BAD_APPLY 1)
    else takeStaged pg sigWords (s.wr pg F.SIG_STATUS_BAD_APPLY 0)
  else s

/-- The bytes a pixel of 12-bit channels contributes (R575). -/
def sigBytes (mask : Nat) (p : Nat × Nat × Nat) : List Byte :=
  (if bitOf mask 0 then leBytes 2 0 else leBytes 2 p.1) ++ (if bitOf mask 1 then leBytes 2 0 else leBytes 2 p.2.1)
    ++ (if bitOf mask 2 then leBytes 2 0 else leBytes 2 p.2.2)

/-- A sent line runs through the CRC of every enabled region that it crosses (R575). -/
def sigLine (n a : Nat) (px : List (Nat × Nat × Nat)) (s : State) : State :=
  if !sigChecks s n then s
  else
    (sigEn s n).foldl (fun s i =>
      let y := sigNow s n F.SIG_RXY_Y i
      let h := sigNow s n F.SIG_RWH_H i
      if y ≤ a && decide (a < y + h) then
        let x := (s.head n).crc.getD i (0, 0)
        let start := if a = y then s.rd (pgSIG n) F.SIG_CRC_INIT_INIT else x.2
        let bs := ((px.drop (sigNow s n F.SIG_RXY_X i)).take (sigNow s n F.SIG_RWH_W i)).flatMap
          (sigBytes (s.rd (pgSIG n) F.SIG_CHAN_MASK_MASK))
        let c := (crc32With (BitVec.ofNat 32 start) 0 bs).toNat
        let st := if a = y then 1 else x.1
        let st := if st = 1 && a + 1 = y + h then 2 else st
        s.modHead n fun h => { h with crc := h.crc.set i (st, c) }
      else s) s

/-- A region with LEARN set takes the CRC as its reference and clears LEARN (R578). -/
def sigLearn (n i crc : Nat) (s : State) : State :=
  let pg := pgSIG n
  let clr := fun (p : Nat) (s : State) =>
    (s.wr p F.SIG_REF_CRC crc i).wr p F.SIG_RCTRL_LEARN (s.rd p F.SIG_RCTRL_LEARN - 2 ^ i * b2n (bitOf (s.rd p F.SIG_RCTRL_LEARN) i))
  let s := clr pg (clr (pg + inForce) s)
  if sigNow s n F.SIG_RCTRL_LEARN = 0 then logEv pg 0x0832 (irq pg 2 s) else s

/-- A failed comparison of region i (R577). -/
def sigFail (n i : Nat) (s : State) : State :=
  let pg := pgSIG n
  let h := s.head n
  let m := h.misses.getD i 0 + 1
  let s := if h.failNow then s else s.bump pg F.SIG_MISMATCH_FRAMES_COUNT
  let s := irq pg 0 s
  let s := if h.failNow || h.failPrev then s
    else logEv pg 0x2830 (s.wr64 pg F.SIG_FIRST_MET_LO_MET F.SIG_FIRST_MET_HI_MET s.met)
  let s := s.modHead n fun h => { h with failNow := true, misses := (h.misses ++ List.replicate 16 0).take 16 |>.set i m }
  let pol := sigNow s n F.SIG_CTRL_POLICY
  if pol = 1 || (pol = 2 && decide (sigNow s n F.SIG_CTRL_MISS_N ≤ m)) then
    hokJudge n (s.wr pg F.SIG_STATUS_MISMATCH 1)
  else s

/-- The effect of SIG_REGION_CHECK out of reset (R576). -/
def sigRegionCheckEffect (n i : Nat) (s : State) : State :=
  let pg := pgSIG n
  let x := (s.head n).crc.getD i (0, 0)
  if x.1 ≠ 2 || !sigChecks s n || !(sigEn s n).contains i then s
  else
    let crc := x.2 ^^^ s.rd pg F.SIG_CRC_XOROUT_XOROUT
    let s := s.modHead n fun h => { h with crc := h.crc.set i (0, 0) }
    let s := (s.wr pg F.SIG_LAST_CRC_CRC crc i).wr pg F.SIG_MATCH_CHECKED (s.rd pg F.SIG_MATCH_CHECKED ||| 2 ^ i)
    let learn := bitOf (sigNow s n F.SIG_RCTRL_LEARN) i
    if learn || decide (sigNow s n F.SIG_REF_CRC i = crc) then
      let s := s.wr pg F.SIG_MATCH_MATCH (s.rd pg F.SIG_MATCH_MATCH ||| 2 ^ i)
      let s := s.modHead n fun h => { h with misses := (h.misses ++ List.replicate 16 0).take 16 |>.set i 0 }
      if learn then sigLearn n i crc s else s
    else sigFail n i s

/-- SIG_REGION_CHECK (R576): the last pixel of an enabled region has been sent; its CRC is compared. -/
def execSigRegionCheck (n i : Nat) (s : State) : Host.Outcome State Fault Refusal :=
  live s (sigRegionCheckEffect n i)

/-- A write of SIG.CNT_CLR (R585). -/
def sigCntClr (n v : Nat) (s : State) : State := if bitOf v 0 then s.wr (pgSIG n) F.SIG_MISMATCH_FRAMES_COUNT 0 else s

/-- SIG_CNT_CLR (R585): a write of CNT_CLR. -/
def execSigCntClr (req n : Nat) (v : Word) (s : State) : Host.Outcome State Fault Refusal :=
  live s (regWrite req (pgSIG n + 0x11C) (sigCntClr n v.toNat))

end Sys2Proof.Machine
end

