-- ==== Sys2Proof/Machine/Frame.lean ====
section
/-! DEFINITION. Composition (19 R548-R558), scan-out (18 R526, R527, R532), and the course of a head's frame: start, frame
boundary and vertical blank (R514-R517). -/
namespace Sys2Proof.Machine
open Sys2Proof

/-! Composition. -/

/-- The blocks of 256 bytes that source pixel x of a row needs; a 4:2:2 pixel needs its pair, and an odd one the next pair
too (R552). -/
def pxNeeds (e : LayerEntry) (row x : Nat) : List Nat :=
  let b := fmtB e.fmt
  let o := rowStart e row
  if is422 e.fmt then
    let i := x / 2
    blocks256 (o + 2 * b * i) (2 * b) ++
      (if x % 2 = 0 || decide (e.sw ≤ 2 * (i + 1)) then [] else blocks256 (o + 2 * b * (i + 1)) (2 * b))
  else blocks256 (o + b * x) b

/-- The source columns and rows that destination pixel (x, a) of a layer samples (R554). -/
def tapPixels (e : LayerEntry) (x a : Nat) : List (Nat × Nat) :=
  let h := taps e.sw e.dw (x - e.dx)
  let v := taps e.sh e.dh (a - e.dy)
  let xs := if h.2.2 = 0 then [h.1] else [h.1, h.2.1]
  let ys := if v.2.2 = 0 then [v.1] else [v.1, v.2.1]
  ys.flatMap fun y => xs.map fun x => (x, y)

/-- The 256-byte blocks that destination pixel (x, a) needs. -/
def needsOf (e : LayerEntry) (x a : Nat) : List Nat := (tapPixels e x a).flatMap fun p => pxNeeds e p.2 p.1

/-- Whether a layer covers active pixel (x, a). -/
def coversPx (e : LayerEntry) (x a : Nat) : Bool := coversLine e a && decide (e.dx ≤ x) && decide (x < e.dx + e.dw)

/-- A little-endian number of the fetched bytes. -/
def gotNum (got : Fmap Byte) (o k : Nat) : Nat := leNat (mread (fun _ => 0) got o k)

/-- A layer's pixel at (x, a), sampled, through its input matrix, clamped, and formed by its alpha mode (R552-R558). A pixel
of a poisoned read has a′ = 0 and c′ = 0 (Table 24.2). -/
def layerPx (e : LayerEntry) (got : Fmap Byte) (bad : List Nat) (x a : Nat) : Px :=
  if (needsOf e x a).any fun o => bad.contains o then ⟨0, 0, 0, 0⟩
  else
    let src := fun (x y : Nat) => pxAt e.fmt e.sw (fun o k => gotNum got (rowStart e y + o) k) x
    let conv := fun x y => if e.icscEn then src x y else clampPx (src x y)
    let p := sample e.sw e.sh e.dw e.dh conv (x - e.dx) (a - e.dy)
    let p := if e.icscEn then clampPx (matrix (e.icsc.map signed16v) p) else p
    alphaForm e.alpha e.plane p

/-- The background (R548). -/
def bgPx (s : State) (n : Nat) : Px :=
  ⟨unsignedValue 10 (dhNow s n F.DH_BG_R), unsignedValue 10 (dhNow s n F.DH_BG_G), unsignedValue 10 (dhNow s n F.DH_BG_B), pxOne⟩

/-- The pool layers blended over the background at (x, a) (R548). -/
def composePx (s : State) (n : Nat) (es : List LayerEntry) (got : Fmap Byte) (bad : List Nat) (x a : Nat) : Px :=
  es.foldl (fun p e => if coversPx e x a then blendPx (layerPx e got bad x a) p else p) (bgPx s n)

/-- The output matrix of a head in force (R556). -/
def ocscNow (s : State) (n : Nat) : List Int :=
  (List.range 12).map fun i => signed16v (s.rd pgCMT F.CMT_OCSC_NOW_VALUE (12 * n + i))

/-- What lies above the pool layers: PROTn, the output matrix, and rounding to 12 bits (R548 steps 3-5). -/
def finishPx (s : State) (n x a : Nat) (p : Px) : Nat × Nat × Nat :=
  let p := match protPx s n x a with | none => p | some l => blendPx l p
  let q := matrix (ocscNow s n) p
  (toUnsigned 12 q.c0, toUnsigned 12 q.c1, toUnsigned 12 q.c2)

/-- Whether the data of a pixel are there: no block it needs is still to be read or in flight. -/
def pxReady (es : List LayerEntry) (missing : List Nat) (x a : Nat) : Bool :=
  es.all fun e => !coversPx e x a || (needsOf e x a).all fun o => !missing.contains o

/-- The blocks of a line whose reads have not come back. -/
def missingBlocks (s : State) (n : Nat) (j : LineJob) : List Nat :=
  j.reads ++ ((s.outst.filter fun t => t.ep = epLine n && t.use = 1 && t.arg = j.line).map (·.arg2))

/-- Active line a as sent: every pixel composed, or, of a LATE line, only the first `k` of those whose data are there; every
later pixel repeats the last one, or the background (R526). -/
def lineOut (s : State) (n a k : Nat) (j : LineJob) : List (Nat × Nat × Nat) × Bool :=
  let w := activeH s n
  let es := shownOn s n
  let good :=
    if !j.late && j.complete then w
    else
      let m := missingBlocks s n j
      min k (((List.range w).find? fun x => !(j.granted && pxReady es m x a)).getD w)
  let px := (List.range w).map fun x =>
    let p := if x < good then composePx s n es j.got j.bad x a
      else if good = 0 then bgPx s n
      else composePx s n es j.got j.bad (good - 1) a
    finishPx s n x a p
  (px, decide (good < w))

/-- A 12-bit component at b bits, rounded to nearest even (R532). -/
def reduceTo (b v : Nat) : Nat := (rne ((v * (2 ^ b - 1) : Nat) : Int) 4095).toNat

/-- The pixels that the DPTX sends of a line (R532): reduced to BPC, the chroma of pixel pairs averaged for 4:2:2. -/
def dptxPixels (s : State) (n : Nat) (px : List (Nat × Nat × Nat)) : List (Nat × Nat × Nat) :=
  let b := bpcOf (dpNow s n F.DPTX_OUT_FMT_BPC)
  let px := if dpNow s n F.DPTX_OUT_FMT_COLOUR = 2 then
      px.mapIdx fun i p =>
        let q := px.getD (if i % 2 = 0 then i + 1 else i - 1) p
        (p.1, (rne ((p.2.1 + q.2.1 : Nat) : Int) 2).toNat, (rne ((p.2.2 + q.2.2 : Nat) : Int) 2).toNat)
    else px
  px.map fun p => (reduceTo b p.1, reduceTo b p.2.1, reduceTo b p.2.2)

/-- The effect of DH_LINE_SCANOUT out of reset (R526, R527). -/
def dhLineScanoutEffect (n a k : Nat) (s : State) : State :=
  match (s.head n).jobs.find? (fun j => j.line == a) with
  | none => s
  | some j =>
    if !scanning s n then s
    else
      let pg := pgDH n
      let s := if a = 0 then s.wr pg F.DH_STATUS_IN_VBLANK 0 else s
      let out := lineOut s n a k j
      let s := if out.2 then
          let s := irq pg 3 (s.bump pg F.DH_UNDERRUN_LINES)
          let s := if (s.head n).underNow then s else logEv pg 0x2804 s
          s.modHead n fun h => { h with underNow := true }
        else s
      let s := if (s.head n).pixels then
          sigLine n a out.1 { s with outbox := s.outbox ++ [Output.video n a (dptxPixels s n out.1)] }
        else s
      let s := forgetArg (epLine n) a s
      s.modHead n fun h => { h with jobs := h.jobs.filter fun j => !(j.line == a) }

/-- DH_LINE_SCANOUT (R526, R527): active line a is scanned out; `k` pixels of a LATE line are composed in time. Its units are
released, and the signatures see it as sent. -/
def execDhLineScanout (n a k : Nat) (s : State) : Host.Outcome State Fault Refusal :=
  live s (dhLineScanoutEffect n a k)

/-! Start and stop. -/

/-- ENABLE of an OFF head is written 1 (Table 18.2): the checks, then the values in force are taken and the PLL starts. -/
def dhStart (n : Nat) (s : State) : State :=
  let pg := pgDH n
  let cause :=
    if !s.avail pg then 1 else if !timingOk s n then 2
    else if 256 < reservedUnits s + s.rd pg F.DH_LS_RESERVE then 3 else 0
  if cause = 0 then
    let s := modePending n (takeStaged pg dhStartWords s)
    setDhState n dhSTARTING (s.modHead n fun h => { Head.fresh with aux := h.aux, caps := h.caps, irqWait := h.irqWait,
                                                                    load := h.load, commit := h.commit, lastCfg := h.lastCfg })
  else
    let s := (s.wr pg F.HDR_PAGE_CTRL_ENABLE 0).wr pg F.DH_START_FAIL_CAUSE cause
    logEv pg 0x080F (irq pg 7 s)

/-- A write of PAGE_CTRL of a head, already stored (Table 18.2). -/
def dhCtrl (n : Nat) (s : State) : State :=
  let run := s.running (pgDH n)
  let st := dhState s n
  if st = dhOFF then (if run then dhStart n s else s)
  else if st = dhRUN then (if run then s else hokJudge n (setDhState n dhSTOPPING s))
  else if st = dhSTOPPING then (if run then setDhState n dhRUN s else s)
  else s

/-- The effect of DH_PLL_LOCKED out of reset (R517). -/
def dhPllLockedEffect (n : Nat) (s : State) : State :=
  if dhState s n ≠ dhSTARTING then s
  else
    let pg := pgDH n
    let s := s.modHead n fun h => { h with bound := s.ticks, crc := List.replicate 16 (0, 0) }
    let s := logEv pg 0x0801 ((setDhState n dhRUN s).wr pg F.DH_STATUS_IN_VBLANK 1)
    let s := dpHeadStarts n (setOcsc n ((List.range 12).map identityElem) s)
    let s := protSync n s
    dhCtrl n (s.modHead n fun h => { h with held := decide (hokCauses s n = 0) })

/-- DH_PLL_LOCKED (R517): line 0 starts, the output matrix is identity (R556), and the transmitter may train. A stop asked for
while the PLL started takes effect at the first boundary. -/
def execDhPllLocked (n : Nat) (s : State) : Host.Outcome State Fault Refusal :=
  liveP s (dhPllLockedEffect n)

/-- The head reaches OFF at a boundary (Table 18.2, R574): the line store is released and the main link is idle. -/
def dhOff (n : Nat) (s : State) : State :=
  let pg := pgDH n
  let s := forgetUse (epLine n) (headLayersFree n (dpHeadOff n s))
  let s := s.modHead n fun h => { h with jobs := [] }
  let s := glEnter n glNONE (setDhState n dhOFF s)
  let s := ((s.wr pg F.DH_STATUS_IN_VBLANK 0).wr pg F.DH_POS_LINE 0).wr pg F.DH_POS_PIXEL 0
  hokJudge n (protSync n (logEv pg 0x0802 s))

/-- The genlock state at a boundary that takes new settings (Table 18.3). -/
def glBoundary (n old : Nat) (s : State) : State :=
  let src := dhNow s n F.DH_GENLOCK_SOURCE
  if src = 0 then glEnter n glNONE s
  else if glState s n = glNONE || (glState s n = glHOLDOVER && !decide (old = src)) then
    (glEnter n glACQUIRING s).modHead n fun h => { h with pulse := none }
  else s

/-- The boundary of a head in RUN, in the order of R514. -/
def frameBoundary (n : Nat) (s : State) : State :=
  let pg := pgDH n
  let old := dhNow s n F.DH_GENLOCK_SOURCE
  let s := glBoundary n old (takeStaged pg dhFrameWords s)
  let s := sigBoundary n (protBoundary n (commitBoundary n s))
  let s := (s.inc pg F.DH_FRAME_COUNT_COUNT).wr64 pg F.DH_FRAME_MET_LO_MET F.DH_FRAME_MET_HI_MET s.met
  let s := (shownOn s n).foldl (fun s e => s.inc (layerPg e.layer) F.LAYER_FRAMES_SHOWN_COUNT) s
  let s := forgetUse (epLine n) s
  let valid := decide (dpState s n = dpVALID)
  let s := s.modHead n fun h =>
    { h with jobs := [], latePrev := h.lateNow, lateNow := false, underNow := false, poisNow := false, bound := s.ticks,
             jump := h.jumpNext, jumpNext := 0, pixels := valid, whole := valid }
  irq pg 0 (protSync n (hokRecover n s))

/-- DH_FRAME_BOUNDARY (R514): pixel 0 of line 0; a head that is STOPPING reaches OFF instead (Table 18.2). -/
def execDhFrameBoundary (n : Nat) (s : State) : Host.Outcome State Fault Refusal :=
  liveP s fun s =>
    if dhState s n = dhRUN then frameBoundary n s
    else if dhState s n = dhSTOPPING then dhOff n s
    else s

/-- DH_VBLANK_START (R515): the first front-porch line; the link retrains when it must (R535). -/
def execDhVblankStart (n : Nat) (s : State) : Host.Outcome State Fault Refusal :=
  live s fun s =>
    if scanning s n then dpVblank n (irq (pgDH n) 1 (s.wr (pgDH n) F.DH_STATUS_IN_VBLANK 1)) else s

end Sys2Proof.Machine
end

