-- ==== Sys2Proof/Machine/Host.lean ====
section
/-! DEFINITION. The PCIe endpoint (22): the link, functions, the aperture, host queues, MSI-X and function level reset. -/
namespace Sys2Proof.Machine
open Sys2Proof

/-! Functions. -/

/-- The requester of a function: its partition, or the management domain for the PF (R638). -/
def fnReq (s : State) (fn : Nat) : Nat := s.rd (pgFN fn) F.FN_FN_ID_REQUESTER
/-- A function is the PF or bound. -/
def fnBound (s : State) (fn : Nat) : Bool := s.flag (pgFN fn) F.FN_FN_ID_BOUND
/-- The class of a function's requests. -/
def fnTc (s : State) (fn : Nat) : Nat := s.rd (pgFN fn) F.FN_FN_CFG_TC
/-- A write that a function's rules discard. -/
def badWrite (fn : Nat) (s : State) : State := s.bump (pgFN fn) F.FN_FN_COUNTS_BAD_WRITES
/-- The endpoint of function or queue i (Table 12.3); their requests are told apart by their use. -/
def epHIF (i : Nat) : Nat := 0xA40 + i

/-- A chip output. -/
def State.emit (s : State) (o : Output) : State := { s with outbox := s.outbox ++ [o] }

/-- The link is up. -/
def linkUp (s : State) : Bool := s.flag pgHIF F.HIF_LINK_STATUS_DL_ACTIVE

/-- BARs are served: the link is up at 16 GT/s or more, and the boot is done (R114, R637). -/
def barsServed (s : State) : Bool := linkUp s && decide (s.rd pgHIF F.HIF_LINK_STATUS_SPEED ≠ 0) && s.done

/-! The link (R637, R659, R660). -/

/-- PCIE_LINK_UP (R637): the link trains at x16 to a speed, at most MAX_SPEED, and comes up. -/
def execPcieLinkUp (speed : Nat) (flit : Bool) (s : State) : Host.Outcome State Fault Refusal :=
  live s fun s =>
    if linkUp s || !s.chip.perstN || !s.chip.refPcie then s
    else
      let s := s.wr pgHIF F.HIF_LINK_STATUS_SPEED (min speed (s.rd pgHIF F.HIF_LINK_CFG_MAX_SPEED))
      let s := (s.wr pgHIF F.HIF_LINK_STATUS_FLIT (b2n flit)).wr pgHIF F.HIF_LINK_STATUS_DL_ACTIVE 1
      logEv pgHIF 0x0B01 (irq pgHIF 0 s)

/-- PCIE_TRAINING_FAIL (R637): training ends at another width; back to Detect. -/
def execPcieTrainingFail (s : State) : Host.Outcome State Fault Refusal :=
  live s fun s => if linkUp s then s else logEv pgHIF 0x1B03 (irq pgHIF 2 (s.bump pgHIF F.HIF_COUNTS_TRAIN_FAILS))

/-- PCIE_SPEED_RECOVERY (R637): below 16 GT/s the link is directed to Recovery, and reaches a speed of at most MAX_SPEED. -/
def execPcieSpeedRecovery (speed : Nat) (s : State) : Host.Outcome State Fault Refusal :=
  live s fun s =>
    if linkUp s && s.rd pgHIF F.HIF_LINK_STATUS_SPEED = 0 then
      let m := s.rd pgHIF F.HIF_LINK_CFG_MAX_SPEED
      (s.emit (.pcieRecovery m)).wr pgHIF F.HIF_LINK_STATUS_SPEED (min speed m)
    else s

/-- The Data Link layer has gone down (R659). -/
def linkDown (s : State) : State :=
  if !linkUp s then s
  else
    let s := (List.range 64).foldl (fun s q =>
      let s := s.modHq q fun x => { x with ringing := false, cmds := [], fin := [], drained := false }
      if hqRd s q F.HQ_QCFG_STATE = 1 then hqLeave q 3 s else s) s
    let s := (List.range 3).foldl (fun s k =>
      let n := (s.stream k).pages.length
      let s := (stWr k F.HIF_ST_CTRL_EN 0 s).bump pgHIF F.HIF_ST_COUNTS_DROPPED n 0 k
      s.modStream k fun x => { x with pages := [], backlog := [] }) s
    let s := { s with host := { s.host with tlps := s.host.tlps.filter (·.write) }, msi := { s.msi with coal := [], pba := [] } }
    let s := (s.wr pgHIF F.HIF_LINK_STATUS_SPEED 0).wr pgHIF F.HIF_LINK_STATUS_FLIT 0
    let s := (s.wr pgHIF F.HIF_LINK_STATUS_DL_ACTIVE 0).bump pgHIF F.HIF_COUNTS_LINK_DOWNS
    let s := s.wr64 pgHIF F.HIF_DOWN_MET_LO_MET F.HIF_DOWN_MET_HI_MET s.met
    logEv pgHIF 0x2B02 (irq pgHIF 1 s)

/-- PCIE_LINK_DOWN (R659). -/
def execPcieLinkDown (s : State) : Host.Outcome State Fault Refusal := liveP s linkDown

/-- PCIE_REFCLK_LOSS (26 R742): the reference clock is absent or present again; its loss takes the link down. -/
def execPcieRefclkLoss (present : Bool) (s : State) : Host.Outcome State Fault Refusal :=
  let s := { s with chip := { s.chip with refPcie := present } }
  if present then .next s else liveP s linkDown

/-- The words of a function block (Table 22.3). -/
def fnWords (fn : Nat) : List Nat := (List.range 0x400).map fun k => pgFN fn + 4 * k

/-- Function block and MSI-X table of a function at their reset values; FN_ID shows the binding as before. -/
def fnReset (fn : Nat) (s : State) : State :=
  let id := s.word (pgFN fn)
  let s := (fnWords fn).foldl (fun s a => s.setWord a (wordReset a)) s
  let s := s.setWord (pgFN fn) id
  let keep := fun (l : List Nat) => l.filter fun i => !decide (i / 256 = fn)
  { s with msi := { enabled := s.msi.enabled.erase fn, fmask := s.msi.fmask.erase fn, opened := keep s.msi.opened,
                    busy := keep s.msi.busy, coal := keep s.msi.coal, pba := keep s.msi.pba } }

/-- PERST_N_ASSERT (R110, R660): a warm reset, or with PERST_ACTION = 1 what R659 does with configuration space, function
blocks and MSI-X tables at their reset values. -/
def execPerstNAssert (s : State) : Host.Outcome State Fault Refusal :=
  let link := decide (s.rd pgCHIP F.CHIP_RESET_CFG_PERST_ACTION = 1) && !s.chip.inReset
  let s := { s with chip := { s.chip with perstN := false } }
  if !s.powered then .next s
  else if link then
    liveP s fun s => ((List.range 33).foldl (fun s f => fnReset f s) (linkDown s)).wr pgHIF F.HIF_LINK_STATUS_NUM_VFS 0
  else .next (enterReset 5 0 s)

/-- PERST_N_RELEASE (R637): PERST_N goes high; the endpoint may train. -/
def execPerstNRelease (s : State) : Host.Outcome State Fault Refusal :=
  .next { s with chip := { s.chip with perstN := true } }

/-- The effect of PCIE_CONFIG_REQUEST out of reset (R636, R637). -/
def pcieConfigRequestEffect (fn tag : Nat) (c : CfgReq) (s : State) : State :=
  if !s.chip.perstN || !linkUp s then s
  else
    match c with
    | .read reg =>
      let vendor := s.free 16
      let other := s.free 32
      let rev := s.free 8
      let r := if reg = 0 then (vendor.1 + (if fn = 0 then 0x5004 else 0x5005) * 2 ^ 16, vendor.2)
        else if reg = 8 then (rev.1 + 0x120000 * 2 ^ 8, rev.2) else (other.1, other.2)
      r.2.emit (.completion fn tag 0 false (leBytes 4 r.1))
    | .numVfs n => (if fn = 0 then s.wr pgHIF F.HIF_LINK_STATUS_NUM_VFS (min n 32) else s).emit (.completion fn tag 0 false [])
    | .msix en mask =>
      let on := fun (b : Bool) (l : List Nat) => if b then fn :: l.erase fn else l.erase fn
      let s := { s with msi := { s.msi with enabled := on en s.msi.enabled, fmask := on mask s.msi.fmask } }
      msixFlush fn (s.emit (.completion fn tag 0 false []))

/-- PCIE_CONFIG_REQUEST (R636, R637): a configuration request of function fn is answered: a read of a register, a write of the
number of VFs, or one of the MSI-X control (enable, function mask). -/
def execPcieConfigRequest (fn tag : Nat) (c : CfgReq) (s : State) : Host.Outcome State Fault Refusal :=
  live s (pcieConfigRequestEffect fn tag c)

/-- The vector control of a vector of the MSI-X table is written: its mask bit (R655). -/
def msixMaskWrite (fn v : Nat) (mask : Bool) (s : State) : State :=
  let id := fn * 256 + v
  let l := s.msi.opened.erase id
  msixFlush fn { s with msi := { s.msi with opened := if mask then l else id :: l } }

/-- The effect of MSIX_MODERATION_END out of reset (R655). -/
def msixModerationEndEffect (fn v : Nat) (s : State) : State :=
  let id := fn * 256 + v
  if s.msi.busy.contains id then
    let coal := s.msi.coal.contains id
    let s := { s with msi := { s.msi with busy := s.msi.busy.erase id, coal := s.msi.coal.erase id } }
    if coal then msixRaise fn v s else s
  else s

/-- MSIX_MODERATION_END (R655): the MOD interval of a vector ends, and a coalesced message is sent. -/
def execMsixModerationEnd (fn v : Nat) (s : State) : Host.Outcome State Fault Refusal :=
  live s (msixModerationEndEffect fn v)

/-! The aperture (R639-R643). -/

/-- A failure of an aperture access: the first since CNT_CLR logs event 0x2B04 (R643, Table 24.8). -/
def apFail (fn st ga : Nat) (s : State) : State :=
  let s := irq pgHIF 5 s
  if s.host.apLogged then s
  else logEv pgHIF 0x2B04 { s with host := { s.host with apLogged := true } } (fn + st * 2 ^ 16) (ga % 2 ^ 32) (ga / 2 ^ 32)

/-- A posted write that fails is discarded and counted (R643). -/
def postedFail (fn st ga : Nat) (s : State) : State :=
  apFail fn st ga ((s.bump pgHIF F.HIF_COUNTS3_POSTED_DROPS).bump (pgFN fn) F.FN_FN_COUNTS_AP_FAULTS)

/-- A read completes with UR (1) or CA (2), and is counted (R643). -/
def readFail (fn tag c : Nat) (s : State) : State :=
  let s := if c = 1 then s.bump pgHIF F.HIF_COUNTS2_UR_SENT else s.bump pgHIF F.HIF_COUNTS2_CA_SENT
  s.emit (.completion fn tag c false [])

/-- The global address of aperture offset o of a function, when its slot is VALID (R640): slot size S is 1 GiB on the PF and
256 MiB on a VF. -/
def apAddress (s : State) (fn o : Nat) : Option (Nat × Bool) :=
  let sz := if fn = 0 then 2 ^ 30 else 2 ^ 28
  let i := o / sz
  if i < 4 && s.flag (pgFN fn) F.FN_AP_LO_VALID i then
    some (s.rd (pgFN fn) F.FN_AP_LO_BASE i * 2 ^ 28 + s.rd (pgFN fn) F.FN_AP_HI_BASE i * 2 ^ 32 + o % sz, s.flag (pgFN fn) F.FN_AP_LO_ORDERED i)
  else none

/-- The base and offset of an access whose slot is not VALID, for its event. -/
def apRaw (s : State) (fn o : Nat) : Nat :=
  let sz := if fn = 0 then 2 ^ 30 else 2 ^ 28
  let i := o / sz
  if i < 4 then s.rd (pgFN fn) F.FN_AP_LO_BASE i * 2 ^ 28 + s.rd (pgFN fn) F.FN_AP_HI_BASE i * 2 ^ 32 + o % sz else o % sz

/-- The state with one access of the aperture changed. -/
def modTlp (id : Nat) (f : HostTlp → HostTlp) (s : State) : State :=
  { s with host := { s.host with tlps := s.host.tlps.map fun t => if t.id = id then f t else t } }

/-- The access of a function whose next piece may go: accesses start in arrival order, the pieces of an ORDERED write one by
one, and a read once every write before it has completed (R642). -/
def apNext : Bool → List HostTlp → Option HostTlp
  | _, [] => none
  | writes, t :: r =>
    if t.pos = t.len then apNext (writes || t.write) r
    else if t.write then (if t.ordered && decide (0 < t.flying) then none else some t)
    else if writes then none else some t

/-- Sends what the aperture of a function may send, cut at every 256-byte boundary (R641). -/
def apPump (fn : Nat) : Nat → State → State
  | 0, s => s
  | fuel + 1, s =>
    match apNext false (s.host.tlps.filter fun t => t.fn = fn) with
    | none => s
    | some t =>
      if 240 ≤ (s.waitingOf (epHIF fn)).length then s
      else
        let a := t.ga + t.pos
        let n := min (256 - a % 256) (t.len - t.pos)
        let s := modTlp t.id (fun t => { t with pos := t.pos + n, flying := t.flying + 1 }) s
        apPump fn fuel <| send
          { ep := epHIF fn, req := fnReq s fn, dst := gaChip a, offset := gaOff a, op := if t.write then opWRITE else opREAD,
            words := n / 4, data := if t.write then slice t.data t.pos n else [], tc := fnTc s fn, ordered := t.ordered,
            use := 1, arg := t.id, arg2 := t.pos } s

/-- An access that has ended leaves: a read completes to the host (R643). -/
def apEnd (t : HostTlp) (s : State) : State :=
  let s := { s with host := { s.host with tlps := s.host.tlps.filter fun x => !decide (x.id = t.id) } }
  let s :=
    if t.write then (if t.bad = 0 then s else postedFail t.fn (t.bad - 1) t.ga s)
    else if t.bad ≠ 0 then
      let st := t.bad - 1
      readFail t.fn t.tag (if st = stUNMAPPED || st = stNOT_IN_SLICE || st = stDENIED then 1 else 2) (apFail t.fn st t.ga s)
    else
      let bs := mread (fun _ => 0) (t.got.foldl (fun m p => mwrite (fun _ => 0) m p.1 p.2) []) t.skip t.want
      let s := if t.poison then apFail t.fn 0x10 t.ga s else s
      s.emit (.completion t.fn t.tag 0 t.poison bs)
  apPump t.fn 64 s

/-- The response to a piece of an aperture access. -/
def apResult (id o : Nat) (r : Res) (s : State) : State :=
  match s.host.tlps.find? fun t => t.id = id with
  | none => s
  | some t =>
    let fail := fun (st : Nat) => { t with flying := t.flying - 1, bad := if t.bad = 0 then st + 1 else t.bad }
    let (t, s) := match r with
      | .data bs p =>
        ({ t with flying := t.flying - 1, got := t.got ++ [(o, bs)], poison := t.poison || p },
         if p then poisonSeen F.ERR_POISON_A_HOST s else s)
      | .ack => ({ t with flying := t.flying - 1 }, s)
      | .err st => (fail st, s)
      | .timeout => (fail 0x11, s)
    let s := modTlp id (fun _ => t) s
    if t.pos = t.len && t.flying = 0 then apEnd t s else apPump t.fn 64 s

/-- An access is queued for its function. -/
def apStart (t : HostTlp) (s : State) : State :=
  let t := { t with id := s.host.tlpId }
  apPump t.fn 64 { s with host := { s.host with tlps := s.host.tlps ++ [t], tlpId := s.host.tlpId + 1 } }

/-- The effect of HOST_APERTURE_READ out of reset (R638-R643). -/
def hostApertureReadEffect (fn tag o len : Nat) (s : State) : State :=
  if !linkUp s || len = 0 || decide (4096 < o % 4096 + len) then s
  else if !barsServed s || !fnBound s fn || s.host.flr.contains fn then readFail fn tag 1 s
  else
    match apAddress s fn o with
    | none => readFail fn tag 1 (apFail fn 0x12 (apRaw s fn o) s)
    | some (ga, ordered) =>
      let skip := ga % 4
      apStart { id := 0, fn := fn, tag := tag, write := false, ordered := ordered, ga := ga - skip, len := (skip + len + 3) / 4 * 4, data := [],
                pos := 0, flying := 0, bad := 0, poison := false, got := [], skip := skip, want := len } s

/-- HOST_APERTURE_READ (R638-R643): a read TLP of `len` bytes at an aperture offset: whole words are read. -/
def execHostApertureRead (fn tag o len : Nat) (s : State) : Host.Outcome State Fault Refusal :=
  liveP s (hostApertureReadEffect fn tag o len)

/-- The effect of HOST_APERTURE_WRITE out of reset (R638-R643, R691). -/
def hostApertureWriteEffect (fn o : Nat) (ep : Bool) (bs : List Byte) (s : State) : State :=
  let len := bs.length
  if !linkUp s || len = 0 || decide (512 < len) || decide (4096 < o % 4096 + len) then s
  else if !barsServed s || s.host.flr.contains fn then s
  else if !fnBound s fn then badWrite fn s
  else if ep then (poisonSeen F.ERR_POISON_A_HOST s).emit (.aer fn 1)
  else if !decide (o % 4 = 0) || !decide (len % 4 = 0) then (s.bump pgHIF F.HIF_COUNTS3_POSTED_DROPS).emit (.aer fn 0)
  else
    match apAddress s fn o with
    | none => postedFail fn 0x12 (apRaw s fn o) s
    | some (ga, ordered) =>
      apStart { id := 0, fn := fn, tag := 0, write := true, ordered := ordered, ga := ga, len := len, data := bs,
                pos := 0, flying := 0, bad := 0, poison := false, got := [], skip := 0, want := 0 } s

/-- HOST_APERTURE_WRITE (R638-R643, R691): a posted write TLP; `ep` says that it came poisoned. A partial word at either end
discards it whole. -/
def execHostApertureWrite (fn o : Nat) (ep : Bool) (bs : List Byte) (s : State) : Host.Outcome State Fault Refusal :=
  liveP s (hostApertureWriteEffect fn o ep bs)

/-! Host queues (R646-R651). -/

/-- D, the depth of a queue. -/
def hqDepth (s : State) (q : Nat) : Nat := 2 ^ hqRd s q F.HQ_QCFG_DEPTH_LOG2
/-- The function of a queue. -/
def hqFn (s : State) (q : Nat) : Nat := hqRd s q F.HQ_QCFG_FUNC
/-- The lap parity of command number n: 1 on an even lap. -/
def lapParity (s : State) (q n : Nat) : Nat := 1 - n / hqDepth s q % 2

/-- A write of QCFG of queue q (Table 22.4); FUNC and LOCAL take a value from the management domain alone. -/
def qcfgWrite (req q v : Nat) (s : State) : State :=
  let off := hqRd s q F.HQ_QCFG_EN = 0
  let s := if off then hqWr q F.HQ_QCFG_DEPTH_LOG2 (max 4 (min 12 (getBits v 1 4))) s else s
  let s := hqWr q F.HQ_QCFG_IRQ_EN (getBits v 16 1) (hqWr q F.HQ_QCFG_VECTOR (getBits v 8 8) s)
  let s := hqWr q F.HQ_QCFG_INFLIGHT (getBits v 26 3) s
  let s := if req = mgmt then hqWr q F.HQ_QCFG_LOCAL (getBits v 23 3) (hqWr q F.HQ_QCFG_FUNC (getBits v 17 6) s) else s
  if bitOf v 0 then
    let s := hqWr q F.HQ_QCFG_STATE 1 (hqWr q F.HQ_QCFG_EN 1 s)
    let s := hqWr q F.HQ_QSTATUS_COMPLETED 0 (hqWr q F.HQ_QSTATUS_CLAIMED 0 s)
    s.modHq q fun _ => HostQ.fresh
  else if off then s
  else
    let s := if hqRd s q F.HQ_QCFG_STATE = 1 then hqLeave q 0 s else hqWr q F.HQ_QCFG_EN 0 s
    s.modHq q fun x => { x with ringing := false, cmds := [], fin := [] }

/-- A write of a queue's registers by a requester: the management domain at the HQ page, or the function that owns it (Table
22.4). -/
def hqWrite (req q off : Nat) (eff : State → State) (s : State) : State :=
  if req = mgmt then regWrite req (hqPg q + 0x100 + 0x18 * (q % 32) + off) eff s
  else if decide (hqFn s q < 33) && fnBound s (hqFn s q) && fnReq s (hqFn s q) = req && served s mgmt pgHIF then eff s
  else s

/-- HQ_QUEUE_ENABLE (R646): a write of QCFG. -/
def execHqQueueEnable (req q : Nat) (v : Word) (s : State) : Host.Outcome State Fault Refusal :=
  liveP s (hqWrite req q 0x10 (qcfgWrite req q v.toNat))

/-- The effect of HQ_CLAIM out of reset (R647). -/
def hqClaimEffect (fn tag q n : Nat) (s : State) : State :=
  if !linkUp s then s
  else if !barsServed s || !fnBound s fn then readFail fn tag 1 s
  else wakeFor (fun s =>
    let x := s.hq q
    let c := hqRd s q F.HQ_QSTATUS_CLAIMED
    let run := decide (hqRd s q F.HQ_QCFG_STATE = 1)
    let free := hqDepth s q - (c + 65536 - x.consumed) % 65536
    let ok := decide (hqFn s q = fn) && run && s.running (hqPg q) && !x.flr && !x.drained && decide (n ≤ free)
    let v := if ok then c % hqDepth s q + lapParity s q c * 2 ^ 12 + n * 2 ^ 16 else 2 ^ 31 + b2n (!run) * 2 ^ 30
    let s := if ok then hqWr q F.HQ_QSTATUS_CLAIMED (c + n) s else s
    s.emit (.completion fn tag 0 false (leBytes 4 v))) s

/-- HQ_CLAIM (R647): function fn reads CLAIM[n] of a queue: n slots, or BUSY. -/
def execHqClaim (fn tag q n : Nat) (s : State) : Host.Outcome State Fault Refusal :=
  liveP s (hqClaimEffect fn tag q n)

/-- The next claimed slot is read from host memory (R648); a stopped page reads no further commands (R79). -/
def hqFetch (q : Nat) (s : State) : State :=
  let x := s.hq q
  if !s.running (hqPg q) then s
  else if x.ringing && decide (x.read ≠ hqRd s q F.HQ_QSTATUS_CLAIMED) then
    let base := hqRd s q F.HQ_SQ_LO_BASE * 64 + hqRd s q F.HQ_SQ_HI_BASE * 2 ^ 32
    s.emit (.hostRead (hqFn s q) (base + x.read % hqDepth s q * 64) 64)
  else s.modHq q fun x => { x with ringing := false }

/-- The effect of HQ_RING out of reset (R648). -/
def hqRingEffect (fn q : Nat) (s : State) : State :=
  if !barsServed s then s
  else if !fnBound s fn then badWrite fn s
  else wakeFor (fun s =>
    let x := s.hq q
    if hqFn s q = fn && hqRd s q F.HQ_QCFG_STATE = 1 && !x.flr && !x.drained then
      hqFetch q (s.modHq q fun x => { x with ringing := true })
    else s) s

/-- HQ_RING (R648): a write to RING. -/
def execHqRing (fn q : Nat) (s : State) : Host.Outcome State Fault Refusal :=
  liveP s (hqRingEffect fn q)

/-- Fields of a command (Table 22.5). -/
def hcW (w : List Nat) (k : Nat) : Nat := w.getD k 0
def hcOp (w : List Nat) : Nat := getBits (hcW w 0) 0 8
def hcSrc (w : List Nat) : Nat := hcW w 2 + hcW w 3 * 2 ^ 32
def hcDst (w : List Nat) : Nat := hcW w 4 + hcW w 5 * 2 ^ 32
def hcLen (w : List Nat) : Nat := getBits (hcW w 6) 0 28
def hcSrcHost (w : List Nat) : Bool := bitOf (hcW w 7) 0
def hcDstHost (w : List Nat) : Bool := bitOf (hcW w 7) 1
def hcOrdered (w : List Nat) : Bool := bitOf (hcW w 7) 2
def hcDesc (w : List Nat) : Nat := hcW w 8 + hcW w 9 * 2 ^ 32

/-- The checks of a command as it is read: the failing word (R649). -/
def hcBad (w : List Nat) : Option Nat :=
  let op := hcOp w
  let len := hcLen w
  let lenBad := fun lo hi => decide (len < lo) || decide (hi < len) || !decide (len % 4 = 0)
  let copy := decide (op = 1)
  let write := decide (op = 3)
  firstFail
    [(decide (3 < op), 0), (!decide (getBits (hcW w 0) 8 7 = 0 && getBits (hcW w 0) 18 14 = 0), 0),
     (!decide (getBits (hcW w 6) 28 4 = 0), 6), (!decide (getBits (hcW w 7) 3 29 = 0), 7),
     (copy && lenBad 4 0xFFFFFFC, 6), (copy && !decide (hcSrc w % 4 = 0), 2), (copy && !decide (hcDst w % 4 = 0), 4),
     (copy && hcSrcHost w && hcDstHost w, 7), (copy && !hcSrcHost w && !gaOk (hcSrc w), 3), (copy && !hcDstHost w && !gaOk (hcDst w), 5),
     (write && lenBad 4 32, 6), (write && hcDstHost w, 7), (write && !gaOk (hcDst w), 5),
     (decide (op = 2) && !descOk (hcDesc w), 8)]

/-- Bytes that a command moves. -/
def hcMove (w : List Nat) : Nat := if hcOp w = 1 || hcOp w = 3 then hcLen w else 0

/-- The state with a command of a queue changed. -/
def modCmd (q num : Nat) (f : HostCmd → HostCmd) (s : State) : State :=
  s.modHq q fun x => { x with cmds := x.cmds.map fun c => if c.num = num then f c else c }

/-- A command completes: it waits for its entry, in the order of completion (R650). After a function level reset none is
written (R661). -/
def cmdDone (q : Nat) (c : HostCmd) (status : Nat) (detail : Option Nat) (s : State) : State :=
  s.modHq q fun x =>
    { x with cmds := x.cmds.filter (fun e => !decide (e.num = c.num)),
             fin := if x.flr then x.fin else x.fin ++ [{ num := c.num, w := c.w, status := status, detail := detail }] }

/-- A request of a queue goes out, with the function's requester and class. -/
def hqSend (q : Nat) (op use num arg2 ga words : Nat) (data : List Byte) (ordered : Bool) (s : State) : State :=
  let fn := hqFn s q
  send { ep := epHIF q, req := fnReq s fn, dst := gaChip ga, offset := gaOff ga, op := op, words := words, data := data,
         tc := fnTc s fn, ordered := ordered, use := use, arg := num, arg2 := arg2 } s

/-- A command starts (R649). -/
def cmdStart (q : Nat) (c : HostCmd) (s : State) : State :=
  let s := modCmd q c.num (fun c => { c with started := true }) s
  match hcOp c.w with
  | 2 =>
    let d := hcDesc c.w
    let s := modCmd q c.num (fun c => { c with fly := 1 }) s
    if dKIND d then hqSend q (opATOMIC 10) 4 c.num 0 (dCHIP d * 2 ^ 43 + fenceOff (dTILE d)) 1 (leBytes 4 (dVALUE d)) false s
    else hqSend q opCSIG 4 c.num 0 (dCHIP d * 2 ^ 43 + (sramBase + dTILE d * 0x40000 + 4 * dCTR d)) 1 (leBytes 4 (dVALUE d)) false s
  | 3 =>
    let bs := ((c.w.drop 8).flatMap (leBytes 4)).take (hcLen c.w)
    let ps := (pieces256 (hcDst c.w) bs.length).map fun p => (p.1 - hcDst c.w, slice bs (p.1 - hcDst c.w) p.2)
    modCmd q c.num (fun c => { c with parts := ps, pos := bs.length }) s
  | _ => s

/-- The unstarted command that may start: the first, with fewer than INFLIGHT + 1 in flight; FENCE and SIGNAL wait for every
earlier command to have completed (R648, R649). -/
def cmdToStart (s : State) (q : Nat) : Option HostCmd :=
  let x := s.hq q
  match x.cmds.find? fun c => !c.started with
  | none => none
  | some c =>
    let flying := (x.cmds.filter (·.started)).length
    let first := (x.cmds.head?.map (·.num)) == some c.num
    if flying ≤ hqRd s q F.HQ_QCFG_INFLIGHT && (first || !(bitOf (hcW c.w 0) 16 || hcOp c.w = 2)) then some c else none

/-- Requests of one command in flight at most. -/
def cmdLimit : Nat := 16

/-- The piece of a command that may be written now: any that has arrived, or with ORDERED the next one once none is in
flight (R353). -/
def cmdPart (c : HostCmd) : Option (Nat × List Byte) :=
  if cmdLimit ≤ c.fly || c.bad.isSome then none
  else if hcOrdered c.w then (if 0 < c.wfly then none else c.parts.find? fun p => p.1 = c.wpos)
  else c.parts.head?

/-- Bytes of the next piece to ask for at the source: it crosses no 256-byte boundary of a global address. -/
def cmdChunk (c : HostCmd) : Nat :=
  let room := fun (host : Bool) a => if host then 256 else 256 - (a + c.pos) % 256
  min (hcMove c.w - c.pos) (min (room (hcSrcHost c.w) (hcSrc c.w)) (room (hcDstHost c.w) (hcDst c.w)))

/-- One thing a queue can do next: start a command, write or read a piece, or complete a command; none when nothing can be
done before something arrives. -/
def hqAct (q : Nat) (s : State) : Option State :=
  let x := s.hq q
  match (if x.flr || x.drained then none else cmdToStart s q) with
  | some c => some (cmdStart q c s)
  | none =>
    match x.cmds.find? fun c => c.started && (cmdPart c).isSome with
    | some c =>
      match cmdPart c with
      | none => none
      | some p =>
        let n := p.2.length
        let drop := fun (c : HostCmd) => { c with parts := c.parts.filter (fun e => !decide (e.1 = p.1)), wpos := c.wpos + n }
        if hcDstHost c.w then some (modCmd q c.num drop (hostWrite (hqFn s q) (hcDst c.w + p.1) p.2 s))
        else
          let s := modCmd q c.num (fun c => { drop c with fly := c.fly + 1, wfly := c.wfly + 1 }) s
          some (hqSend q opWRITE 3 c.num p.1 (hcDst c.w + p.1) (n / 4) p.2 (hcOrdered c.w) s)
    | none =>
      match x.cmds.find? fun c => c.started && c.bad.isNone && decide (c.pos < hcMove c.w) && decide (c.fly + c.parts.length < cmdLimit) with
      | some c =>
        let n := cmdChunk c
        let s := modCmd q c.num (fun c => { c with pos := c.pos + n, fly := c.fly + 1 }) s
        let a := hcSrc c.w + c.pos
        if hcSrcHost c.w then
          some ((modCmd q c.num (fun c => { c with hreads := c.hreads ++ [c.pos - n] }) s).emit (.hostRead (hqFn s q) a n))
        else some (hqSend q opREAD 2 c.num c.pos a (n / 4) [] false s)
      | none =>
        match x.cmds.find? fun c => c.started && c.fly = 0 && (c.bad.isSome || (c.pos = hcMove c.w && c.parts.isEmpty)) with
        | some c =>
          match c.bad with
          | some b => some (cmdDone q c b.1 b.2 s)
          | none => some (cmdDone q c 0 none s)
        | none => none

/-- A queue does all it can. -/
def hqPump (q : Nat) : Nat → State → State
  | 0, s => s
  | fuel + 1, s => match hqAct q s with | none => s | some s => hqPump q fuel s

/-- A valid slot is taken: its command joins those in progress, and completes at once where a check of R649 fails. -/
def hqTakeSlot (q : Nat) (w : List Nat) (s : State) : State :=
  let c : HostCmd := { num := (s.hq q).read, w := w, started := false, pos := 0, hreads := [], fly := 0, parts := [], wpos := 0,
                       wfly := 0, bad := none }
  let s := s.modHq q fun x => { x with read := (x.read + 1) % 65536, cmds := x.cmds ++ [c] }
  let s := match hcBad w with | none => s | some k => cmdDone q c 1 (some k) s
  hqPump q 256 (hqFetch q s)

/-- The queue takes the sixteen words of the next claimed slot, read from host memory (R648, R649). `op` says whether the row
names the command's OP. -/
def hqTake (q : Nat) (w : List Word) (op : Nat → Bool) (s : State) : State :=
  let x := s.hq q
  let w := w.map BitVec.toNat
  if !x.ringing || x.read = hqRd s q F.HQ_QSTATUS_CLAIMED || hqRd s q F.HQ_QCFG_STATE ≠ 1 || !op (hcOp w) then s
  else if getBits (hcW w 0) 15 1 ≠ lapParity s q x.read then s.modHq q fun x => { x with ringing := false }
  else hqTakeSlot q w s

/-- HQ_CMD_NOP (R649): a NOP, or a command of an OP that is no other's, which is BAD_CMD. -/
def execHqCmdNop (q : Nat) (w : List Word) (s : State) : Host.Outcome State Fault Refusal :=
  liveP s (hqTake q w fun op => op = 0 || decide (3 < op))

/-- HQ_CMD_COPY (R649). -/
def execHqCmdCopy (q : Nat) (w : List Word) (s : State) : Host.Outcome State Fault Refusal := liveP s (hqTake q w fun op => op = 1)

/-- HQ_CMD_SIGNAL (R649). -/
def execHqCmdSignal (q : Nat) (w : List Word) (s : State) : Host.Outcome State Fault Refusal := liveP s (hqTake q w fun op => op = 2)

/-- HQ_CMD_WRITE (R649). -/
def execHqCmdWrite (q : Nat) (w : List Word) (s : State) : Host.Outcome State Fault Refusal := liveP s (hqTake q w fun op => op = 3)

/-- A host read of a command fails (R650): HOST_FAULT. -/
def hostFault (s : State) : State :=
  let s := s.bump pgHIF F.HIF_COUNTS3_HOST_FAULTS
  if s.host.faultLogged then s else logEv pgHIF 0x2B06 { s with host := { s.host with faultLogged := true } }

/-- The effect of HOST_READ_COMPLETION out of reset (R650, R691). -/
def hostReadCompletionEffect (q num o status : Nat) (bs : List Byte) (s : State) : State :=
  match (s.hq q).cmds.find? fun c => c.num = num && c.hreads.contains o with
  | none => s
  | some c =>
    let s := modCmd q num (fun c => { c with hreads := c.hreads.erase o, fly := c.fly - 1 }) s
    let s := if status = 0 then modCmd q num (fun c => { c with parts := c.parts ++ [(o, bs)] }) s
      else
        let s := if status = 3 then poisonSeen F.ERR_POISON_A_HOST s else s
        if c.bad.isSome then s else modCmd q num (fun c => { c with bad := some (5, none) }) (hostFault s)
    hqPump q 256 s

/-- HOST_READ_COMPLETION (R650, R691): the completion of a read of host memory for command `num` of a queue, at an offset of its
transfer: 0 the data, 1 UR, 2 CA, 3 poisoned. -/
def execHostReadCompletion (q num o status : Nat) (bs : List Byte) (s : State) : Host.Outcome State Fault Refusal :=
  liveP s (hostReadCompletionEffect q num o status bs)

/-- The response to a global access of a queue: 2 a read of a COPY, 3 a write, 4 a signal (R650). -/
def hqResult (q use num o dst : Nat) (r : Res) (s : State) : State :=
  match (s.hq q).cmds.find? fun c => c.num = num with
  | none => s
  | some c =>
    let base := { c with fly := c.fly - 1, wfly := if use = 3 then c.wfly - 1 else c.wfly }
    let fail := fun (b : Nat × Option Nat) => if c.bad.isSome then base else { base with bad := some b }
    let (c, s) := match r with
      | .data bs false => ({ base with parts := base.parts ++ [(o, bs)] }, s)
      | .data _ true => if use = 2 then (fail (4, none), poisonSeen F.ERR_POISON_A_HOST s) else (base, s)
      | .ack => (base, s)
      | .err st => (fail (2, some (st + dst * 2 ^ 8)), s)
      | .timeout => (fail (3, some dst), s)
    hqPump q 256 (modCmd q num (fun _ => if use = 4 then { c with parts := [] } else c) s)

/-- The effect of HQ_CMD_COMPLETE out of reset (R650). -/
def hqCmdCompleteEffect (q : Nat) (s : State) : State :=
  match (s.hq q).fin with
  | [] => s
  | d :: r =>
    if hqRd s q F.HQ_QCFG_STATE ≠ 1 then s
    else
      let s := s.modHq q fun x => { x with fin := r }
      let c := hqRd s q F.HQ_QSTATUS_COMPLETED
      let fn := hqFn s q
      let det := match d.detail with | some v => (v, s) | none => s.free 32
      let w0 := d.num % hqDepth s q + lapParity s q c * 2 ^ 15 + d.status * 2 ^ 16 + hcOp d.w * 2 ^ 24
      let base := hqRd s q F.HQ_CQ_LO_BASE * 16 + hqRd s q F.HQ_CQ_HI_BASE * 2 ^ 32
      let s := hostWrite fn (base + 16 * (c % hqDepth s q)) (leBytes 4 w0 ++ leBytes 4 (hcW d.w 1) ++ leBytes 4 det.1 ++ leBytes 4 det.2.met) det.2
      let s := hqWr q F.HQ_QSTATUS_COMPLETED (c + 1) s
      let s := if bitOf (hcW d.w 0) 17 && decide (hqRd s q F.HQ_QCFG_IRQ_EN = 1) then msixRaise fn (hqRd s q F.HQ_QCFG_VECTOR) s else s
      hqDrainEnd q s

/-- HQ_CMD_COMPLETE (R650): the completion entry of the command that completed first is written, and the vector follows when
it was asked for. A DETAIL that the spec does not give is free. -/
def execHqCmdComplete (q : Nat) (s : State) : Host.Outcome State Fault Refusal :=
  liveP s (hqCmdCompleteEffect q)

/-- The effect of HQ_CQ_HEAD_WRITE out of reset (R651). -/
def hqCqHeadWriteEffect (fn q : Nat) (v : Word) (s : State) : State :=
  if !barsServed s then s
  else if !fnBound s fn then badWrite fn s
  else if hqFn s q ≠ fn then s
  else
    let old := (s.hq q).consumed
    let new := v.toNat % 65536
    let c := hqRd s q F.HQ_QSTATUS_COMPLETED
    if (new + 65536 - old) % 65536 ≤ (c + 65536 - old) % 65536 then s.modHq q fun x => { x with consumed := new }
    else badWrite fn s

/-- HQ_CQ_HEAD_WRITE (R651): the host returns slots; a count past COMPLETED is ignored. -/
def execHqCqHeadWrite (fn q : Nat) (v : Word) (s : State) : Host.Outcome State Fault Refusal :=
  live s (hqCqHeadWriteEffect fn q v)

/-! Function level reset and counters. -/

/-- VF_FLR (R661): claims and fetching of the VF stop; commands that have not started are dropped. -/
def execVfFlr (fn : Nat) (s : State) : Host.Outcome State Fault Refusal :=
  liveP s fun s =>
    if fn = 0 || s.host.flr.contains fn then s
    else
      let s := (queuesOf s fn).foldl (fun s q => s.modHq q fun x =>
        { x with flr := true, ringing := false, fin := [], cmds := x.cmds.filter (·.started) }) s
      { s with host := { s.host with flr := fn :: s.host.flr } }

/-- The effect of VF_FLR_COMPLETE out of reset (R661). -/
def vfFlrCompleteEffect (fn : Nat) (s : State) : State :=
  let qs := queuesOf s fn
  if !s.host.flr.contains fn || !(qs.all fun q => (s.hq q).cmds.isEmpty) then s
  else
    let s := qs.foldl (fun s q =>
      let s := s.modHq q fun x => { x with flr := false, drained := false, fin := [] }
      if hqRd s q F.HQ_QCFG_STATE = 1 then hqLeave q 0 s else hqWr q F.HQ_QCFG_STATE 0 (hqWr q F.HQ_QCFG_EN 0 s)) s
    let counts := s.word (pgFN fn + 0xC)
    let s := (fnReset fn s).setWord (pgFN fn + 0xC) counts
    let s := { s with host := { s.host with flr := s.host.flr.erase fn } }
    logEv pgHIF 0x0B07 (irq pgHIF 6 s)

/-- VF_FLR_COMPLETE (R661): nothing of the VF is in flight; its queues go OFF, its block and its MSI-X table reset. -/
def execVfFlrComplete (fn : Nat) (s : State) : Host.Outcome State Fault Refusal :=
  liveP s (vfFlrCompleteEffect fn)

/-- FN_CLEAR (R645): a write to FN_CLR by the function's driver. -/
def fnClear (fn v : Nat) (s : State) : State := if bitOf v 0 then s.setWord (pgFN fn + 0xC) 0 else s

def execFnClear (fn : Nat) (v : Word) (s : State) : Host.Outcome State Fault Refusal :=
  live s fun s => if barsServed s then fnClear fn v.toNat s else s

/-- HIF_CNT_CLR (R665): a write of CNT_CLR. -/
def hifCntClr (v : Nat) (s : State) : State :=
  if bitOf v 0 then
    let s := s.zeroWords ([0x10C, 0x110, 0x114, 0x15C, 0x17C, 0x19C].map (pgHIF + ·))
    { s with host := { s.host with apLogged := false, dropLogged := false, faultLogged := false } }
  else s

def execHifCntClr (req : Nat) (v : Word) (s : State) : Host.Outcome State Fault Refusal :=
  live s (regWrite req (pgHIF + 0x118) (hifCntClr v.toNat))

end Sys2Proof.Machine
end

