-- ==== Sys2Proof/Machine/Snp.lean ====
section
/-! DEFINITION. Downbeats: latching the pages, scheduling, releasing, and the SNP page (03 R86-R88, 17 R499-R511). -/
namespace Sys2Proof.Machine
open Sys2Proof

/-- What each page type latches (R66, R137, R141, R170, R200, R202, R231, R338, R339, R394, R413, R451, R484, R509, R510,
R543, R546, R583, R584, R587, R589, R606, R631, R634, R666, R685, R701, R704): from offset 0xC00 on, so many words from a
page offset. -/
def snapCopies : PageKind → List (Nat × Nat × Nat)
  | .chip => [(0xC00, 0x118, 1), (0xC04, 0x140, 4), (0xC14, 0x1A0, 1), (0xC18, 0x120, 1), (0xC1C, 0x128, 1)]
  | .boot => [(0xC00, 0x100, 3), (0xC0C, 0x114, 1)]
  | .flash => [(0xC00, 0x108, 1), (0xC04, 0x110, 1)]
  | .lic => [(0xC00, 0x100, 4)]
  | .pwr => [(0xC00, 0x100, 3), (0xC0C, 0x114, 1), (0xC10, 0x120, 1), (0xC14, 0x12C, 2)]
  | .pace => [(0xC00, 0x100, 3), (0xC0C, 0x118, 2), (0xC40, 0x200, 80)]
  | .pvt => [(0xC00, 0x100, 1), (0xC04, 0x10C, 2), (0xC0C, 0x120, 1), (0xC40, 0x200, 24), (0xCC0, 0x280, 4)]
  | .met => [(0xC00, 0x110, 6)]
  | .snp => [(0xC00, 0x124, 4), (0xC10, 0x140, 3)]
  | .err => [(0xC00, 0x100, 7), (0xC1C, 0x134, 1)]
  | .evl => [(0xC00, 0x104, 1), (0xC04, 0x110, 1), (0xC08, 0x118, 1), (0xC0C, 0x120, 1), (0xC10, 0x128, 1), (0xC14, 0x130, 1)]
  | .part => ((List.range 32).flatMap fun p => [(0xC00 + 4 * p, 0x140 + 8 * p, 1), (0xC80 + 4 * p, 0x144 + 8 * p, 1)]) ++ [(0xD00, 0x2C0, 1)]
  | .mgc => [(0xC00, 0x100, 1), (0xC04, 0x108, 3), (0xC10, 0x11C, 2)]
  | .mcu => [(0xC00, 0x108, 7), (0xC1C, 0x128, 2), (0xD00, 0x200, 12)]
  | .memq => [(0xC00, 0x100, 1), (0xC04, 0x108, 2), (0xC0C, 0x114, 2), (0xD00, 0x200, 28)]
  | .rte => [(0xC00, 0x104, 1), (0xC20, 0x120, 40), (0xCC0, 0x300, 8)]
  | .fab => [(0xC00, 0x104, 4), (0xC10, 0x13C, 1), (0xC14, 0x14C, 3)]
  | .dh => [(0xC00, 0x138, 12)]
  | .dptx => [(0xC00, 0x108, 2), (0xC08, 0x12C, 2)]
  | .vid => [(0xC00, 0x100, 1), (0xC04, 0x104, 2), (0xC0C, 0x140, 1)]
  | .gfx => [(0xC00, 0x100, 1), (0xC04, 0x104, 2), (0xC0C, 0x140, 1)]
  | .prot => [(0xC00, 0x2000100, 4), (0xC10, 0x134, 1)]
  | .sig => [(0xC00, 0x108, 3), (0xC40, 0x300, 16)]
  | .blt => [(0xC00, 0x100, 1), (0xC04, 0x11C, 1), (0xC08, 0x140, 1), (0xC0C, 0x154, 2)]
  | .csi => [(0xC00, 0x10C, 4)]
  | .isp => [(0xC00, 0x104, 3), (0xC0C, 0x120, 2)]
  | .tile => [(0xC00, 0x104, 1), (0xC04, 0x110, 2), (0xC0C, 0x124, 1), (0xC10, 0x130, 1), (0xC20, 0x140, 12), (0xC80, 0x180, 32), (0xD00, 0x200, 32)]
  | .lx => (0xC00, 0x100, 2) :: ((List.range 4).flatMap fun k =>
      [(0xC40 + 0x20 * k, 0x144 + 0x40 * k, 2), (0xC48 + 0x20 * k, 0x150 + 0x40 * k, 6)]) ++ [(0xD00, 0x280, 32), (0xE00, 0x300, 32)]
  | .tsp => (List.range 4).flatMap fun k => [(0xC00 + 0x40 * k, 0x140 + 0x40 * k, 16)]
  | .cmt => ((List.range 4).flatMap fun h => [(0xC00 + 8 * h, 0x10C + 0x20 * h, 1), (0xC04 + 8 * h, 0x114 + 0x20 * h, 1)])
      ++ [(0xC40, 0x200, 64)]
  | .hif => [(0xC00, 0x100, 1), (0xC04, 0x10C, 3)] ++ ((List.range 3).map fun i => (0xC10 + 4 * i, 0x150 + 0x20 * i, 1))
      ++ ((List.range 3).map fun i => (0xC1C + 4 * i, 0x15C + 0x20 * i, 1))
  | .hq => (List.range 32).map fun q => (0xC00 + 8 * q, 0x110 + 0x18 * q, 2)

/-- The pages of the window. -/
def allPages : List Nat :=
  ((List.range 0x400).map (· * 0x1000)).filter (fun a => (pageOf a).isSome) ++ (List.range 2560).map pgTILE

/-- Copies one run of words of a page into its snapshot region. -/
def snapRun (pg : Nat) (r : Nat × Nat × Nat) (s : State) : State :=
  (List.range r.2.2).foldl (fun s i => s.setWord (pg + r.1 + 4 * i) (s.word (pg + r.2.1 + 4 * i))) s

/-- A page takes part in a downbeat at tick t (R86): it latches its set and the fields of R88, or counts MISSED. -/
def latchPage (pg seq t : Nat) (s : State) : State :=
  if !s.flag pg F.HDR_SNAP_CTRL_ENABLE then s
  else if s.flag pg F.HDR_SNAP_CTRL_HELD then s.bump pg F.HDR_SNAP_CTRL_MISSED
  else
    let k := kindOf pg
    let s := (snapCopies k).foldl (fun s r => snapRun pg r s) s
    let s := if hasLop k then (s.setWord (pg + 0xEF8) (s.word (pg + 0x54))).setWord (pg + 0xEFC) (s.word (pg + 0x58)) else s
    let s := (s.wr pg F.HDR_SNAP_SEQ_SEQ seq).wr64 pg F.HDR_SNAP_MET_LO_MET F.HDR_SNAP_MET_HI_MET t
    if s.flag pg F.HDR_SNAP_CTRL_HOLD_MODE || s.flag pgSNP F.SNP_ERR_CLASSES_FORCE_HOLD then s.wr pg F.HDR_SNAP_CTRL_HELD 1 else s

/-- Registers that show a running count are brought up to date before they latch. -/
def freshen (s : State) : State :=
  let s := (List.range 4).foldl (fun s n => posFresh n s) s
  if s.done then s.wr64 pgMGC F.MGC_UPTIME_LO_MS F.MGC_UPTIME_HI_MS ((s.ticks - s.doneTicks) / 1000000) else s

/-- A latch (R504): every page kept in the ladder state takes part; `at` is the tick the pages record. -/
def snapLatch (e : SnpEntry) (at_ : Nat) (late : Bool) (s : State) : State :=
  let s := freshen (s.inc pgSNP F.SNP_SEQ_SEQ)
  let seq := s.rd pgSNP F.SNP_SEQ_SEQ
  let s := (s.wr pgSNP F.SNP_LAST_SOURCES e.sources).wr pgSNP F.SNP_LAST_LATE (b2n late)
  let s := s.wr pgSNP F.SNP_LAST_ORIGIN e.origin
  let s := s.wr64 pgSNP F.SNP_LAST_T_LO_MET F.SNP_LAST_T_HI_MET e.t
  let s := s.wr64 pgSNP F.SNP_LAST_LATCH_LO_MET F.SNP_LAST_LATCH_HI_MET at_
  let s := if e.oseq = 0 then s else s.wr pgSNP F.SNP_ORIGIN_SEQ_SEQ e.oseq
  let s := { s with snp := { s.snp with lastLatch := some at_, pinOut := s.snp.pinOut || s.flag pgSNP F.SNP_ERR_CLASSES_SNAP_OUT_EN } }
  let s := if late then irq pgSNP 2 (s.bump pgSNP F.SNP_LATE_COUNT_COUNT) else s
  let s := (allPages.filter fun pg => pageKept s s.ladder (kindOf pg)).foldl (fun s pg => latchPage pg seq at_ s) s
  irq pgSNP 0 (heldSync s)

/-- The next tick of a periodic schedule of the MET source after the present one (R499, R712). -/
def metNext (s : State) : Option Nat :=
  match s.snp.armed with
  | none => none
  | some (t, p, _) =>
    if p = 0 then none else if s.met < t then some t else some (t + ((s.met - t) / (p * 1000) + 1) * (p * 1000))

/-- An entry has left the table: an armed periodic schedule enters its next tick, unless one of MET is still pending. -/
def metReschedule (e : SnpEntry) (s : State) : State :=
  if bitOf e.sources 1 || !(s.snp.pend.any fun x => bitOf x.sources 1) then
    match metNext s with
    | none => s
    | some t => snpInsert { t := t, sources := 2, origin := s.chipNum, oseq := 0 } s
  else s

/-- The due entry with the smallest tick. -/
def dueEntry (s : State) : Option SnpEntry :=
  (s.snp.pend.filter fun e => decide (e.t ≤ s.met)).foldl (fun r e =>
    match r with
    | none => some e
    | some x => if e.t < x.t then some e else r) none

/-- SNP_LATCH (R503): the Metronome has reached the T of a pending entry: the chip latches unless the last latch lies within
MIN_GAP. A T that a step of the Metronome passed over latches late (25 R712). -/
def snpDue (s : State) : State :=
  match dueEntry s with
  | none => s
  | some e =>
    let s := snpSync { s with snp := { s.snp with pend := s.snp.pend.erase e } }
    let ok := match s.snp.lastLatch with
      | none => true
      | some l => decide (l + minGap s ≤ e.t)
    metReschedule e (if ok then snapLatch e (if s.met = e.t then e.t else s.met) (s.met ≠ e.t) s else snpExcess s)

/-- SNP_LATCH (R503). -/
def execSnpLatch (s : State) : Host.Outcome State Fault Refusal := live s snpDue

/-- Every held page of the chip releases (R505). -/
def releaseAll (s : State) : State :=
  heldSync ((allPages.filter fun pg => s.flag pg F.HDR_SNAP_CTRL_HELD).foldl (fun s pg => s.wr pg F.HDR_SNAP_CTRL_HELD 0) s)

/-- The next ORIGIN_SEQ of this chip (R500). -/
def nextOriginSeq (s : State) : State :=
  let n := (s.snp.seqOut + 1) % 2 ^ 32
  { s with snp := { s.snp with seqOut := n } }.wr pgSNP F.SNP_SEQ_OUT_SEQ n

/-- RELEASE_MACHINE: this chip's pages release, and a RELEASE is flooded (R500, R505). -/
def releaseMachine (s : State) : State :=
  let s := nextOriginSeq (releaseAll s)
  flood (floodPacket s 6 0x3D 2 (leBytes 4 s.snp.seqOut ++ leBytes 1 0 ++ leBytes 3 0)) s

/-- A write of SNP.FIRE (R499, R505). -/
def fireWrite (v : Nat) (s : State) : State :=
  let s := if bitOf v 0 && snpEnabled s 0 then snpTrigger 0 s.met s else s
  let s := if bitOf v 1 then releaseAll s else s
  if bitOf v 2 then releaseMachine s else s

/-- SNP_FIRE (R499). -/
def execSnpFire (req : Nat) (v : Word) (s : State) : Host.Outcome State Fault Refusal :=
  live s (regWrite req (pgSNP + 0x114) (fireWrite v.toNat))

/-- SNP_RELEASE_ALL (R505). -/
def execSnpReleaseAll (req : Nat) (v : Word) (s : State) : Host.Outcome State Fault Refusal :=
  live s (regWrite req (pgSNP + 0x114) (fireWrite v.toNat))

/-- SNP_RELEASE_MACHINE (R505). -/
def execSnpReleaseMachine (req : Nat) (v : Word) (s : State) : Host.Outcome State Fault Refusal :=
  live s (regWrite req (pgSNP + 0x114) (fireWrite v.toNat))

/-- A write of SNP.AT_CTRL (R499, Table 17.5): ARM = 1 captures AT_MET and PERIOD_US and schedules AT_MET; a one-shot, and
every MACHINE schedule, clears ARM once it is scheduled; nothing is scheduled while MET is not enabled; ARM = 0 stops a
periodic schedule. -/
def atCtrlWrite (v : Nat) (s : State) : State :=
  let s := (s.wr pgSNP F.SNP_AT_CTRL_PERIOD_US (v / 256)).wr pgSNP F.SNP_AT_CTRL_ARM v
  if bitOf v 0 then
    let t := s.rd64 pgSNP F.SNP_AT_MET_LO_MET F.SNP_AT_MET_HI_MET
    let p := if s.flag pgSNP F.SNP_SCOPE_MET then 0 else v / 256 % 2 ^ 24
    let on := snpEnabled s 1
    let s := { s with snp := { s.snp with armed := if p = 0 || !on then none else some (t, p, 0) } }
    let s := if p = 0 && on then s.wr pgSNP F.SNP_AT_CTRL_ARM 0 else s
    if on then snpTrigger 1 t s else s
  else { s with snp := { s.snp with armed := none } }

/-- SNP_ARM (R499). -/
def execSnpArm (req : Nat) (v : Word) (s : State) : Host.Outcome State Fault Refusal :=
  live s (regWrite req (pgSNP + 0x120) (atCtrlWrite v.toNat))

/-- SNP_DISARM (R499). -/
def execSnpDisarm (req : Nat) (v : Word) (s : State) : Host.Outcome State Fault Refusal :=
  live s (regWrite req (pgSNP + 0x120) (atCtrlWrite v.toNat))

/-- SNP_IN_EDGE (R499): a rising edge on SNAP_IN is accepted at the present tick. -/
def execSnpInEdge (s : State) : Host.Outcome State Fault Refusal :=
  live s fun s => if snpEnabled s 3 then snpTrigger 3 s.met s else s

/-- Whether a flooded packet of SNP is newer than the last seen from its origin, and the state that has seen it (R500). -/
def snpNewer (p : Packet) (oseq : Nat) (s : State) : Bool × State :=
  let old := fget (fun _ => 0) s.snp.seen p.src
  let new := p.src ≠ s.chipNum && (old = 0 || (oseq ≠ old - 1 && atOrAfter 32 oseq (old - 1)))
  (new, if new then { s with snp := { s.snp with seen := fset (fun _ => 0) s.snp.seen p.src (oseq + 1) } } else s)

/-- A DOWNBEAT arrives (R500, R502): it is flooded on once; with REMOTE enabled its T is entered, or latched at once when it
has passed. -/
def downbeatReceive (p : Packet) (s : State) : State :=
  if !(p.op = 0x3C && p.data.length = 16) then s
  else
    let oseq := payloadAt p.data 8 4
    let (new, s) := snpNewer p oseq s
    if !new then s
    else
      let s := flood p s
      let e : SnpEntry := { t := payloadAt p.data 0 8, sources := 16, origin := p.src, oseq := oseq }
      if !snpEnabled s 4 then s
      else if e.t < s.met then snapLatch e s.met true s
      else snpInsert e s

/-- SNP_DOWNBEAT_RECEIVE (R500). -/
def execSnpDownbeatReceive (p : Packet) (s : State) : Host.Outcome State Fault Refusal := live s (downbeatReceive p)

/-- A RELEASE arrives (R500, R505). -/
def releaseReceive (p : Packet) (s : State) : State :=
  if !(p.op = 0x3D && p.data.length = 8) then s
  else
    let (new, s) := snpNewer p (payloadAt p.data 0 4) s
    if new then releaseAll (flood p s) else s

/-- SNP_RELEASE_RECEIVE (R505). -/
def execSnpReleaseReceive (p : Packet) (s : State) : Host.Outcome State Fault Refusal := live s (releaseReceive p)

/-- A write of SNP.CNT_CLR. -/
def snpCntClr (v : Nat) (s : State) : State :=
    if bitOf v 0 then
      { (s.zeroWords [pgSNP + 0x144]).wr pgSNP F.SNP_LATE_COUNT_COUNT 0 with snp := { s.snp with excessLogged := false } }
    else s

/-- SNP_CNT_CLR (R510): zeroes EXCESS, PEND_FULL and LATE_COUNT. -/
def execSnpCntClr (req : Nat) (v : Word) (s : State) : Host.Outcome State Fault Refusal :=
  live s (regWrite req (pgSNP + 0x14C) (snpCntClr v.toNat))

/-- SNAP_OUT_FALL (R504): 100 ns after the latch SNAP_OUT falls. -/
def execSnapOutFall (s : State) : Host.Outcome State Fault Refusal :=
  live s fun s => { s with snp := { s.snp with pinOut := false } }

end Sys2Proof.Machine
end

