-- ==== Sys2Proof/Machine/Ingress.lean ====
section
/-! DEFINITION. What a port receives: codewords and their header items, packets, the policers at the receive buffer, and the
bursts of light sleep (13 R370-R391, 14 R405, R406). -/
namespace Sys2Proof.Machine
open Sys2Proof

/-! Header items (Table 13.5). -/

/-- ACK a covers number s (R374). -/
def covered (a s : Nat) : Bool := decide ((a + 4096 - s % 4096) % 4096 < 2048)

/-- ACK (R374): the numbered codewords it covers are released. -/
def itemAck (g a : Nat) (s : State) : State :=
  sendReady g ((s.port g).slots.length / 10) (s.modPort g fun p => { p with unacked := p.unacked.filter fun x => !covered a x.1 })

/-- NAK (R375): REPLAY from the named number; a number not yet sent is the next new one. -/
def itemNak (g n : Nat) (s : State) : State :=
  let p := s.port g
  replayFrom g ((p.unacked.findIdx? fun x => x.1 = n).getD p.unacked.length) s

/-- CREDIT (R378): flits of a class come back. -/
def itemCredit (g c n : Nat) (s : State) : State :=
  s.modPort g fun p => { p with creds := p.creds.mapIdx fun i v => if i = c then v + n else v }

/-- REPLAY (R375): the number of this codeword, or of the next new one, and the end of a wait. -/
def itemReplay (g n : Nat) (s : State) : State := s.modPort g fun p => { p with rxAt := n, nak := false }

/-- TEST_START and TEST_STOP (R387): the partner's pattern on a lane. -/
def itemTest (g i : Nat) (on : Bool) (s : State) : State :=
  s.modPort g fun p => { p with prbs := if on then i :: p.prbs.erase i else p.prbs.erase i }

/-- SLEEP (R388): the partner sleeps, with its HB_NS. -/
def itemSleep (g hb : Nat) (s : State) : State :=
  (s.modPort g fun p => { p with pHb := hb }).wr (pgLX (g / 4)) F.LX_PSTATUS_PARTNER_SLEEP 1 0 (g % 4)

/-- AWAKE (R389): the partner is awake. -/
def itemAwake (g : Nat) (s : State) : State := s.wr (pgLX (g / 4)) F.LX_PSTATUS_PARTNER_SLEEP 0 0 (g % 4)

/-- The effect of a header item. -/
def itemEffect (g kind arg aux : Nat) (s : State) : State :=
  match kind with
  | 1 => itemAck g arg s
  | 2 => itemNak g arg s
  | 3 => itemCredit g (aux % 8) (arg + 1) s
  | 4 => itemReplay g arg s
  | 5 =>
    match aux with
    | 0 => dropReq g (arg % 32) s
    | 1 => addReq g (arg % 32) s
    | 2 => mapItem g (arg % 32) (bitOf arg 5) s
    | 3 => itemTest g (arg % 32) true s
    | 4 => itemTest g (arg % 32) false s
    | _ => s
  | 6 =>
    match aux with
    | 0 => itemSleep g (arg % 1024) s
    | 1 => wake 1 s
    | 2 => itemAwake g s
    | _ => s
  | _ => s

/-! Packets. -/

/-- A packet leaves the receive buffer: its flits come back to the sender as a CREDIT item (R378). -/
def returnCredit (g : Nat) (p : Packet) (s : State) : State := if portUp s g then addItem g 3 (pktFlits p - 1) p.tc s else s

/-- The port takes TC7 packets alone (R369, R430). -/
def tc7Only (s : State) (g : Nat) : Bool := s.flag (pgLX (g / 4)) F.LX_PSTATUS_TC7_ONLY 0 (g % 4) || planMismatch s g

/-- A flooded packet of the Metronome and the downbeats. -/
def metronomeOp (op : Nat) : Bool := op = 0x3B || op = 0x3C || op = 0x3D

/-- A packet was received whole on a port: dropped and counted where it is malformed (R346) or the port takes TC7 alone, consumed
by the block its opcode belongs to (R368, R390, R391), else kept in the receive buffer. The contents of a fabric message come
with a FAB command of their own. -/
def packetIn (g : Nat) (p : Packet) (s : State) : State :=
  let s := perfAdd (pgLX (g / 4)) (2 * (g % 4) + 1) (pktFlits p) s
  if !(opKnown p.op && lenOk p) then returnCredit g p (s.bump pgRTE F.RTE_DROP_MALFORMED_COUNT)
  else if tc7Only s g && p.tc ≠ 7 && !metronomeOp p.op then returnCredit g p (s.bump pgRTE F.RTE_DROP_TC7_ONLY_COUNT)
  else if p.op = 0x30 then identReceive g p (returnCredit g p s)
  else if p.op = 0x31 then identAck g (payloadAt p.data 0 4) (returnCredit g p s)
  else if p.op = 0x32 then restNoteReceive g (bitOf (payloadAt p.data 0 4) 0) (returnCredit g p s)
  else if p.op = 0x3B then beaconReceive g p (returnCredit g p s)
  else if p.op = 0x3C then downbeatReceive p (returnCredit g p s)
  else if p.op = 0x3D then releaseReceive p (returnCredit g p s)
  else if 0x33 ≤ p.op && (p.dst = s.chipNum || p.dst = 0x1FFF) then returnCredit g p s
  else s.modPort g fun x => { x with rxq := x.rxq ++ [p] }

/-- The flits still to come after flit 0 of a packet. -/
def flitsAfter (bs : List Byte) : Nat := getBits (leNat (bs.take 16)) 47 3

/-- A flit slot arrives in order (R371): an idle flit, flit 0 of a packet, or the next flit of the packet under assembly. -/
def flitIn (g : Nat) (f : List Byte) (s : State) : State :=
  let p := s.port g
  if p.partLeft = 0 then
    if getBits (leNat (f.take 16)) 41 6 = 0 then s
    else if flitsAfter f = 0 then packetIn g (packetOf g f) s
    else s.setPort g { p with part := f, partLeft := flitsAfter f }
  else
    let bs := p.part ++ f
    let s := s.setPort g { p with part := if p.partLeft = 1 then [] else bs, partLeft := p.partLeft - 1 }
    if p.partLeft = 1 then packetIn g (packetOf g bs) s else s

/-! Codewords. -/

/-- Symbol errors of a lane not older than WIN_US. -/
def recentErrs (s : State) (g k : Nat) : Nat :=
  ((s.port g).symErrs.filter fun x =>
    x.1 = k && decide (s.ticks ≤ x.2 + 1000 * s.rd (pgLX (g / 4)) F.LX_LANE_ERR_WIN_US 0 (g % 4))).length

/-- A corrected symbol is charged to the lane that carried it (R373, R384). -/
def symbolError (g : Nat) (ls : List Nat) (i : Nat) (s : State) : State :=
  match ls[i % ls.length]? with
  | none => s
  | some k =>
    let win := 1000 * s.rd (pgLX (g / 4)) F.LX_LANE_ERR_WIN_US 0 (g % 4)
    let s := s.bump (pgLX (g / 4)) F.LX_LANE_SYM_ERR 1 k
    let s := s.modPort g fun p => { p with symErrs := p.symErrs.filter (fun x => decide (s.ticks ≤ x.2 + win)) ++ [(k, s.ticks)] }
    if s.rd (pgLX (g / 4)) F.LX_LANE_ERR_THRESH 0 (g % 4) ≤ recentErrs s g k then laneFails (g / 4) k s else s

/-- A codeword that cannot be corrected (R373, R375): counted and discarded; the first one is answered with a NAK. -/
def codewordBad (g : Nat) (s : State) : State :=
  let s := s.bump (pgLX (g / 4)) F.LX_CW_UNCORR_COUNT 1 0 (g % 4)
  let p := s.port g
  if p.nak then s else addItem g 2 p.rxWant 0 (s.setPort g { p with nak := true, nakTries := p.nakTries + 1 })

/-- The slots of a numbered codeword count when it is the one wanted; an older one was delivered already (R375, R376). -/
def codewordNumbered (g : Nat) (c : Codeword) (s : State) : State :=
  let p := s.port g
  let at_ := p.rxAt
  if at_ = p.rxWant then
    let nx := (at_ + 1) % 4096
    let s := s.setPort g { p with rxAt := nx, rxWant := nx, rxDue := p.rxDue + 1, nakTries := 0 }
    let s := if s.rd (pgLX (g / 4)) F.LX_ACK_EVERY_CW 0 (g % 4) ≤ (s.port g).rxDue then
        addItem g 1 at_ 0 (s.modPort g fun p => { p with rxDue := 0 })
      else s
    c.slots.foldl (fun s f => flitIn g f s) s
  else s.setPort g { p with rxAt := (at_ + 1) % 4096 }

/-- A codeword arrives (R373-R376). While a REPLAY is awaited, every codeword without one is discarded but for its MAP
(R385). -/
def codewordIn (g : Nat) (c : Codeword) (s : State) : State :=
  if !(portUp s g || portState s g = 2) then s
  else if !c.ok then codewordBad g s
  else
    let ls := rxLanes s g
    let s := if c.sym.isEmpty then s
      else c.sym.foldl (fun s i => symbolError g ls i s) (s.bump (pgLX (g / 4)) F.LX_CW_CORR_COUNT 1 0 (g % 4))
    if !(portUp s g || portState s g = 2) then s
    else
      let wait := (s.port g).nak && c.kind ≠ 4
      if wait then (if c.kind = 5 && c.aux = 2 then itemEffect g c.kind c.arg c.aux s else s)
      else
        let s := itemEffect g c.kind c.arg c.aux s
        if c.num then codewordNumbered g c s else s

/-- LX_CODEWORD_RECEIVE (R373). -/
def execLxCodewordReceive (g : Nat) (c : Codeword) (s : State) : Host.Outcome State Fault Refusal := liveP s (codewordIn g c)

/-- A header item arrives in an unnumbered codeword without packet flits. -/
def itemIn (g kind arg aux : Nat) (s : State) : State :=
  codewordIn g { ok := true, sym := [], num := false, kind := kind, arg := arg, aux := aux, slots := List.replicate 10 idleFlit } s

/-- LX_CW_ACK (R374). -/
def execLxCwAck (g n : Nat) (s : State) : Host.Outcome State Fault Refusal := liveP s (itemIn g 1 n 0)
/-- LX_CW_NAK (R375). -/
def execLxCwNak (g n : Nat) (s : State) : Host.Outcome State Fault Refusal := liveP s (itemIn g 2 n 0)
/-- LX_CW_CREDIT (R378): n flits of a class return. -/
def execLxCwCredit (g c n : Nat) (s : State) : Host.Outcome State Fault Refusal := liveP s (itemIn g 3 (n - 1) c)
/-- LX_CW_REPLAY (R375). -/
def execLxCwReplay (g n : Nat) (s : State) : Host.Outcome State Fault Refusal := liveP s (itemIn g 4 n 0)
/-- LX_CW_DROP_REQ (R385). -/
def execLxCwDropReq (g i : Nat) (s : State) : Host.Outcome State Fault Refusal := liveP s (itemIn g 5 i 0)
/-- LX_CW_ADD_REQ (R386). -/
def execLxCwAddReq (g i : Nat) (s : State) : Host.Outcome State Fault Refusal := liveP s (itemIn g 5 i 1)
/-- LX_CW_MAP (R385, R386). -/
def execLxCwMap (g i : Nat) (add : Bool) (s : State) : Host.Outcome State Fault Refusal := liveP s (itemIn g 5 (i + 32 * b2n add) 2)
/-- LX_CW_TEST_START (R387). -/
def execLxCwTestStart (g i : Nat) (s : State) : Host.Outcome State Fault Refusal := liveP s (itemIn g 5 i 3)
/-- LX_CW_TEST_STOP (R387). -/
def execLxCwTestStop (g i : Nat) (s : State) : Host.Outcome State Fault Refusal := liveP s (itemIn g 5 i 4)
/-- LX_CW_SLEEP (R388). -/
def execLxCwSleep (g hb : Nat) (s : State) : Host.Outcome State Fault Refusal := liveP s (itemIn g 6 hb 0)
/-- LX_CW_WAKE_REQ (R388): the LINK wake event. -/
def execLxCwWakeReq (g : Nat) (s : State) : Host.Outcome State Fault Refusal := liveP s (itemIn g 6 0 1)
/-- LX_CW_AWAKE (R389). -/
def execLxCwAwake (g : Nat) (s : State) : Host.Outcome State Fault Refusal := liveP s (itemIn g 6 0 2)
/-- LX_CW_HEARTBEAT (R388): a decoded codeword, which alone shows that the partner is there. -/
def execLxCwHeartbeat (g : Nat) (s : State) : Host.Outcome State Fault Refusal := liveP s (itemIn g 6 0 3)

/-- ACK.MAX_10NS passed with numbered codewords unacknowledged (R374): an ACK of the last one received in order. -/
def ackTimer (g : Nat) (s : State) : State :=
  let p := s.port g
  if portUp s g && decide (0 < p.rxDue) then addItem g 1 ((p.rxWant + 4095) % 4096) 0 (s.setPort g { p with rxDue := 0 }) else s

/-- LX_ACK_TIMER (R374). -/
def execLxAckTimer (g : Nat) (s : State) : Host.Outcome State Fault Refusal := live s (ackTimer g)

/-! Light sleep (R388, 17 R489). -/

/-- One codeword of a burst: ten flit slots of TC6 and TC7 packets, within the credits, else of idle flits. -/
def burstCodeword (g : Nat) (s : State) : State :=
  let s := (List.range 10).foldl (fun s _ =>
    if 10 ≤ (s.port g).slots.length then s
    else
      match pickClass s g with
      | none => s.modPort g fun p => { p with slots := p.slots ++ [none] }
      | some (c, r, d) => sendHead g c (s.modPort g fun p => { p with rr := r, rrLeft := d })) s
  sendReady g ((s.port g).slots.length / 10) s

/-- A burst of 16 codewords of a sleeping port: HEARTBEAT first, WAKE_REQ while TC0-TC5 packets wait, then TC6 and TC7
packets and the beacon of this burst. A port whose partner sleeps holds TC0-TC5 packets in the same way. -/
def sleepBurst (g : Nat) (s : State) : State :=
  let own := portState s g = 4
  if !(own || (portState s g = 3 && s.flag (pgLX (g / 4)) F.LX_PSTATUS_PARTNER_SLEEP 0 (g % 4))) then s
  else
    let held := (List.range 6).any fun c => !(classQueue s g c).isEmpty
    let s := if own then sendIdle g (6, 0, 3) s else s
    let s := if held then addItem g 6 0 1 s else s
    let s := sendBeacon g s
    (List.range 15).foldl (fun s _ => burstCodeword g s) s

/-- LX_SLEEP_BURST (R388). -/
def execLxSleepBurst (g : Nat) (s : State) : Host.Outcome State Fault Refusal := liveP s (sleepBurst g)

/-! Policers (14 R405, R406, R409). -/

/-- The first enabled policer of a port that matches a request (R405). -/
def policerOf (s : State) (g : Nat) (p : Packet) : Option Nat :=
  if isResponse p || 6 ≤ p.tc || !tspOn s g then none
  else (List.range 8).find? fun i =>
    let pg := pgTSP (g / 4)
    let k := 8 * (g % 4) + i
    s.flag pg F.TSP_POL_MATCH_EN k && bitOf (s.rd pg F.TSP_POL_MATCH_TC_MASK k) p.tc
      && (!s.flag pg F.TSP_POL_MATCH_SLICE_EN k || s.rd pg F.TSP_POL_MATCH_SLICE k == p.slice)

/-- The head packet of a class leaves the receive buffer. -/
def takeRx (g c : Nat) (s : State) : State :=
  s.modPort g fun x =>
    { x with rxq := match x.rxq.findIdx? (fun p => p.tc = c) with | none => x.rxq | some i => x.rxq.eraseIdx i,
             delayed := x.delayed.filter fun d => d.1 ≠ c }

/-- The head packet of a class passes to the Rink. -/
def passRx (g : Nat) (p : Packet) (s : State) : State := returnCredit g p ((takeRx g p.tc s).put p)

/-- A policer holds a token. -/
def hasToken (s : State) (g i : Nat) : Bool := decide (16000 ≤ (s.port g).tokens.getD i 0)

/-- A token is taken. -/
def takeToken (g i : Nat) (s : State) : State :=
  s.modPort g fun x => { x with tokens := x.tokens.mapIdx fun j t => if j = i then t - 16000 else t }

/-- ACTION of a policer that holds no token (R406). -/
def policeAction (g i : Nat) (p : Packet) (s : State) : State :=
  let pg := pgTSP (g / 4)
  let j := g % 4
  match s.rd pg F.TSP_POL_MATCH_ACTION (8 * j + i) with
  | 0 => (s.bump pg F.TSP_POL_DELAYS_COUNT 1 0 j).modPort g fun x => { x with delayed := x.delayed ++ [(p.tc, i)] }
  | 1 => returnCredit g p ((takeRx g p.tc (s.bump pg F.TSP_POL_MARKS_COUNT 1 0 j)).put { p with mark := true })
  | _ =>
    let fst := s.rd pg F.TSP_POL_DROPS_COUNT 0 j = 0
    let s := irq pg 0 (s.bump pg F.TSP_POL_DROPS_COUNT 1 0 j)
    let s := if fst then logEv pg 0x0510 s j i else s
    returnCredit g p (takeRx g p.tc s)

/-- The packet of a class at the head of the receive buffer of a port. -/
def rxHead (s : State) (g c : Nat) : Option Packet := (s.port g).rxq.find? fun p => p.tc = c

/-- The head packet of a class is matched against the policers and passes, waits or is dropped (R405, R406). On a
light-sleeping chip a TC0-TC5 packet waits for the exit; for this chip it is the LINK wake event (R187). -/
def ingressPolice (g c : Nat) (s : State) : State :=
  match rxHead s g c with
  | none => s
  | some p =>
    if (s.port g).delayed.any (fun d => d.1 = c) then s
    else if c < 6 && 2 ≤ depth s then (if p.dst = s.chipNum then wake 1 s else s)
    else
      let s := tspAdvance g s
      match policerOf s g p with
      | none => passRx g p s
      | some i => if hasToken s g i then passRx g p (takeToken g i s) else policeAction g i p s

/-- INGRESS_POLICE (R406): the head packet of class c in the receive buffer of a port. -/
def execIngressPolice (g c : Nat) (s : State) : Host.Outcome State Fault Refusal := liveP s (ingressPolice g c)

/-- A held request passes when its policer has a token, or at once while TSP is not enabled (R406, R414). -/
def delayRelease (g c : Nat) (s : State) : State :=
  match rxHead s g c, (s.port g).delayed.find? (fun d => d.1 = c) with
  | some p, some d =>
    let s := tspAdvance g s
    if !tspOn s g then passRx g p s
    else if hasToken s g d.2 then passRx g p (takeToken g d.2 s)
    else s
  | _, _ => s

/-- POLICER_DELAY_RELEASE (R406). -/
def execPolicerDelayRelease (g c : Nat) (s : State) : Host.Outcome State Fault Refusal := liveP s (delayRelease g c)

end Sys2Proof.Machine
end

