-- ==== Sys2Proof/Machine/Lop.lean ====
section
/-! DEFINITION. LOP_CMD: the commands of the long-operation state machine (R94-R101, Table 3.9). -/
namespace Sys2Proof.Machine
open Sys2Proof

/-- START with a code that Table 3.8 does not give the page: rejected while an operation is active, else FAILED with
UNAVAILABLE when the block is not enabled or not available, and with BAD_ARG when it is (R96). -/
def lopStartUnknown (req pg op : Nat) (s : State) : State :=
  if s.lopActive pg then lopReject req pg s
  else lopStartFail pg op (if s.running pg && s.avail pg then resBAD_ARG else resUNAVAILABLE) s

/-- START of an operation of a page (Table 3.8). -/
def lopStartOp (req pg op : Nat) : State → State :=
  match pageOf pg, op with
  | some (.chip, _), 1 => bistStart req
  | some (.flash, _), 1 => flashWriteStart req
  | some (.flash, _), 2 => flashEraseStart req
  | some (.boot, _), 1 => bootVerifyStart req
  | some (.boot, _), 2 => bootActivateStart req
  | some (.boot, _), 3 => bootConfirmStart req
  | some (.lic, _), 1 => licInstallStart req
  | some (.part, _), 1 => drainStart req
  | some (.mcu, n), 1 => mcuInitStart req n
  | some (.mcu, n), 2 => mcuScrubStart req n
  | some (.mcu, n), 3 => mcuRetrainStart req n
  | some (.lx, n), 1 => lxRetrainStart req n
  | some (.lx, n), 2 => lxLaneTestStart req n
  | some (.blt, _), 1 => blitStart req
  | _, _ => lopStartUnknown req pg op

/-- Suspendable and cancellable, for the operation of a page (Table 3.8). -/
def lopTraits (s : State) (pg : Nat) : Bool × Bool := (lopKind (kindOf pg) (s.lopOp pg)).getD (false, false)

/-- No unit is under way although the operation runs: FLASH WRITE from the window waits for a PUSH. -/
def lopIdleUnit (s : State) (pg : Nat) : Bool :=
  pg = pgFLASH && s.lopOp pg = 1 && !bitOf (s.lopArg pg 3) 31 && !s.flag pg F.FLASH_WIN_CTRL_BUSY

/-- The signal of a blit is awaited: its last line has been counted (R601). -/
def blitSignals (s : State) (pg : Nat) : Bool := pg = pgBLT && decide (3 ≤ s.blt.phase)

/-- SUSPEND (Table 3.9). -/
def lopSuspend (req pg : Nat) (s : State) : State :=
  let st := s.lop pg
  if st = lopSUSPENDING || st = lopSUSPENDED then s
  else if st = lopRUNNING && (lopTraits s pg).1 then
    if lopIdleUnit s pg then lopEnter pg lopSUSPENDED s
    else if blitSignals s pg then s
    else lopEnter pg lopSUSPENDING s
  else lopReject req pg s

/-- The suspended operation goes on from its suspend point. -/
def lopContinue (pg : Nat) (s : State) : State :=
  if pg = pgBLT then blitResume s else if pg = pgCHIP then bistBatch s else s

/-- RESUME (Table 3.9); it raises the page's hold again (R100, R179). -/
def lopResume (req pg : Nat) (s : State) : State :=
  let st := s.lop pg
  if st = lopSUSPENDING then lopEnter pg lopRUNNING s
  else if st = lopSUSPENDED then wakeFor (fun s => lopContinue pg (lopEnter pg lopRUNNING s)) s
  else lopReject req pg s

/-- The cancel outcome of an operation that has no unit under way (Table 3.8). -/
def lopCancelNow (pg : Nat) (s : State) : State :=
  match pageOf pg with
  | some (.lx, n) => lopCancelled pg (if s.lopOp pg = 2 then laneTestEnd n s else s)
  | some (.blt, _) => lopCancelled pg { s with blt := Blt.none }
  | _ => lopCancelled pg s

/-- CANCEL (Table 3.9). INSTALL refuses it during step 4 (R95), and it withdraws nothing from a blit whose signal is awaited
(R601). -/
def lopCancel (req pg : Nat) (s : State) : State :=
  let st := s.lop pg
  let may := (lopTraits s pg).2 && !(pg = pgLIC && decide (3 ≤ s.rd pg F.LOP_LOP_PROGRESS_DONE))
  if !((st = lopRUNNING || st = lopSUSPENDING || st = lopSUSPENDED) && may) then lopReject req pg s
  else if blitSignals s pg then s
  else if st = lopSUSPENDED || lopIdleUnit s pg then lopCancelNow pg s
  else lopEnter pg lopCANCELLING s

/-- A write of LOP_CMD (R96). -/
def lopCmd (req pg v : Nat) : State → State :=
  match v % 16 with
  | 1 => lopStartOp req pg (v / 2 ^ 8 % 2 ^ 8)
  | 2 => lopSuspend req pg
  | 3 => lopResume req pg
  | 4 => lopCancel req pg
  | _ => lopReject req pg

/-- LOP_CMD_INVALID (R96): a write of LOP_CMD whose CMD names no command is rejected. -/
def execLopCmdInvalid (req pg : Nat) (v : Word) (s : State) : Host.Outcome State Fault Refusal :=
  liveP s (regWrite req (pg + 0x40) (lopCmd req pg v.toNat))

/-- LOP_START_UNKNOWN_OP (R96): a START with a code of no operation of the page. -/
def execLopStartUnknownOp (req pg op : Nat) (s : State) : Host.Outcome State Fault Refusal :=
  liveP s (regWrite req (pg + 0x40) (lopCmd req pg (1 + op % 2 ^ 8 * 2 ^ 8)))

/-- LOP_SUSPEND (R98). -/
def execLopSuspend (req pg : Nat) (s : State) : Host.Outcome State Fault Refusal :=
  liveP s (regWrite req (pg + 0x40) (lopCmd req pg 2))

/-- LOP_RESUME (R98). -/
def execLopResume (req pg : Nat) (s : State) : Host.Outcome State Fault Refusal :=
  liveP s (regWrite req (pg + 0x40) (lopCmd req pg 3))

/-- LOP_CANCEL (R95). -/
def execLopCancel (req pg : Nat) (s : State) : Host.Outcome State Fault Refusal :=
  liveP s (regWrite req (pg + 0x40) (lopCmd req pg 4))

end Sys2Proof.Machine
end

