-- ==== Sys2Proof/Machine/PageCtrl.lean ====
section
/-! DEFINITION. Starting and stopping the block of a page (R79-R82, R217, R409, R517, R627). -/
namespace Sys2Proof.Machine
open Sys2Proof

/-- Accepted work of the block of a page is in flight (R80, R334, R604). -/
def blockWork (s : State) (pg : Nat) : Bool :=
  match pageOf pg with
  | some (.mcu, n) => !(s.mcu n).queue.isEmpty
  | some (.hq, n) => (List.range 32).any fun i => !(s.hq (32 * n + i)).cmds.isEmpty || !(s.hq (32 * n + i)).fin.isEmpty
  | some (.fab, _) => s.rd pgFAB F.FAB_MBX_STATUS_STATE = 1
  | some (.hif, _) => !s.host.tlps.isEmpty
  | some (.cmt, _) => (List.range 4).any fun n => (s.head n).commit.isSome
  | some (.prot, n) => (s.head n).load.isSome
  | some (.dptx, n) => (s.head n).aux.isSome
  | some (k, _) => hasLop k && s.lopHolds pg
  | none => false

/-- ENABLED and QUIESCED of a page as R80 gives them. -/
def settle (pg : Nat) (s : State) : State :=
  let quiet := !s.running pg && !blockWork s pg
  (s.wr pg F.HDR_PAGE_STATUS_ENABLED (b2n !quiet)).wr pg F.HDR_PAGE_STATUS_QUIESCED (b2n quiet)

/-- The tile's partition runs: it is not fenced, drained or scrubbed (R676). -/
def tileMayStart (s : State) (t : Nat) : Bool :=
  let o := s.owner (pgTILE t)
  decide (32 ≤ o) || decide (partState s o ≤ 1)

/-- The sequencer resumes issue at CP (Table 7.4). -/
def tileResume (t : Nat) (s : State) : State :=
  let s := setSeqState t stRUNNING (s.modTile t fun x => { x with waitMet := false })
  if (headWords t s).isSome then decodeHead t (setBlock t 0 s) else setBlock t 3 s

/-- After a write of PAGE_CTRL of a tile, already stored (Table 7.4). -/
def tileCtrl (t : Nat) (s : State) : State :=
  let pg := pgTILE t
  let on := s.flag pg F.HDR_PAGE_CTRL_ENABLE
  let held := s.flag pg F.HDR_PAGE_CTRL_QUIESCE
  let st := s.seqState t
  let mark := fun (s : State) => s.modTile t fun x => { x with offMark := true, waitMet := false }
  tileFlags t <|
    if st = stOFF then
      if on && s.good t && tileMayStart s t then wakeFor (setSeqState t stIDLE) s else s
    else if st = stIDLE || st = stHALTED then (if on then s else setSeqState t stOFF s)
    else if st = stRUNNING then
      if !on then mark (setSeqState t stQUIESCING s)
      else if held then setSeqState t stQUIESCING (s.modTile t fun x => { x with waitMet := false })
      else s
    else if st = stENDING then (if on then s else mark (setSeqState t stQUIESCING s))
    else if st = stQUIESCING then
      if !on then mark s
      else if held || (s.tile t).offMark then s
      else tileResume t s
    else if st = stQUIESCED then
      if !on then setSeqState t stOFF s else if held then s else tileResume t s
    else s

/-- A TSP page stops: what a policer delays passes at once (R409). -/
def tspCtrl (n : Nat) (s : State) : State :=
  if s.flag (pgTSP n) F.HDR_PAGE_CTRL_ENABLE then s
  else (List.range 4).foldl (fun s j => (List.range 8).foldl (fun s c => delayRelease (4 * n + j) c s) s) s

/-- An HQ page goes on: its queues that were rung read their commands (R79). -/
def hqCtrl (n : Nat) (s : State) : State :=
  if s.running (pgHQ n) then
    (List.range 32).foldl (fun s i => if (s.hq (32 * n + i)).ringing then hqFetch (32 * n + i) s else s) s
  else s

/-- What a write of PAGE_CTRL, already stored, does to the block. -/
def blockCtrl (pg : Nat) (s : State) : State :=
  match pageOf pg with
  | some (.tile, t) => tileCtrl t s
  | some (.dh, n) =>
    let s := if dhState s n = dhOFF && s.running pg then wakeFor (dhCtrl n) s else dhCtrl n s
    setDhState n (dhState s n) s
  | some (.isp, n) =>
    let s := if ispState s n = 0 && s.running pg then wakeFor (ispCtrl n) s else ispCtrl n s
    setIspState n (ispState s n) s
  | some (.tsp, n) => settle pg (tspCtrl n s)
  | some (.hq, n) => settle pg (hqCtrl n s)
  | some _ => settle pg s
  | none => s

/-- A write of PAGE_CTRL (R80-R82, R93): EXPERT_EN is stored on a page with an expert region unless LOCK forbids the
change; ENABLE and QUIESCE are stored and act on the block. -/
def pageCtrlWrite (req pg v : Nat) (s : State) : State :=
  let s :=
    if !hasExpert (kindOf pg) then (if bitOf v 1 then pageFault pg causeExpert req true 8 s else s)
    else if s.flag pg F.OWN_PAGE_LOCK_LOCK && !decide (s.rd pg F.HDR_PAGE_CTRL_EXPERT_EN = v / 2 % 2) then
      pageFault pg causeLocked req true 8 s
    else s.wr pg F.HDR_PAGE_CTRL_EXPERT_EN (v / 2)
  blockCtrl pg ((s.wr pg F.HDR_PAGE_CTRL_ENABLE v).wr pg F.HDR_PAGE_CTRL_QUIESCE (v / 4))

/-- PAGE_ENABLE_WRITE (R80): a write of PAGE_CTRL. -/
def execPageEnableWrite (req pg : Nat) (v : Word) (s : State) : Host.Outcome State Fault Refusal :=
  liveP s (regWrite req (pg + 8) (pageCtrlWrite req pg v.toNat))

/-- PAGE_QUIESCE_WRITE (R80): a write of PAGE_CTRL. -/
def execPageQuiesceWrite (req pg : Nat) (v : Word) (s : State) : Host.Outcome State Fault Refusal :=
  liveP s (regWrite req (pg + 8) (pageCtrlWrite req pg v.toNat))

/-- The effect of BLOCK_QUIESCED out of reset (R80). -/
def blockQuiescedEffect (pg : Nat) (s : State) : State :=
  match pageOf pg with
  | none => s
  | some (.tile, _) => s
  | some (.dh, _) => s
  | some (.isp, _) => s
  | some _ => settle pg s

/-- BLOCK_QUIESCED (R80): the last accepted work of a stopping block has completed. The tile, head and pipeline pages show
it by their own states. -/
def execBlockQuiesced (pg : Nat) (s : State) : Host.Outcome State Fault Refusal :=
  liveP s (blockQuiescedEffect pg)

end Sys2Proof.Machine
end

