-- ==== Sys2Proof/Machine/RegWrite.lean ====
section
/-! DEFINITION. The effect of writing a register word (R70-R74): the rows of their own, the values that are stored as
another one, the settings derived from basic ones (R81), and the function blocks and MSI-X tables (R645, R655). -/
namespace Sys2Proof.Machine
open Sys2Proof

/-! Values stored as another value. -/

/-- Stored as the nearer bound. -/
def nearest (lo hi x : Nat) : Nat := max lo (min hi x)
/-- 0 is stored as another value. -/
def not0 (d x : Nat) : Nat := if x = 0 then d else x
/-- A value above the largest is stored as another one. -/
def upTo (m d x : Nat) : Nat := if m < x then d else x

/-- The fields of a page that store some written values as others. -/
def clampsOf (k : PageKind) : List (Fld × (Nat → Nat)) :=
  match k with
  | .pwr => [(F.PWR_OPP_MV_MV, nearest 600 900), (F.PWR_LINK_SLEEP_HB_NS, nearest 100 900)]
  | .tile => [(F.TILE_SEQ_CFG_DEFAULT_TC, upTo 5 5), (F.TILE_QUEUE_LIMIT_DMA_DEPTH, nearest 1 8),
      (F.TILE_QUEUE_LIMIT_MXU_DEPTH, nearest 1 4), (F.TILE_QUEUE_LIMIT_VXU_DEPTH, nearest 1 4),
      (F.TILE_DMA_OUT_MAX_PKTS, nearest 1 32), (F.TILE_DMA_OUT_MAX_READS, nearest 1 16)]
  | .mcu => [(F.MCU_MCU_CFG_PROFILE, upTo 2 0), (F.MCU_PATROL_HOURS, not0 1), (F.MCU_SCRUB_CFG_SHARE, not0 1)]
  | .part => [(F.PART_CFG_SCRUB_SHARE, nearest 1 10)]
  | .memq => [(F.MEMQ_WINDOW_NS, nearest 250 4000)]
  | .rte => [(F.RTE_TIMEOUT_US, nearest 10 1000000), (F.RTE_SPREAD_MODE, upTo 2 2)]
  | .lx => [(F.LX_LOSS_NS, nearest 200 900), (F.LX_ACK_EVERY_CW, not0 1), (F.LX_REPLAY_MAX, not0 1)]
  | .tsp => [(F.TSP_CLASS_WEIGHT, not0 1), (F.TSP_POL_RATE_BURST, not0 1), (F.TSP_PORT_CFG_MARK_THRESH, min 100),
      (F.TSP_POL_MATCH_ACTION, upTo 2 2)]
  | .fab => [(F.FAB_TIMERS_BEAT_US, nearest 100 10000), (F.FAB_TIMERS_LOSS_BEATS, nearest 2 15), (F.FAB_TIMERS_ELECT_MS, max 10),
      (F.FAB_SW_TIMING_TRIES, not0 1)]
  | .met => [(F.MET_CFG_BEACON_US, not0 1), (F.MET_CFG2_SLEW_LIMIT_US, not0 1), (F.MET_CFG2_ROOT_LOSS, nearest 2 15)]
  | .snp => [(F.SNP_LEAD_NS, nearest 1000 10000000), (F.SNP_MIN_GAP_US, nearest 10 1000000)]
  | .dh => [(F.DH_FETCH_LEAD, nearest 2 15), (F.DH_FETCH_PLAN_LAYERS, nearest 1 12), (F.DH_GENLOCK_SOURCE, upTo 2 0),
      (F.DH_GENLOCK_RATIO, nearest 1 4), (F.DH_GL_LOOP_PULL_PPM, min 2000), (F.DH_GL_LIMITS_MIN_PCT, nearest 50 99),
      (F.DH_GL_LIMITS_MISS, nearest 2 15), (F.DH_FETCH_X_OUTSTANDING, nearest 1 128)]
  | .dptx => [(F.DPTX_LINK_CFG_MAX_RATE, upTo 6 6), (F.DPTX_OUT_FMT_COLOUR, upTo 2 0), (F.DPTX_OUT_FMT_DSC_BPP, nearest 128 256),
      (F.DPTX_TRAIN_RETRY_S, not0 1)]
  | .prot => [(F.PROT_CTRL_FMT, upTo 2 0)]
  | .sig => [(F.SIG_CTRL_POLICY, upTo 2 2), (F.SIG_CTRL_MISS_N, not0 1)]
  | .cmt => [(F.CMT_CUTOFF_LINES, not0 1), (F.CMT_RECORD_TIMEOUT_US, not0 1)]
  | .blt => [(F.BLT_OUT_OUTSTANDING, nearest 1 64)]
  | .csi => [(F.CSI_CFG_DT, fun x => if 0x2B ≤ x && decide (x ≤ 0x2E) then x else 0x2C), (F.CSI_CFG_RATE_MBPS, nearest 80 4500)]
  | .isp => [(F.ISP_CFG_CFA, fun x => if 5 ≤ x then 0 else x), (F.ISP_CFG_TC, upTo 5 5), (F.ISP_CTRL_NBUF, not0 1),
      (F.ISP_EMB_MAX_BYTES, min 256), (F.ISP_TRIG_SRC, upTo 2 0), (F.ISP_TRIG_WIDTH_US, not0 1),
      (F.ISP_OUT_OUTSTANDING, nearest 1 64)]
  | .chip | .boot | .flash | .lic | .pace | .pvt | .err | .evl | .mgc | .hif | .hq | .vid | .gfx => []

/-- One field of a word takes the value it is stored as. -/
def clampField (pg off : Nat) (c : Fld × (Nat → Nat)) (s : State) : State :=
  match fldHit c.1 off with
  | none => s
  | some (i0, b) =>
    (List.range c.1.per).foldl (fun s j =>
      if i0 + j < c.1.cnt then s.wr pg c.1 (c.2 (s.rd pg c.1 (i0 + j) b)) (i0 + j) b else s) s

/-- A plain write of a word: its fields as the access codes say, each as the value it is stored as. -/
def plainWrite (req pg off v : Nat) (s : State) : State :=
  (clampsOf (kindOf pg)).foldl (fun s c => clampField pg off c s) (storePlain req pg off v s)

/-! Derived settings. -/

/-- Writes several fields of a page. -/
def wrAll (pg : Nat) (l : List (Fld × Nat)) (s : State) : State := l.foldl (fun s x => s.wr pg x.1 x.2) s

/-- The expert settings that TILE.SEQ_CFG.PROFILE gives (Table 7.8). -/
def deriveTile (t : Nat) (s : State) : State :=
  let low := s.rd (pgTILE t) F.TILE_SEQ_CFG_PROFILE = 1
  wrAll (pgTILE t)
    (if low then [(F.TILE_QUEUE_LIMIT_DMA_DEPTH, 2), (F.TILE_QUEUE_LIMIT_MXU_DEPTH, 2), (F.TILE_QUEUE_LIMIT_VXU_DEPTH, 2),
                  (F.TILE_DMA_OUT_MAX_PKTS, 8), (F.TILE_DMA_OUT_MAX_READS, 4), (F.TILE_DMA_SPLIT_PAYLOAD, 1), (F.TILE_ARB_FETCH_FIRST, 1)]
     else [(F.TILE_QUEUE_LIMIT_DMA_DEPTH, 8), (F.TILE_QUEUE_LIMIT_MXU_DEPTH, 4), (F.TILE_QUEUE_LIMIT_VXU_DEPTH, 4),
           (F.TILE_DMA_OUT_MAX_PKTS, 32), (F.TILE_DMA_OUT_MAX_READS, 16), (F.TILE_DMA_SPLIT_PAYLOAD, 2), (F.TILE_ARB_FETCH_FIRST, 0)]) s

/-- The expert settings that MCU.MCU_CFG.PROFILE gives (Table 11.5). -/
def deriveMcu (n : Nat) (s : State) : State :=
  let fs := [F.MCU_PAGE_POLICY_MODE, F.MCU_PAGE_POLICY_OPEN_LIMIT, F.MCU_QUEUE_RD_DEPTH, F.MCU_QUEUE_WR_DEPTH, F.MCU_QUEUE_WR_HIGH,
             F.MCU_QUEUE_WR_LOW]
  let vs := match s.rd (pgMCU n) F.MCU_MCU_CFG_PROFILE with
    | 1 => [1, 64, 64, 64, 56, 32] | 2 => [0, 1, 64, 32, 24, 8] | _ => [2, 16, 64, 64, 48, 16]
  wrAll (pgMCU n) (fs.zip vs) s

/-- PATROL_RATE follows PATROL.HOURS: the code words of a stack over the seconds (R321). -/
def derivePatrol (n : Nat) (s : State) : State :=
  let sec := s.rd (pgMCU n) F.MCU_PATROL_HOURS * 3600
  s.wr (pgMCU n) F.MCU_SCRUB_CFG_PATROL_RATE ((67108864 + sec - 1) / sec)

/-- RTE's expert settings follow CFG.PROFILE (Table 15.10). -/
def deriveRte (s : State) : State :=
  let strict := s.rd pgRTE F.RTE_CFG_PROFILE = 1
  wrAll pgRTE (if strict then [(F.RTE_SPREAD_MODE, 2), (F.RTE_SETTLE_US, 0)] else [(F.RTE_SPREAD_MODE, 0), (F.RTE_SETTLE_US, 1000)]) s

/-- LS.RESERVE follows TIMING_H.ACTIVE and FETCH (R523). -/
def deriveReserve (n : Nat) (s : State) : State :=
  let pg := pgDH n
  let bpp := match s.rd pg F.DH_FETCH_PLAN_BPP with | 0 => 2 | 1 => 4 | _ => 8
  let u := (s.rd pg F.DH_TIMING_H_ACTIVE * bpp + 16383) / 16384
  s.wr pg F.DH_LS_RESERVE (min 256 ((s.rd pg F.DH_FETCH_LEAD + 1) * s.rd pg F.DH_FETCH_PLAN_LAYERS * u))

/-- PLL_A and PLL_B realise PIXCLK; the spec does not give the values: free values (log 3). -/
def derivePll (n : Nat) (s : State) : State :=
  let a := s.free 20
  let b := a.2.free 32
  let pg := pgDH n
  let s := (b.2.wr pg F.DH_PLL_A_MUL_INT a.1).wr pg F.DH_PLL_A_PRE_DIV (a.1 / 2 ^ 12)
  (s.wr pg F.DH_PLL_A_POST_DIV (a.1 / 2 ^ 16)).wr pg F.DH_PLL_B_MUL_FRAC b.1

/-- DSC_RC follows OUT_FMT and TIMING_H.ACTIVE as the PPS of VESA DSC has them: free values here (R545, log 3). -/
def deriveDsc (n : Nat) (s : State) : State :=
  (List.range 8).foldl (fun s i => let x := s.free 32
                                   x.2.wr (pgDPTX n) F.DPTX_DSC_RC_VALUE x.1 i) s

/-- TONE[i] of the LINEAR curve (R633). -/
def toneLinear : List Nat := (List.range 65).map fun i => (65535 * i + 32) / 64

/-- Noise reduction and tone follow NR_LEVEL and GAMMA (Tables 21.8 and 21.9). -/
def deriveIspCfg (n : Nat) (s : State) : State :=
  let pg := pgISP n
  let fs := [F.ISP_SNR_W_W1, F.ISP_SNR_W_W2, F.ISP_SNR_W_RANGE, F.ISP_TNR_STRENGTH, F.ISP_TNR_MOTION]
  let vs := match s.rd pg F.ISP_CFG_NR_LEVEL with
    | 0 => [0, 0, 0, 0, 1] | 1 => [64, 32, 1024, 96, 2048] | 2 => [128, 64, 2048, 160, 3072] | _ => [192, 128, 4096, 208, 4096]
  let s := wrAll pg (fs.zip vs) s
  let t := if s.rd pg F.ISP_CFG_GAMMA = 0 then toneBT709 else toneLinear
  (List.range 33).foldl (fun s k => s.setWord (pg + 0x410 + 4 * k) (BitVec.ofNat 32 (toneWord t k))) s

/-- The matrix of BT.709 limited range (Table 21.10). -/
def ycbcrMatrix : List Int := [748, 2516, 254, -412, -1387, 1799, 1799, -1634, -165, 257, 2056, 2056]

/-- An output matrix follows the output's format (Table 21.10). -/
def deriveOcsc (n o : Nat) (s : State) : State :=
  let pg := pgISP n
  let fmt := s.rd pg F.ISP_CTRL_FMT 0 o + 16 * s.rd pg F.ISP_CTRL_FMT_HI 0 o
  let m : Nat → Nat := fun i =>
    if [5, 6, 0x10, 0x11].contains fmt then (ycbcrMatrix.getD i 0 % 65536).toNat else identityElem i
  (List.range 12).foldl (fun s i => s.wr pg (if o = 0 then F.ISP_OCSC_DISP_VALUE else F.ISP_OCSC_CODE_VALUE) (m i) i) s

/-! Shapers, policers and sums. -/

/-- The sum of some fields must not exceed a share: what a write adds beyond it is taken off the written fields, the later
one first (R379, R412). -/
def capSum (pg share : Nat) (all : List (Fld × Nat × Nat)) (written : List (Fld × Nat × Nat)) (s : State) : State :=
  written.foldr (fun x s =>
    let sum := all.foldl (fun a y => a + s.rd pg y.1 y.2.1 y.2.2) 0
    let v := s.rd pg x.1 x.2.1 x.2.2
    s.wr pg x.1 (v - min v (sum - share)) x.2.1 x.2.2) s

/-- Packets that wait for a slot enter their queues while there is room. -/
def unstallAll (g : Nat) (s : State) : State :=
  (List.range 8).foldl (fun s c =>
    (fget (fun _ => []) s.stall (8 * g + c)).foldl (fun s _ => unstall g c s) s) s

/-- A shaper's credit is set to 0, or clamped to CAP (R403, R404). -/
def shaperFix (g c : Nat) (zero : Bool) (s : State) : State :=
  let cap : Int := (s.rd (pgTSP (g / 4)) F.TSP_SCAP_CAP c (g % 4) * 16000 : Nat)
  s.modPort g fun p => { p with shapers := p.shapers.mapIdx fun i k => if i = c then (if zero then 0 else min k cap) else k }

/-- A policer is filled, or its tokens clamped to BURST (R406). -/
def policerFix (k : Nat) (fill : Bool) (s : State) : State :=
  let full := s.rd (pgTSP (k / 32)) F.TSP_POL_RATE_BURST (k % 32) * 16000
  s.modPort (k / 8) fun p => { p with tokens := p.tokens.mapIdx fun i t => if i = k % 8 then (if fill then full else min t full) else t }

/-- A write of CLASS[c] of port g: WEIGHT derives QDEPTH, the rate derives SRATE, and the shaper starts at 0 (R403, R411,
R412). -/
def tspClassWrite (req n j c v : Nat) (s : State) : State :=
  let pg := pgTSP n
  let g := 4 * n + j
  let s := plainWrite req pg (0x140 + 0x40 * j + 4 * c) v (tspAdvance g s)
  let p := match s.rd pg F.TSP_CLASS_SHAPE_PKT c j with | 0 => 64 | 1 => 128 | _ => 256
  let s := s.wr pg F.TSP_SRATE_RATE ((1600 * s.rd pg F.TSP_CLASS_SHAPE_GBS c j + p - 1) / p) c j
  unstallAll g (deriveDepth n j (shaperFix g c true s))

/-- A write of SRATE[c] or SCAP[c]: IDLE_CAP at most CAP, and the credit clamped (R404). -/
def tspShaperWrite (req n j c off v : Nat) (s : State) : State :=
  let pg := pgTSP n
  let s := plainWrite req pg off v (tspAdvance (4 * n + j) s)
  let s := s.wr pg F.TSP_SCAP_IDLE_CAP (min (s.rd pg F.TSP_SCAP_IDLE_CAP c j) (s.rd pg F.TSP_SCAP_CAP c j)) c j
  shaperFix (4 * n + j) c false s

/-- A write of QDEPTH of two classes (R412). -/
def tspDepthWrite (req n j k v : Nat) (s : State) : State :=
  let pg := pgTSP n
  let s := plainWrite req pg (0x430 + 0x40 * j + 4 * k) v s
  let fld := fun c => (F.TSP_QDEPTH_TC, c, j)
  unstallAll (4 * n + j) (capSum pg (portSlots s n) ((List.range 8).map fld) [fld (2 * k), fld (2 * k + 1)] s)

/-- A write of POL_MATCH or POL_RATE of policer k of a link (R406). -/
def tspPolicerWrite (req n k off v : Nat) (s : State) : State :=
  let s := plainWrite req (pgTSP n) off v (tspAdvance (4 * n + k / 8) s)
  policerFix (32 * n + k) (off % 8 = 0 && bitOf v 7) s

/-- A write of CREDIT of two classes (R379). -/
def lxCreditWrite (req n j k v : Nat) (s : State) : State :=
  let pg := pgLX n
  let s := plainWrite req pg (0x400 + 0x40 * j + 4 * k) v s
  let fld := fun c => (creditFld c, 0, j)
  let split := s.rd pg F.LX_CFG_STATUS_SPLIT_NOW
  let share := (List.range 8).foldl (fun a c => a + creditOf split 0 c) 0
  capSum pg share ((List.range 8).map fld) [fld (2 * k), fld (2 * k + 1)] s

/-! Rows of their own, by page. -/

def wrTile (req t off v : Nat) : Option (State → State) :=
  if off = 0x100 then some (seqCtrlWrite t v)
  else if off = 0x108 then some fun s => deriveTile t (plainWrite req (pgTILE t) off v s)
  else if 0x140 ≤ off && decide (off < 0x160) then some (tcSet t ((off - 0x140) / 4) v)
  else if off = 0x128 || off = 0x12C || (decide (0x160 ≤ off) && decide (off < 0x170)) || (decide (0x180 ≤ off) && decide (off < 0x200)) then
    some (tileScalarWrite t off v)
  else if off = 0x134 then some (perfCtrlWrite t v)
  else if off = 0x130 then some (sramEccWrite t v)
  else if off = 0x414 then some (tileInjectWrite t v)
  else none

def wrMcu (req n off v : Nat) : Option (State → State) :=
  match off with
  | 0x100 => some fun s => deriveMcu n (plainWrite req (pgMCU n) off v s)
  | 0x104 => some fun s => derivePatrol n (plainWrite req (pgMCU n) off v s)
  | 0x124 => some (mcuEccClr n v)
  | 0x418 => some (mcuInjectWrite n v)
  | _ => none

def wrLx (req n off v : Nat) : Option (State → State) :=
  let j := (off - 0x140) / 0x40
  if off = 0x100 then some (lxCfgWrite n v)
  else if off = 0x108 then some (laneClrWrite n v)
  else if 0x140 ≤ off && decide (off < 0x240) then
    (if off % 0x40 = 0 then some (pctrlWrite n j v) else if off % 0x40 = 0x30 then some (pclearWrite n j v) else none)
  else if 0x400 ≤ off && decide (off < 0x500) && decide (off % 0x40 < 0x10) then
    some (lxCreditWrite req n ((off - 0x400) / 0x40) (off % 0x40 / 4) v)
  else none

def wrTsp (req n off v : Nat) : Option (State → State) :=
  let d := off % 0x40
  if off = 0x100 then some (tspClearWrite n v)
  else if 0x140 ≤ off && decide (off < 0x240) then
    let j := (off - 0x140) / 0x40
    (if d < 0x18 then some (tspClassWrite req n j (d / 4) v) else if d = 0x38 then some (tspPclearWrite n j v) else none)
  else if 0x240 ≤ off && decide (off < 0x340) then some (tspPolicerWrite req n ((off - 0x240) / 8) off v)
  else if 0x400 ≤ off && decide (off < 0x500) then
    let j := (off - 0x400) / 0x40
    (if d < 0x30 then some (tspShaperWrite req n j (d / 4 % 6) off v) else some (tspDepthWrite req n j ((d - 0x30) / 4) v))
  else none

def wrRte (req off v : Nat) : Option (State → State) :=
  if off = 0x100 then some fun s => deriveRte (plainWrite req pgRTE off v s)
  else if off = 0x108 then some (ctxAlloc req v)
  else if off = 0x10C then some fun s =>
    let s := plainWrite req pgRTE off v s
    s.wr pgRTE F.RTE_STATUS_TRANSIT_ACTIVE (s.rd pgRTE F.RTE_TRANSIT_ACTIVE)
  else if 0x120 ≤ off && decide (off < 0x1A0) then some (ctxActive req ((off - 0x120) / 4) v)
  else if off = 0x1C0 then some (rteCntClr v)
  else if 0x300 ≤ off && decide (off < 0x320) then some (zpeerWrite req ((off - 0x300) / 4) v)
  else none

def wrDh (req n off v : Nat) : Option (State → State) :=
  match off with
  | 0x134 => some (headokAccess req n v)
  | 0x174 => some (dhCntClr n v)
  | 0x100 => some fun s => modePending n (deriveDsc n (deriveReserve n (plainWrite req (pgDH n) off v s)))
  | 0x114 => some fun s => modePending n (derivePll n (plainWrite req (pgDH n) off v s))
  | 0x118 => some fun s => modePending n (deriveReserve n (plainWrite req (pgDH n) off v s))
  | _ => some fun s => modePending n (plainWrite req (pgDH n) off v s)

def wrIsp (req n off v : Nat) : Option (State → State) :=
  match off with
  | 0x100 => some (ispApply n v)
  | 0x128 => some (ispCntClr n v)
  | 0x130 => some fun s => deriveIspCfg n (plainWrite req (pgISP n) off v s)
  | 0x180 => some fun s => deriveOcsc n 0 (plainWrite req (pgISP n) off v s)
  | 0x1C0 => some fun s => deriveOcsc n 1 (plainWrite req (pgISP n) off v s)
  | _ =>
    if 0x280 ≤ off && decide (off ≤ 0x290) && decide (req ≠ mgmt) then
      some fun s => pageFault (pgISP n) causeNotOwner req true off s
    else none

def wrCmt (req off v : Nat) : Option (State → State) :=
  if 0x100 ≤ off && decide (off < 0x180) && off % 0x20 = 8 then some (commitCmd req ((off - 0x100) / 0x20) v)
  else if off = 0x180 then some (fenceAllocWrite req v)
  else if off = 0x18C then some (cmtCntClr v)
  else none

/-- A write of PWR.SW_HOLD that raises the hold while the chip is deeper waits for the exit (R179). -/
def swHoldWrite (req v : Nat) (s : State) : State :=
  if v % 8 < depth s then wakeFor (plainWrite req pgPWR 0x10C v) s else plainWrite req pgPWR 0x10C v s

/-- A write of HIF.LINK_CFG: MAX_SPEED 0 is stored as 1, which is what LOCK judges (R93, R637). -/
def maxSpeedWrite (req v : Nat) (s : State) : State := plainWrite req pgHIF 0x104 (if v % 4 = 0 then v + 1 else v) s

def wrHif (req off v : Nat) : Option (State → State) :=
  match off with
  | 0x104 => some (maxSpeedWrite req v)
  | 0x118 => some (hifCntClr v)
  | 0x148 => some (stCtrlWrite 0 v) | 0x168 => some (stCtrlWrite 1 v) | 0x188 => some (stCtrlWrite 2 v)
  | 0x14C => some (stRingWrite 0 v) | 0x16C => some (stRingWrite 1 v) | 0x18C => some (stRingWrite 2 v)
  | _ => none

def wrSystem (k : PageKind) (req off v : Nat) : Option (State → State) :=
  match k, off with
  | .chip, 0x130 => some (resetCmd req v)
  | .chip, 0x134 => some fun s => wdogSync (plainWrite req pgCHIP off v s)
  | .chip, 0x138 => some wdogSync
  | .mgc, 0x124 => some (mgcCntClr v)
  | .pwr, 0x100 => some (ctrlWrite v)
  | .pwr, 0x10C => some (swHoldWrite req v)
  | .pwr, 0x120 => some fun s => fabDo id (restWrite v s)
  | .flash, 0x110 => some (winPush v)
  | .met, 0x130 => some (metCntClr v)
  | .err, 0x140 => some (injectWrite v)
  | .err, 0x144 => some (errCntClr v)
  | .evl, 0x11C => some (logCtlWrite 0 v)
  | .evl, 0x12C => some (logCtlWrite 1 v)
  | .evl, 0x134 => some (rdSelWrite v)
  | .part, 0x104 => some (partCreate req v)
  | .part, 0x108 => some (partAssign req v)
  | .part, 0x394 => some (partCntClr v)
  | .pvt, 0x11C => some (pvtCtrlWrite v)
  | .pace, 0x114 => some (paceCtrlWrite v)
  | .snp, 0x114 => some (fireWrite v)
  | .snp, 0x120 => some (atCtrlWrite v)
  | .snp, 0x14C => some (snpCntClr v)
  | .memq, 0x100 => some (memqResWrite v)
  | .memq, 0x108 => some (imapWrite false v)
  | .memq, 0x10C => some (imapWrite true v)
  | .fab, 0x124 => some fun s => topoRecheck (plainWrite req pgFAB off v s)
  | .fab, 0x128 => some fun s => fabDo id (mbxWrite req v s)
  | .fab, 0x160 => some (fabCntClr v)
  | .blt, 0x16C => some (bltCntClr v)
  | _, _ => none

/-- What a write of a word does beyond a plain write: the rows of their own. -/
def rowWrite (k : PageKind) (n req off v : Nat) : Option (State → State) :=
  match k with
  | .tile => wrTile req n off v
  | .mcu => wrMcu req n off v
  | .lx => wrLx req n off v
  | .tsp => wrTsp req n off v
  | .rte => wrRte req off v
  | .dh => wrDh req n off v
  | .dptx =>
    if off = 0x110 then some (dpRetrainWrite n v) else if off = 0x114 then some (auxCmd req n (v % 4) v)
    else if off = 0x134 then some (dptxCntClr n v)
    else if off = 0x104 then some fun s => deriveDsc n (plainWrite req (pgDPTX n) off v s) else none
  | .prot =>
    if off = 0x11C then some (protWin n v) else if off = 0x130 then some (protLoadStart req n v)
    else if off = 0x114 then some (protApplyWrite n v) else none
  | .sig => if off = 0x104 then some (sigApplyWrite n v) else if off = 0x11C then some (sigCntClr n v) else none
  | .csi => if off = 0x128 then some (csiCntClr n v) else none
  | .isp => wrIsp req n off v
  | .cmt => wrCmt req off v
  | .hif => wrHif req off v
  | .hq => if (off - 0x100) % 0x18 = 0x10 then some (qcfgWrite req (32 * n + (off - 0x100) / 0x18) v) else none
  | k => wrSystem k req off v

/-- A write of a word of the header or the ownership area (Tables 3.3 and 3.5). -/
def headerWrite (req pg off : Nat) (v : Word) : State → State :=
  match off with
  | 0x008 => pageCtrlWrite req pg v.toNat
  | 0x014 => irqEnableWrite pg v
  | 0x018 => irqPendingWrite pg v
  | 0x01C => irqSet pg v
  | 0x020 => snapCtrlWrite pg v.toNat
  | 0xF00 => ownerWrite pg v.toNat
  | 0xF04 => lockWrite pg v.toNat
  | 0xF0C => faultClrWrite pg v.toNat
  | _ => id

/-- The effect of a write of a word, once its checks have passed. -/
def regEffect (req a : Nat) (v : Word) : State → State :=
  let off := a % 0x1000
  let pg := a - off
  if off < 0x40 || 0xF00 ≤ off then headerWrite req pg off v
  else
    match pageOf a with
    | none => id
    | some (k, n) =>
      if hasLop k && off = 0x40 then lopCmd req pg v.toNat
      else
        match rowWrite k n req off v.toNat with
        | some f => f
        | none => plainWrite req pg off v.toNat

/-- A write of a word of the register window by a requester on a chip. -/
def windowWrite (src req a : Nat) (v : Word) (s : State) : State :=
  if inRteWindow a then rteTableWrite req a v s
  else if a - a % 0x1000 = pgCMT then cmtWriteFrom src req a (regEffect req a v) s
  else regWriteFrom src req a (regEffect req a v) s

/-! Function blocks and MSI-X tables. -/

/-- The queue that QCFG places at local index j of a function (Table 22.4). -/
def localQueue (s : State) (f j : Nat) : Option Nat :=
  (List.range 64).find? fun q => hqFn s q = f && hqRd s q F.HQ_QCFG_LOCAL = j

/-- Word i of a function's PEND_MAP (R654): the pages with a pending interrupt that the function's requester owns. -/
def pendMap (s : State) (f i : Nat) : Word :=
  BitVec.ofNat 32 (((List.range 32).map fun b =>
    let pg := (32 * i + b) * 0x1000
    b2n (fnBound s f && (pageOf pg).isSome && decide (s.owner pg = fnReq s f) && !decide (irqPending s pg = 0)) * 2 ^ b).sum)

/-- The word that a driver's read of its function's block returns (R645): PEND_MAP is computed at the read, the queue area is
the storage of the queue blocks, and the other words stand in the block. -/
def fnWord (s : State) (f off : Nat) : Word :=
  if 0x40 ≤ off && decide (off < 0x200) then pendMap s f ((off - 0x40) / 4)
  else if 0x200 ≤ off && decide (off < 0x400) then
    match localQueue s f ((off - 0x200) / 0x40) with
    | none => 0
    | some q =>
      let o := off % 0x40
      if o < 0x18 then s.word (hqPg q + 0x100 + 0x18 * (q % 32) + o)
      else if o = 0x1C then BitVec.ofNat 32 (s.hq q).consumed
      else 0
  else s.word (pgFN f + off)

/-- A write of a word of the queue area of a function (Table 22.4). -/
def queueAreaWrite (f off v : Nat) (s : State) : State :=
  match localQueue s f ((off - 0x200) / 0x40) with
  | none => s
  | some q =>
    match off % 0x40 with
    | 0x00 => hqWr q F.HQ_SQ_LO_BASE (v / 2 ^ 6) s
    | 0x04 => hqWr q F.HQ_SQ_HI_BASE v s
    | 0x08 => hqWr q F.HQ_CQ_LO_BASE (v / 2 ^ 4) s
    | 0x0C => hqWr q F.HQ_CQ_HI_BASE v s
    | 0x10 => qcfgWrite (fnReq s f) q v s
    | _ => s

/-- A write of a word of a function block by the function's driver (R645): a VF has 56 vectors, and the base of a slot of the
PF has bits [29:28] = 0. -/
def fnWrite (f off v : Nat) (s : State) : State :=
  let pg := pgFN f
  if off = 4 then s.wr pg F.FN_FN_CFG_TC (upTo 5 5 (v % 8))
  else if off = 0x10 then fnClear f v s
  else if 0x200 ≤ off && decide (off < 0x400) then queueAreaWrite f off v s
  else if 0x400 ≤ off && decide (off < 0x500) then
    (if off - 0x400 < vectorsOf f then s.setWord (pg + off) (BitVec.ofNat 32 v) else s)
  else if 0x500 ≤ off && decide (off < 0x520) then
    let i := (off - 0x500) / 8
    if off % 8 = 0 then
      let b := if f = 0 then v / 2 ^ 30 * 4 else v / 2 ^ 28
      ((s.wr pg F.FN_AP_LO_VALID v i).wr pg F.FN_AP_LO_ORDERED (v / 2) i).wr pg F.FN_AP_LO_BASE b i
    else s.wr pg F.FN_AP_HI_BASE v i
  else s

/-- A write to a function's block or MSI-X table arrives over the link: it is served when the BARs are (R659). The function
need not be bound: R638 refuses an unbound VF its aperture accesses, claims and doorbells alone. -/
def barWrite (a : Nat) (v : Word) (s : State) : State :=
  let f := a / 0x1000 % 0x100
  if !barsServed s then s
  else if a < 0x1100000 then fnWrite f (a % 0x1000) v.toNat s
  else if a % 16 = 12 && decide (a % 0x1000 / 16 < vectorsOf f) then msixMaskWrite f (a % 0x1000 / 16) (bitOf v.toNat 0) s
  else s

/-- REGISTER_WRITE_PLAIN (R72, R81): a requester writes a word at a window offset, or a function's driver a word of its block
(from 0x100_0000 on) or of its MSI-X table (from 0x110_0000 on). -/
def execRegisterWritePlain (req a : Nat) (v : Word) (s : State) : Host.Outcome State Fault Refusal :=
  liveP s (if a < 0x1000000 then windowWrite s.chipNum req a v else barWrite a v)

end Sys2Proof.Machine
end

