-- ==== Sys2Proof/Machine/Deliver.lean ====
section
/-! DEFINITION. The delivery of a request at its destination (12 R343-R351, Table 12.5): the checks in their order, the effect,
and the response. -/
namespace Sys2Proof.Machine
open Sys2Proof

/-! What a request names. -/

/-- Where a chip offset leads (Table 1.2). -/
inductive Target where
  /-- HBM. -/
  | hbm
  /-- Byte o of the SRAM range of tile t. -/
  | tile (t o : Nat)
  /-- Window offset a of a page or of the routing table window. -/
  | window (a : Nat)
  /-- Unmapped. -/
  | hole
  deriving DecidableEq, Repr

/-- The target of a chip offset: Table 1.2, and inside the window Tables 3.1 and 15.8. -/
def targetOf (off : Nat) : Target :=
  if off < hbmSize then .hbm
  else if sramBase ≤ off && decide (off < sramBase + 2560 * 0x40000) then .tile ((off - sramBase) / 0x40000) (off % 0x40000)
  else if winBase ≤ off && decide (off < winBase + 0x1000000) then
    let a := off - winBase
    if inRteWindow a then (if rteCell a = .hole then .hole else .window a)
    else if (pageOf a).isSome then .window a else .hole
  else .hole

/-- The requests of Table 12.2. -/
def isAtomic (p : Packet) : Bool := decide (0x10 ≤ p.op) && decide (p.op ≤ 0x1A)
def isRequest (p : Packet) : Bool := p.op = opREAD || p.op = opWRITE || p.op = opCSIG || isAtomic p

/-- The requester a packet's slice ID gives at delivery (R343): the management domain only for a local packet or one that
arrived on TC7. -/
def requesterOf (s : State) (p : Packet) : Option Nat :=
  if p.slice = 0xFFF then (if p.port = 31 || p.tc = 7 then some mgmt else none)
  else (ctxOfSlice s p.slice).bind (partOfCtx s)

/-- The packet is of the host interface of this chip. -/
def fromHost (p : Packet) : Bool := p.port = 31 && p.tag / 256 / 64 = 0x29

/-- The packet is a write of the blitter or of a camera pipeline of this chip, whose rows need not end on words (R599, R620). -/
def byteExact (p : Packet) : Bool :=
  p.port = 31 && p.op = opWRITE && (p.tag / 256 = 0xA20 || p.tag / 256 / 16 = 0xA0)

/-- The bytes a request covers. -/
def reqBytes (p : Packet) : Nat := if byteExact p then p.data.length else 4 * p.words

/-- The window offsets of the words of a request. -/
def reqWords (p : Packet) (a : Nat) : List Nat := (List.range p.words).map (a + 4 * ·)

/-- The fence slot that a window offset names. -/
def fenceSlot (a : Nat) : Option Nat :=
  if pgCMT + 0x200 ≤ a && decide (a < pgCMT + 0x300) && a % 4 = 0 then some ((a - pgCMT - 0x200) / 4) else none

/-! The checks of Table 12.5. -/

/-- Check 4: the request lies within one aligned 256-byte unit, is aligned, and suits its target (R348, R71, R220). -/
def reqForm (p : Packet) (tg : Target) : Bool :=
  decide (1 ≤ p.words) && decide (p.words ≤ 64) && decide (p.offset % 256 + reqBytes p ≤ 256)
  && (byteExact p || p.offset % 4 = 0)
  && (if p.op = opREAD then true
      else if p.op = opWRITE then !p.poison && (byteExact p || p.data.length = 4 * p.words)
      else if p.op = opCSIG then
        (match tg with | .tile _ o => decide (o < 32) && p.words = 1 | .hbm => false | .window _ => false | .hole => false)
      else
        (p.words = 1 || p.words = 2) && p.offset % (4 * p.words) = 0 &&
        (match tg with
         | .hbm => true
         | .tile _ _ => true
         | .window a => p.op = opATOMIC 10 && p.words = 1 && (fenceSlot a).isSome
         | .hole => false))

/-- Check 5 on a word of a page (Table 3.4, R580). -/
def wordMay (s : State) (req : Nat) (write : Bool) (a : Nat) : Bool :=
  let off := a % 0x1000
  let pg := a - off
  if pg = pgCMT then (if write then cmtMayWrite s req off else cmtMayRead s req off)
  else if write then mayWrite s req pg off else mayRead s req pg off

/-- The partition that holds the granule or the tile of a target. -/
def targetOwner (s : State) (off : Nat) (tg : Target) : Nat :=
  match tg with
  | .hbm => fget (fun _ => mgmt) s.granOwner (off / 2 ^ 30)
  | .tile t _ => s.owner (pgTILE t)
  | .window _ => mgmt
  | .hole => mgmt

/-- A delivery to a fenced partition, or to one that drains or is scrubbed, is dropped (R676). -/
def drainDrops (s : State) (req off : Nat) (tg : Target) : Bool :=
  let q := targetOwner s off tg
  decide (req ≠ mgmt) && decide (q < 32) && decide (2 ≤ partState s q)

/-- Check 5 fails: the record, and ERR DENIED (R674). -/
def denied (p : Packet) (req target : Nat) (s : State) : State :=
  (denyCount req p.src target p.offset s).put (errResp p stDENIED)

/-- A page's accesses are served (R114); the routing table window belongs to RTE. -/
def windowServed (s : State) (req a : Nat) : Bool :=
  if inRteWindow a then s.done else if a - a % 0x1000 = pgCMT then s.done else served s req (a - a % 0x1000)

/-! Register reads. -/

/-- The word a read of a register returns: the stored word, or what the block shows at that moment (R83, R488, Table 3.3, Table
23.4). -/
def liveWord (s : State) (a : Nat) : Word :=
  if inRteWindow a then s.word a
  else
    let off := a % 0x1000
    let pg := a - off
    if off = 0xC then BitVec.ofNat 32 (pageStatus s pg)
    else if off = 0x18 then irqPending s pg
    else if a = pgPART + 0x118 then BitVec.ofNat 32 (queryOwner s)
    else s.word a

/-- A read of one register: the running registers are brought up to date, and a read of MET.NOW_LO captures NOW_HI. -/
def readWord (a : Nat) (s : State) : Word × State :=
  let s := if a = pgMET + F.MET_NOW_LO_MET.off then s.wr64 pgMET F.MET_NOW_LO_MET F.MET_NOW_HI_MET s.met else s
  (liveWord s a, s)

/-- The registers of a read, in ascending order (R70). -/
def readWords : List Nat → State → List Byte × State
  | [], s => ([], s)
  | a :: r, s =>
    let x := readWord a s
    let y := readWords r x.2
    (leBytes 4 x.1.toNat ++ y.1, y.2)

/-- The words of a write, in ascending order (R70). -/
def writeWords (src req : Nat) (bs : List Byte) (a : Nat) : Nat → State → State
  | 0, s => s
  | n + 1, s => writeWords src req (bs.drop 4) (a + 4) n (windowWrite src req a (BitVec.ofNat 32 (fieldOf bs 0 4)) s)

/-! The deliveries. -/

/-- A request to HBM, past checks 1 and 2. -/
def deliverHbm (p : Packet) (req : Nat) (s : State) : State :=
  let m := hbmMap s p.offset
  if !reqForm p .hbm then s.put (errResp p stMALFORMED)
  else if !(req = mgmt || targetOwner s p.offset .hbm = req) then denied p req 1 s
  else if !pcOnline s m.1 m.2.1 then
    (raiseEv (pgMCU m.1) 0x3405 (if p.src = s.chipNum then req else mgmt) s).put (errResp p stOFFLINE)
  else mcuEnqueue p s

/-- Performs a request on a tile's SRAM (R208-R211, R351). -/
def performSram (p : Packet) (t o : Nat) (s : State) : State :=
  let n := reqBytes p
  if p.op = opREAD then
    let ue := (s.firstUe t o n).isSome
    (eccScan t o n s).put (respond p opRD_DATA p.words (s.sramRaw t o n) ue)
  else if p.op = opWRITE then (sramWrite t o p.data s).put (respond p opWR_ACK 0 [] false)
  else
    let old := s.sramRaw t o n
    let ue := (s.firstUe t o n).isSome
    let s := eccScan t o n s
    let s := if ue then s else sramWrite t o (atomicBytes p old) s
    s.put (respond p opAT_DATA p.words old ue)

/-- A counter signal takes effect in every sequencer state (R219, R220). -/
def performCsig (p : Packet) (t o : Nat) (s : State) : State :=
  (tcAdd t (o / 4) (fieldOf p.data 0 4) s).put (respond p opSIG_ACK 0 [] false)

/-- A request to a tile, past checks 1 and 2: an access to the SRAM of a bad tile is also handled as unmapped (R27); a counter
signal to one receives the error completion alone (R220). -/
def deliverTile (p : Packet) (req t o : Nat) (s : State) : State :=
  if !(s.good t && s.avail (pgTILE t)) then
    (if p.op = opCSIG then s else unmapped req p.src p.offset s).put (errResp p stBAD_TILE)
  else if !reqForm p (.tile t o) then s.put (errResp p stMALFORMED)
  else if !(req = mgmt || s.owner (pgTILE t) = req) then denied p req (if p.op = opCSIG then 3 else 2) s
  else if p.op = opCSIG then performCsig p t o s
  else performSram p t o s

/-- The MAX of R31 on a fence slot, past check 4 (R563, R717). -/
def deliverFence (p : Packet) (req i : Nat) (s : State) : State :=
  if !s.avail pgCMT then s.put (errResp p stBAD_ACCESS)
  else if !fenceMay s req i then (fenceDenied req p.src i s).put (errResp p stDENIED)
  else if !s.done then s.put (errResp p stOFFLINE)
  else
    let old := fenceVal s i
    (fenceMax i (fieldOf p.data 0 4) s).put (respond p opAT_DATA 1 (leBytes 4 old) false)

/-- A read or write of registers whose checks have passed. -/
def performWindow (p : Packet) (req a : Nat) (s : State) : State :=
  if p.op = opREAD then
    let x := readWords (reqWords p a) (freshen s)
    x.2.put (respond p opRD_DATA p.words x.1 false)
  else (writeWords p.src req p.data a p.words s).put (respond p opWR_ACK 0 [] false)

/-- A request to the routing table window past check 4 (R445). -/
def deliverRte (p : Packet) (req a : Nat) (s : State) : State :=
  if (reqWords p a).any (fun x => rteCell x == .hole) then
    (unmapped req p.src p.offset s).put (errResp p stUNMAPPED)
  else if req ≠ mgmt then (s.bump pgRTE F.RTE_WIN_FAULTS_COUNT).put (errResp p stDENIED)
  else if !windowServed s req a then s.put (errResp p stOFFLINE)
  else performWindow p req a s

/-- A request to the register window, past checks 1 and 2 (R70-R74). -/
def deliverWindow (p : Packet) (req a : Nat) (s : State) : State :=
  let off := a % 0x1000
  if !reqForm p (.window a) then
    (if inRteWindow a then s else pageFault (a - off) causeBadAccess req (p.op ≠ opREAD) off s).put (errResp p stBAD_ACCESS)
  else if isAtomic p then (match fenceSlot a with | some i => deliverFence p req i s | none => s)
  else if inRteWindow a then deliverRte p req a s
  else
    match (reqWords p a).find? fun x => !wordMay s req (p.op = opWRITE) x with
    | some x => denied p req 5 (pageFault (a - off) causeNotOwner req (p.op = opWRITE) (x % 0x1000) s)
    | none => if !windowServed s req a then s.put (errResp p stOFFLINE) else performWindow p req a s

/-- The delivery of a request that has left the Rink (Table 12.5). -/
def deliver (p : Packet) (s : State) : State :=
  match requesterOf s p with
  | none => irq pgRTE 5 (s.bump pgRTE F.RTE_DROP_SLICE_COUNT)
  | some req =>
    let tg := targetOf p.offset
    if tg = .hole then (unmapped req p.src p.offset s).put (errResp p stUNMAPPED)
    else if drainDrops s req p.offset tg then s.bump pgPART F.PART_DRAIN_DROPS_COUNT
    else
      match tg with
      | .hbm => deliverHbm p req s
      | .tile t o => deliverTile p req t o s
      | .window a => deliverWindow p req a s
      | .hole => s

/-! The ladder. -/

/-- The pages that host accesses reach without a wake in the present state (R186). -/
def hostAwake (s : State) (k : PageKind) : Bool :=
  match s.ladder with
  | 0 => true
  | 1 => true
  | 2 => pageKept s 4 k || k = .mcu || k = .memq
  | 3 => pageKept s 4 k && !(k = .lx || k = .tsp || k = .mcu || k = .memq)
  | _ => k = .pwr || k = .pvt || k = .met

/-- The target answers in the present ladder state without a wake by the host. -/
def awakeFor (s : State) (tg : Target) : Bool :=
  match tg with
  | .hbm => decide (s.ladder < 2)
  | .tile _ _ => decide (s.ladder < 2)
  | .window a => hostAwake s (if inRteWindow a then .rte else kindOf a)
  | .hole => true

/-- A request waits on the Rink: the memories do not serve in PIANO and deeper, and a stopped controller accepts nothing. -/
def waitsOnRink (s : State) (p : Packet) : Bool :=
  match targetOf p.offset with
  | .hbm => decide (2 ≤ s.ladder) || !s.running (pgMCU (hbmMap s p.offset).1)
  | .tile _ _ => decide (2 ≤ s.ladder)
  | .window _ => false
  | .hole => false

/-- A host access that needs a wake brings the chip to MEZZO first, or is answered with an error where WAKE_EN.HOST = 0
(R185, R186). -/
def deliverHost (p : Packet) (s : State) : State :=
  if awakeFor s (targetOf p.offset) then deliver p s
  else if bitOf (s.rd pgPWR F.PWR_WAKE_EN_EN) 0 || s.pwr.exiting.isSome then deliver p (exitDone (wake 0 s))
  else s.put (errResp p stOFFLINE)

/-- The packet at position k of the Rink reaches its destination on this chip. -/
def deliverAt (k : Nat) (s : State) : State :=
  match s.rink[k]? with
  | none => s
  | some p =>
    if !(p.dst = s.chipNum) || !isRequest p then s
    else if fromHost p then deliverHost p { s with rink := s.rink.eraseIdx k }
    else if waitsOnRink s p then s
    else deliver p { s with rink := s.rink.eraseIdx k }

/-- REQUEST_DELIVERY (R349): a request on the Rink reaches its destination on this chip. -/
def execRequestDelivery (k : Nat) (s : State) : Host.Outcome State Fault Refusal := liveP s (deliverAt k)

/-- COUNTER_SIGNAL_RECEIVE (R220): a counter signal on the Rink reaches its tile. -/
def execCounterSignalReceive (k : Nat) (s : State) : Host.Outcome State Fault Refusal :=
  liveP s fun s =>
    match s.rink[k]? with
    | none => s
    | some p => if p.op = opCSIG then deliverAt k s else s

end Sys2Proof.Machine
end

