-- ==== Sys2Proof/Machine/Response.lean ====
section
/-! DEFINITION. The responses at their endpoints, the remote access timeout (12 R345, R354-R356), and the loss of the link
reference clock (26 R742). -/
namespace Sys2Proof.Machine
open Sys2Proof

/-- What the endpoint of a tracked request does with its result (Table 12.3). -/
def endpointResult (x : Track) (r : Res) (s : State) : State :=
  let ep := x.ep
  if x.use = 0 then s
  else if ep < 0xA00 then tileResult ep x r s
  else if ep < 0xA10 then camResult ((ep - 0xA00) / 4) x.use x.arg (ep % 4) x.dst r s
  else if ep < 0xA14 then lineResult (ep - 0xA10) x.arg x.arg2 r s
  else if ep < 0xA18 then commitResult (ep - 0xA14) x.arg r s
  else if ep < 0xA1C then protResult (ep - 0xA18) r s
  else if ep = 0xA20 then bltResult x.use x.arg r s
  else if 0xA40 ≤ ep && decide (ep < 0xA80) then
    (if x.use = 1 then apResult x.arg x.arg2 r s else hqResult (ep - 0xA40) x.use x.arg x.arg2 x.dst r s)
  else if ep = 0xA80 then fabResult x.arg r s
  else s

/-- A response is discarded and counted (R356, R701). -/
def strayResponse (p : Packet) (s : State) : State :=
  let first := s.rd pgERR F.ERR_STRAY_RESP_COUNT = 0
  let s := irq pgERR 4 (s.bump pgERR F.ERR_STRAY_RESP_COUNT)
  if first then logEv pgERR 0x2003 s p.tag (p.offset % 2 ^ 32) (p.offset / 2 ^ 32) else s

/-- The tracker of a tag. -/
def trackOf (s : State) (tag : Nat) : Option Track := s.outst.find? fun x => x.ep * 256 + x.ctx = tag

/-- The tracker of a tag is freed. -/
def untrack (x : Track) (s : State) : State :=
  { s with outst := s.outst.filter fun y => !(y.ep = x.ep && y.ctx = x.ctx) }

/-- A response reaches the endpoint named in its tag (R345, R356). One that arrives by link with a SLICE that
matches no partition of this chip any longer is dropped and counted in RTE (R35); one that answers a request of a partition
drained since is discarded as a stray. DEDUCED (log 81): a response with slice ID 0xFFF is taken on every class. -/
def receive (p : Packet) (s : State) : State :=
  if !(p.port = 31) && !(p.slice = 0xFFF) && (requesterOf s p).isNone then irq pgRTE 5 (s.bump pgRTE F.RTE_DROP_SLICE_COUNT)
  else
    match trackOf s p.tag with
    | none => strayResponse p s
    | some x =>
      if x.quar || !(x.offset = p.offset) then strayResponse p s
      else if x.use = 0 && decide (x.req ≠ mgmt) then strayResponse p (untrack x s)
      else endpointResult x (resOf p) (untrack x s)

/-- RESPONSE_RECEIVE (R345): the response at position k of the Rink reaches its endpoint on this chip. -/
def execResponseReceive (k : Nat) (s : State) : Host.Outcome State Fault Refusal :=
  liveP s fun s =>
    match s.rink[k]? with
    | none => s
    | some p =>
      if p.dst = s.chipNum && isResponse p then receive p { s with rink := s.rink.eraseIdx k } else s

/-- The effect of REMOTE_ACCESS_TIMEOUT out of reset (R354, R356). -/
def remoteAccessTimeoutEffect (tag : Nat) (s : State) : State :=
  match trackOf s tag with
  | none => s
  | some x =>
    if x.quar then untrack x s
    else
      endpointResult x .timeout
        { s with outst := s.outst.map fun y => if y.ep = x.ep && y.ctx = x.ctx then { y with quar := true, use := 0 } else y }

/-- REMOTE_ACCESS_TIMEOUT (R354, R356): the request of a tag times out, and its tag enters quarantine; or the quarantine of
a tag ends. -/
def execRemoteAccessTimeout (tag : Nat) (s : State) : Host.Outcome State Fault Refusal :=
  liveP s (remoteAccessTimeoutEffect tag)

/-- REFCLK_LNK_LOSS (R742): the link reference clock is lost, and every port is handled as a loss by R382; or it returns, and
the ports train again at their next retry. -/
def execRefclkLnkLoss (present : Bool) (s : State) : Host.Outcome State Fault Refusal :=
  let t := { s with chip := { s.chip with refLnk := present } }
  if s.chip.inReset then .next t
  else liveP t fun s =>
    if present then s else (List.range 24).foldl (fun s g => if portUp s g then portLost g 1 s else s) s

end Sys2Proof.Machine
end

