-- ==== Sys2Proof/Machine/Dispatch.lean ====
section
/-! DEFINITION. The dispatch of a command to its meaning: one arm per constructor. -/
namespace Sys2Proof.Machine
open Sys2Proof

/-- The effect of a command on everything but the queue. -/
def exec (i : Instr) (s : State) : Host.Outcome State Fault Refusal :=
  match i with
  | .registerWritePlain req a v => Sys2Proof.Machine.execRegisterWritePlain req a v s
  | .pageEnableWrite req pg v => Sys2Proof.Machine.execPageEnableWrite req pg v s
  | .pageQuiesceWrite req pg v => Sys2Proof.Machine.execPageQuiesceWrite req pg v s
  | .blockQuiesced pg => Sys2Proof.Machine.execBlockQuiesced pg s
  | .irqPendingClear req pg v => Sys2Proof.Machine.execIrqPendingClear req pg v s
  | .irqForce req pg v => Sys2Proof.Machine.execIrqForce req pg v s
  | .snapRelease req pg v => Sys2Proof.Machine.execSnapRelease req pg v s
  | .pageOwnerWrite req pg v => Sys2Proof.Machine.execPageOwnerWrite req pg v s
  | .pageLockSet req pg v => Sys2Proof.Machine.execPageLockSet req pg v s
  | .pageFaultClear req pg v => Sys2Proof.Machine.execPageFaultClear req pg v s
  | .lopCmdInvalid req pg v => Sys2Proof.Machine.execLopCmdInvalid req pg v s
  | .lopStartUnknownOp req pg op => Sys2Proof.Machine.execLopStartUnknownOp req pg op s
  | .lopSuspend req pg => Sys2Proof.Machine.execLopSuspend req pg s
  | .lopResume req pg => Sys2Proof.Machine.execLopResume req pg s
  | .lopCancel req pg => Sys2Proof.Machine.execLopCancel req pg s
  | .pwrOkRise testEn loc => Sys2Proof.Machine.execPwrOkRise testEn loc s
  | .pwrOkFall => Sys2Proof.Machine.execPwrOkFall s
  | .resetNAssert us => Sys2Proof.Machine.execResetNAssert us s
  | .resetCmdWarm req v => Sys2Proof.Machine.execResetCmdWarm req v s
  | .resetCmdCold req v => Sys2Proof.Machine.execResetCmdCold req v s
  | .perstNAssert => Sys2Proof.Machine.execPerstNAssert s
  | .perstNRelease => Sys2Proof.Machine.execPerstNRelease s
  | .watchdogExpire => Sys2Proof.Machine.execWatchdogExpire s
  | .wdogKick req v => Sys2Proof.Machine.execWdogKick req v s
  | .resetReqReceive src tc => Sys2Proof.Machine.execResetReqReceive src tc s
  | .resetRelease fatalWithin60s => Sys2Proof.Machine.execResetRelease fatalWithin60s s
  | .bootTaskComplete k => Sys2Proof.Machine.execBootTaskComplete k s
  | .seqImageAck t crc => Sys2Proof.Machine.execSeqImageAck t crc s
  | .seqAckTimeout t => Sys2Proof.Machine.execSeqAckTimeout t s
  | .topoWaitExpire => Sys2Proof.Machine.execTopoWaitExpire s
  | .tileBistStart req => Sys2Proof.Machine.execTileBistStart req s
  | .tileBistBatchDone failed => Sys2Proof.Machine.execTileBistBatchDone failed s
  | .tileImageReloadDone => Sys2Proof.Machine.execTileImageReloadDone s
  | .mgcEthLinkChange up => Sys2Proof.Machine.execMgcEthLinkChange up s
  | .mgcCntClr req v => Sys2Proof.Machine.execMgcCntClr req v s
  | .flashWriteStart req => Sys2Proof.Machine.execFlashWriteStart req s
  | .flashEraseStart req => Sys2Proof.Machine.execFlashEraseStart req s
  | .flashWinPush req v => Sys2Proof.Machine.execFlashWinPush req v s
  | .flashUnitDone ok => Sys2Proof.Machine.execFlashUnitDone ok s
  | .flashDeviceTimeout k => Sys2Proof.Machine.execFlashDeviceTimeout k s
  | .bootVerifyStart req => Sys2Proof.Machine.execBootVerifyStart req s
  | .bootVerifyUnitDone ok => Sys2Proof.Machine.execBootVerifyUnitDone ok s
  | .bootActivateStart req => Sys2Proof.Machine.execBootActivateStart req s
  | .bootConfirmStart req => Sys2Proof.Machine.execBootConfirmStart req s
  | .bootRecordCopyWritten ok => Sys2Proof.Machine.execBootRecordCopyWritten ok s
  | .licInstallStart req => Sys2Proof.Machine.execLicInstallStart req s
  | .licInstallStepDone ok => Sys2Proof.Machine.execLicInstallStepDone ok s
  | .pwrTargetWrite req v => Sys2Proof.Machine.execPwrTargetWrite req v s
  | .ladderDrainComplete => Sys2Proof.Machine.execLadderDrainComplete s
  | .ladderDrainTimeout => Sys2Proof.Machine.execLadderDrainTimeout s
  | .hbmSrConfirmTimeout => Sys2Proof.Machine.execHbmSrConfirmTimeout s
  | .ladderEntryComplete => Sys2Proof.Machine.execLadderEntryComplete s
  | .wakeMetReached => Sys2Proof.Machine.execWakeMetReached s
  | .ladderExitComplete => Sys2Proof.Machine.execLadderExitComplete s
  | .redescendExpire => Sys2Proof.Machine.execRedescendExpire s
  | .pwrOppWrite req v => Sys2Proof.Machine.execPwrOppWrite req v s
  | .oppSettled => Sys2Proof.Machine.execOppSettled s
  | .avsNak => Sys2Proof.Machine.execAvsNak s
  | .oppSettleTimeout => Sys2Proof.Machine.execOppSettleTimeout s
  | .avsTelemetryPoll mv cur => Sys2Proof.Machine.execAvsTelemetryPoll mv cur s
  | .restRequest req v => Sys2Proof.Machine.execRestRequest req v s
  | .restEndRequest req v => Sys2Proof.Machine.execRestEndRequest req v s
  | .restAckReceive => Sys2Proof.Machine.execRestAckReceive s
  | .restTimeout => Sys2Proof.Machine.execRestTimeout s
  | .restEndConfirm => Sys2Proof.Machine.execRestEndConfirm s
  | .restTransitWrite on => Sys2Proof.Machine.execRestTransitWrite on s
  | .thermalSample ts hbm => Sys2Proof.Machine.execThermalSample ts hbm s
  | .pvtClearSeen req v => Sys2Proof.Machine.execPvtClearSeen req v s
  | .paceWindowEnd tb => Sys2Proof.Machine.execPaceWindowEnd tb s
  | .paceClearSeen req v => Sys2Proof.Machine.execPaceClearSeen req v s
  | .tileGo req t v => Sys2Proof.Machine.execTileGo req t v s
  | .tileAbort req t v => Sys2Proof.Machine.execTileAbort req t v s
  | .tileRowFetch t => Sys2Proof.Machine.execTileRowFetch t s
  | .engineCommandComplete t e => Sys2Proof.Machine.execEngineCommandComplete t e s
  | .tileQueuesEmpty t => Sys2Proof.Machine.execTileQueuesEmpty t s
  | .tileCounterWrite req t c v => Sys2Proof.Machine.execTileCounterWrite req t c v s
  | .tileScalarWrite req t off v => Sys2Proof.Machine.execTileScalarWrite req t off v s
  | .tileWaitTimeout t => Sys2Proof.Machine.execTileWaitTimeout t s
  | .tilePerfClear req t v => Sys2Proof.Machine.execTilePerfClear req t v s
  | .tileSramEccClear req t v => Sys2Proof.Machine.execTileSramEccClear req t v s
  | .tileEccInject req t v => Sys2Proof.Machine.execTileEccInject req t v s
  | .counterSignalReceive k => Sys2Proof.Machine.execCounterSignalReceive k s
  | .scNop t => Sys2Proof.Machine.execScNop t s
  | .scEnd t => Sys2Proof.Machine.execScEnd t s
  | .scJump t => Sys2Proof.Machine.execScJump t s
  | .scLoop t => Sys2Proof.Machine.execScLoop t s
  | .scBrs t => Sys2Proof.Machine.execScBrs t s
  | .scBreak t => Sys2Proof.Machine.execScBreak t s
  | .scWaitMet t => Sys2Proof.Machine.execScWaitMet t s
  | .scCset t => Sys2Proof.Machine.execScCset t s
  | .scCadd t => Sys2Proof.Machine.execScCadd t s
  | .scSli t => Sys2Proof.Machine.execScSli t s
  | .scSaddi t => Sys2Proof.Machine.execScSaddi t s
  | .scSalu t => Sys2Proof.Machine.execScSalu t s
  | .scSget t => Sys2Proof.Machine.execScSget t s
  | .scLset t => Sys2Proof.Machine.execScLset t s
  | .scDmaGet t => Sys2Proof.Machine.execScDmaGet t s
  | .scDmaPut t => Sys2Proof.Machine.execScDmaPut t s
  | .scStoreImm t => Sys2Proof.Machine.execScStoreImm t s
  | .scAtomic t => Sys2Proof.Machine.execScAtomic t s
  | .scMxuStage t => Sys2Proof.Machine.execScMxuStage t s
  | .scMxuMma t => Sys2Proof.Machine.execScMxuMma t s
  | .scMxuDrain t => Sys2Proof.Machine.execScMxuDrain t s
  | .scVop t => Sys2Proof.Machine.execScVop t s
  | .scVred t => Sys2Proof.Machine.execScVred t s
  | .scVfuse t => Sys2Proof.Machine.execScVfuse t s
  | .scVrms t => Sys2Proof.Machine.execScVrms t s
  | .scVsmax1 t => Sys2Proof.Machine.execScVsmax1 t s
  | .scVsmax2 t => Sys2Proof.Machine.execScVsmax2 t s
  | .mcuAccess n ix lane err => Sys2Proof.Machine.execMcuAccess n ix lane err s
  | .mcuAutoRepairStart n => Sys2Proof.Machine.execMcuAutoRepairStart n s
  | .patrolUnit n => Sys2Proof.Machine.execPatrolUnit n s
  | .mcuPcLost n ix => Sys2Proof.Machine.execMcuPcLost n ix s
  | .mcuInitStart req n => Sys2Proof.Machine.execMcuInitStart req n s
  | .mcuInitPcTrained n ok => Sys2Proof.Machine.execMcuInitPcTrained n ok s
  | .mcuScrubStart req n => Sys2Proof.Machine.execMcuScrubStart req n s
  | .mcuScrubUnitDone n => Sys2Proof.Machine.execMcuScrubUnitDone n s
  | .mcuRetrainStart req n => Sys2Proof.Machine.execMcuRetrainStart req n s
  | .mcuRetrainVblankReady n late => Sys2Proof.Machine.execMcuRetrainVblankReady n late s
  | .mcuRetrainDone n => Sys2Proof.Machine.execMcuRetrainDone n s
  | .mcuRetrainPauseTimeout n => Sys2Proof.Machine.execMcuRetrainPauseTimeout n s
  | .mcuEccClear req n v => Sys2Proof.Machine.execMcuEccClear req n v s
  | .mcuInject req n v => Sys2Proof.Machine.execMcuInject req n v s
  | .memqImapWrite req hi v => Sys2Proof.Machine.execMemqImapWrite req hi v s
  | .memqResWrite req v => Sys2Proof.Machine.execMemqResWrite req v s
  | .memqWindowEnd n => Sys2Proof.Machine.execMemqWindowEnd n s
  | .memqHostAged n ix => Sys2Proof.Machine.execMemqHostAged n ix s
  | .requestDelivery k => Sys2Proof.Machine.execRequestDelivery k s
  | .responseReceive k => Sys2Proof.Machine.execResponseReceive k s
  | .remoteAccessTimeout tag => Sys2Proof.Machine.execRemoteAccessTimeout tag s
  | .lxPortEnable req n j v => Sys2Proof.Machine.execLxPortEnable req n j v s
  | .lxPortDisable req n j v => Sys2Proof.Machine.execLxPortDisable req n j v s
  | .lxSplitWrite req n v => Sys2Proof.Machine.execLxSplitWrite req n v s
  | .lxSplitApply n => Sys2Proof.Machine.execLxSplitApply n s
  | .lxRetrainStart req n => Sys2Proof.Machine.execLxRetrainStart req n s
  | .lxTrainingComplete g tx rx inv eq => Sys2Proof.Machine.execLxTrainingComplete g tx rx inv eq s
  | .lxTrainingFail g ok => Sys2Proof.Machine.execLxTrainingFail g ok s
  | .lxIdentReceive g p => Sys2Proof.Machine.execLxIdentReceive g p s
  | .lxIdentAckReceive g echo => Sys2Proof.Machine.execLxIdentAckReceive g echo s
  | .lxIdentResend g => Sys2Proof.Machine.execLxIdentResend g s
  | .lxCodewordReceive g c => Sys2Proof.Machine.execLxCodewordReceive g c s
  | .lxCwAck g n => Sys2Proof.Machine.execLxCwAck g n s
  | .lxCwNak g n => Sys2Proof.Machine.execLxCwNak g n s
  | .lxCwCredit g c n => Sys2Proof.Machine.execLxCwCredit g c n s
  | .lxCwReplay g n => Sys2Proof.Machine.execLxCwReplay g n s
  | .lxCwDropReq g ix => Sys2Proof.Machine.execLxCwDropReq g ix s
  | .lxCwAddReq g ix => Sys2Proof.Machine.execLxCwAddReq g ix s
  | .lxCwMap g ix add => Sys2Proof.Machine.execLxCwMap g ix add s
  | .lxCwTestStart g ix => Sys2Proof.Machine.execLxCwTestStart g ix s
  | .lxCwTestStop g ix => Sys2Proof.Machine.execLxCwTestStop g ix s
  | .lxCwSleep g hb => Sys2Proof.Machine.execLxCwSleep g hb s
  | .lxCwWakeReq g => Sys2Proof.Machine.execLxCwWakeReq g s
  | .lxCwAwake g => Sys2Proof.Machine.execLxCwAwake g s
  | .lxCwHeartbeat g => Sys2Proof.Machine.execLxCwHeartbeat g s
  | .lxAckTimer g => Sys2Proof.Machine.execLxAckTimer g s
  | .lxNakWaitTimeout g => Sys2Proof.Machine.execLxNakWaitTimeout g s
  | .lxPartnerLoss g => Sys2Proof.Machine.execLxPartnerLoss g s
  | .lxRetrainRetry g => Sys2Proof.Machine.execLxRetrainRetry g s
  | .lxLaneLockLoss n k => Sys2Proof.Machine.execLxLaneLockLoss n k s
  | .lxAutoLaneRetrainStart n => Sys2Proof.Machine.execLxAutoLaneRetrainStart n s
  | .lxLaneTrained n k ok => Sys2Proof.Machine.execLxLaneTrained n k ok s
  | .lxLaneTestStart req n => Sys2Proof.Machine.execLxLaneTestStart req n s
  | .lxLaneTestUnitDone n errs => Sys2Proof.Machine.execLxLaneTestUnitDone n errs s
  | .lxSleepBurst g => Sys2Proof.Machine.execLxSleepBurst g s
  | .lxRestNoteReceive g begin => Sys2Proof.Machine.execLxRestNoteReceive g begin s
  | .lxPartnerSignalReturn g => Sys2Proof.Machine.execLxPartnerSignalReturn g s
  | .lxLaneClr req n v => Sys2Proof.Machine.execLxLaneClr req n v s
  | .lxPclear req n j v => Sys2Proof.Machine.execLxPclear req n j v s
  | .egressEnqueue k => Sys2Proof.Machine.execEgressEnqueue k s
  | .linkSchedulerPick g => Sys2Proof.Machine.execLinkSchedulerPick g s
  | .ingressPolice g c => Sys2Proof.Machine.execIngressPolice g c s
  | .policerDelayRelease g c => Sys2Proof.Machine.execPolicerDelayRelease g c s
  | .tspClear req n v => Sys2Proof.Machine.execTspClear req n v s
  | .tspPclear req n j v => Sys2Proof.Machine.execTspPclear req n j v s
  | .rteZpeerWrite req z v => Sys2Proof.Machine.execRteZpeerWrite req z v s
  | .rteTableWrite req a v => Sys2Proof.Machine.execRteTableWrite req a v s
  | .rteCtxAlloc req v => Sys2Proof.Machine.execRteCtxAlloc req v s
  | .rteCtxFree req v => Sys2Proof.Machine.execRteCtxFree req v s
  | .rteCtxActiveWrite req c v => Sys2Proof.Machine.execRteCtxActiveWrite req c v s
  | .rteSettleEnd g => Sys2Proof.Machine.execRteSettleEnd g s
  | .rteCntClr req v => Sys2Proof.Machine.execRteCntClr req v s
  | .fabCandidateReceive g h => Sys2Proof.Machine.execFabCandidateReceive g h s
  | .fabElectTimeout => Sys2Proof.Machine.execFabElectTimeout s
  | .fabBeatReceive g h dep leaders => Sys2Proof.Machine.execFabBeatReceive g h dep leaders s
  | .fabBeatTimer => Sys2Proof.Machine.execFabBeatTimer s
  | .fabConductorLoss => Sys2Proof.Machine.execFabConductorLoss s
  | .fabDeputyLoss => Sys2Proof.Machine.execFabDeputyLoss s
  | .fabJoinTimer => Sys2Proof.Machine.execFabJoinTimer s
  | .fabJoinReceive g h scale slices => Sys2Proof.Machine.execFabJoinReceive g h scale slices s
  | .fabGroupBeatLoss => Sys2Proof.Machine.execFabGroupBeatLoss s
  | .fabEventReceive h e => Sys2Proof.Machine.execFabEventReceive h e s
  | .fabOrderReceive h o => Sys2Proof.Machine.execFabOrderReceive h o s
  | .fabOrderAckReceive h => Sys2Proof.Machine.execFabOrderAckReceive h s
  | .fabMirrorReceive h m => Sys2Proof.Machine.execFabMirrorReceive h m s
  | .fabMbxQuery req v => Sys2Proof.Machine.execFabMbxQuery req v s
  | .fabMbxChangeover req v => Sys2Proof.Machine.execFabMbxChangeover req v s
  | .fabMbxCancel req v => Sys2Proof.Machine.execFabMbxCancel req v s
  | .fabMbxAdmit req v => Sys2Proof.Machine.execFabMbxAdmit req v s
  | .fabMbxResetChip req v => Sys2Proof.Machine.execFabMbxResetChip req v s
  | .fabMbxRecircuit req v => Sys2Proof.Machine.execFabMbxRecircuit req v s
  | .fabMbxUnknown req v => Sys2Proof.Machine.execFabMbxUnknown req v s
  | .fabMbxAnswer tag result detail => Sys2Proof.Machine.execFabMbxAnswer tag result detail s
  | .fabSwitchReply sw seq term statuses => Sys2Proof.Machine.execFabSwitchReply sw seq term statuses s
  | .fabSwitchAckTimeout sw => Sys2Proof.Machine.execFabSwitchAckTimeout sw s
  | .fabSwitchSettleEnd => Sys2Proof.Machine.execFabSwitchSettleEnd s
  | .fabStepLimitTimeout chip => Sys2Proof.Machine.execFabStepLimitTimeout chip s
  | .fabNoConductorTimeout => Sys2Proof.Machine.execFabNoConductorTimeout s
  | .fabRecircuitTimer => Sys2Proof.Machine.execFabRecircuitTimer s
  | .fabRecomputeDone us => Sys2Proof.Machine.execFabRecomputeDone us s
  | .fabCntClr req v => Sys2Proof.Machine.execFabCntClr req v s
  | .metBeaconSend => Sys2Proof.Machine.execMetBeaconSend s
  | .metBeaconReceive g p => Sys2Proof.Machine.execMetBeaconReceive g p s
  | .metRootLoss => Sys2Proof.Machine.execMetRootLoss s
  | .metHoldoverExpire => Sys2Proof.Machine.execMetHoldoverExpire s
  | .metNowRead req => Sys2Proof.Machine.execMetNowRead req s
  | .metCntClr req v => Sys2Proof.Machine.execMetCntClr req v s
  | .snpFire req v => Sys2Proof.Machine.execSnpFire req v s
  | .snpReleaseAll req v => Sys2Proof.Machine.execSnpReleaseAll req v s
  | .snpReleaseMachine req v => Sys2Proof.Machine.execSnpReleaseMachine req v s
  | .snpArm req v => Sys2Proof.Machine.execSnpArm req v s
  | .snpDisarm req v => Sys2Proof.Machine.execSnpDisarm req v s
  | .snpInEdge => Sys2Proof.Machine.execSnpInEdge s
  | .snpDownbeatReceive p => Sys2Proof.Machine.execSnpDownbeatReceive p s
  | .snpReleaseReceive p => Sys2Proof.Machine.execSnpReleaseReceive p s
  | .snpLatch => Sys2Proof.Machine.execSnpLatch s
  | .snpCntClr req v => Sys2Proof.Machine.execSnpCntClr req v s
  | .dhPllLocked n => Sys2Proof.Machine.execDhPllLocked n s
  | .dhFrameBoundary n => Sys2Proof.Machine.execDhFrameBoundary n s
  | .dhVblankStart n => Sys2Proof.Machine.execDhVblankStart n s
  | .dhLineFetchStart n a => Sys2Proof.Machine.execDhLineFetchStart n a s
  | .dhLineUnitsGrant => Sys2Proof.Machine.execDhLineUnitsGrant s
  | .dhLineDeadline n a => Sys2Proof.Machine.execDhLineDeadline n a s
  | .dhLineScanout n a k => Sys2Proof.Machine.execDhLineScanout n a k s
  | .dhHeadokRearm req n v => Sys2Proof.Machine.execDhHeadokRearm req n v s
  | .dhCntClr req n v => Sys2Proof.Machine.execDhCntClr req n v s
  | .genlockPulse falling ns => Sys2Proof.Machine.execGenlockPulse falling ns s
  | .genlockMetInstant n => Sys2Proof.Machine.execGenlockMetInstant n s
  | .genlockMissTimeout n => Sys2Proof.Machine.execGenlockMissTimeout n s
  | .dptxHpdRise n us => Sys2Proof.Machine.execDptxHpdRise n us s
  | .dptxHpdUnplug n => Sys2Proof.Machine.execDptxHpdUnplug n s
  | .dptxHpdSettled n rate lanes uhbr dsc => Sys2Proof.Machine.execDptxHpdSettled n rate lanes uhbr dsc s
  | .dptxTrainDone n lv => Sys2Proof.Machine.execDptxTrainDone n lv s
  | .dptxTrainTimeout n => Sys2Proof.Machine.execDptxTrainTimeout n s
  | .dptxTrainRetry n => Sys2Proof.Machine.execDptxTrainRetry n s
  | .dptxStatusPoll n ok => Sys2Proof.Machine.execDptxStatusPoll n ok s
  | .dptxRetrainReq req n v => Sys2Proof.Machine.execDptxRetrainReq req n v s
  | .auxNativeRead req n v => Sys2Proof.Machine.execAuxNativeRead req n v s
  | .auxNativeWrite req n v => Sys2Proof.Machine.execAuxNativeWrite req n v s
  | .auxI2cRead req n v => Sys2Proof.Machine.execAuxI2cRead req n v s
  | .auxI2cWrite req n v => Sys2Proof.Machine.execAuxI2cWrite req n v s
  | .dptxAuxReply n reply bs => Sys2Proof.Machine.execDptxAuxReply n reply bs s
  | .dptxAuxTimeout n => Sys2Proof.Machine.execDptxAuxTimeout n s
  | .dptxCntClr req n v => Sys2Proof.Machine.execDptxCntClr req n v s
  | .cmtCommitGo req n v => Sys2Proof.Machine.execCmtCommitGo req n v s
  | .cmtRecordFetched n => Sys2Proof.Machine.execCmtRecordFetched n s
  | .cmtRecordTimeout n => Sys2Proof.Machine.execCmtRecordTimeout n s
  | .cmtCommitCancel req n v => Sys2Proof.Machine.execCmtCommitCancel req n v s
  | .cmtFenceAlloc req v => Sys2Proof.Machine.execCmtFenceAlloc req v s
  | .cmtFenceFree req v => Sys2Proof.Machine.execCmtFenceFree req v s
  | .cmtFenceSet req ix v => Sys2Proof.Machine.execCmtFenceSet req ix v s
  | .cmtFenceMax req ix v => Sys2Proof.Machine.execCmtFenceMax req ix v s
  | .cmtCntClr req v => Sys2Proof.Machine.execCmtCntClr req v s
  | .protWinWrite req n v => Sys2Proof.Machine.execProtWinWrite req n v s
  | .protLoadStart req n v => Sys2Proof.Machine.execProtLoadStart req n v s
  | .protLoadDone n => Sys2Proof.Machine.execProtLoadDone n s
  | .protApply req n v => Sys2Proof.Machine.execProtApply req n v s
  | .sigApply req n v => Sys2Proof.Machine.execSigApply req n v s
  | .sigRegionCheck n ix => Sys2Proof.Machine.execSigRegionCheck n ix s
  | .sigCntClr req n v => Sys2Proof.Machine.execSigCntClr req n v s
  | .blitStart req => Sys2Proof.Machine.execBlitStart req s
  | .bltLineComplete => Sys2Proof.Machine.execBltLineComplete s
  | .bltSignalResponse => Sys2Proof.Machine.execBltSignalResponse s
  | .bltCntClr req v => Sys2Proof.Machine.execBltCntClr req v s
  | .csiFrameStart n ecc num => Sys2Proof.Machine.execCsiFrameStart n ecc num s
  | .csiFrameEnd n ecc => Sys2Proof.Machine.execCsiFrameEnd n ecc s
  | .csiLinePacket n ecc crcOk px => Sys2Proof.Machine.execCsiLinePacket n ecc crcOk px s
  | .csiEmbeddedPacket n ecc crcOk bs => Sys2Proof.Machine.execCsiEmbeddedPacket n ecc crcOk bs s
  | .csiPacketOther n ecc vc dt => Sys2Proof.Machine.execCsiPacketOther n ecc vc dt s
  | .csiLaneFault n lane => Sys2Proof.Machine.execCsiLaneFault n lane s
  | .ispLineProcessed n => Sys2Proof.Machine.execIspLineProcessed n s
  | .ispFrameWritesComplete n => Sys2Proof.Machine.execIspFrameWritesComplete n s
  | .ispRecordComplete n => Sys2Proof.Machine.execIspRecordComplete n s
  | .ispApply req n v => Sys2Proof.Machine.execIspApply req n v s
  | .camTrigRise n => Sys2Proof.Machine.execCamTrigRise n s
  | .camTrigFall n => Sys2Proof.Machine.execCamTrigFall n s
  | .csiCntClr req n v => Sys2Proof.Machine.execCsiCntClr req n v s
  | .ispCntClr req n v => Sys2Proof.Machine.execIspCntClr req n v s
  | .pcieLinkUp speed flit => Sys2Proof.Machine.execPcieLinkUp speed flit s
  | .pcieSpeedRecovery speed => Sys2Proof.Machine.execPcieSpeedRecovery speed s
  | .pcieLinkDown => Sys2Proof.Machine.execPcieLinkDown s
  | .pcieConfigRequest fn tag c => Sys2Proof.Machine.execPcieConfigRequest fn tag c s
  | .hostApertureRead fn tag o len => Sys2Proof.Machine.execHostApertureRead fn tag o len s
  | .hostApertureWrite fn o ep bs => Sys2Proof.Machine.execHostApertureWrite fn o ep bs s
  | .hqQueueEnable req q v => Sys2Proof.Machine.execHqQueueEnable req q v s
  | .hqClaim fn tag q n => Sys2Proof.Machine.execHqClaim fn tag q n s
  | .hqRing fn q => Sys2Proof.Machine.execHqRing fn q s
  | .hqCmdNop q w => Sys2Proof.Machine.execHqCmdNop q w s
  | .hqCmdCopy q w => Sys2Proof.Machine.execHqCmdCopy q w s
  | .hqCmdSignal q w => Sys2Proof.Machine.execHqCmdSignal q w s
  | .hqCmdWrite q w => Sys2Proof.Machine.execHqCmdWrite q w s
  | .hqCmdComplete q => Sys2Proof.Machine.execHqCmdComplete q s
  | .hqCqHeadWrite fn q v => Sys2Proof.Machine.execHqCqHeadWrite fn q v s
  | .msixModerationEnd fn v => Sys2Proof.Machine.execMsixModerationEnd fn v s
  | .streamFlushTimeout k => Sys2Proof.Machine.execStreamFlushTimeout k s
  | .streamPagePublish k ok => Sys2Proof.Machine.execStreamPagePublish k ok s
  | .streamTelemetrySample => Sys2Proof.Machine.execStreamTelemetrySample s
  | .streamTraceRecord typ bs => Sys2Proof.Machine.execStreamTraceRecord typ bs s
  | .streamEnable req k v => Sys2Proof.Machine.execStreamEnable req k v s
  | .streamHeadWrite req k v => Sys2Proof.Machine.execStreamHeadWrite req k v s
  | .vfFlr fn => Sys2Proof.Machine.execVfFlr fn s
  | .vfFlrComplete fn => Sys2Proof.Machine.execVfFlrComplete fn s
  | .fnClear fn v => Sys2Proof.Machine.execFnClear fn v s
  | .hifCntClr req v => Sys2Proof.Machine.execHifCntClr req v s
  | .partCreate req v => Sys2Proof.Machine.execPartCreate req v s
  | .partAssign req v => Sys2Proof.Machine.execPartAssign req v s
  | .partAutoDrainStart => Sys2Proof.Machine.execPartAutoDrainStart s
  | .drainScrubStart req => Sys2Proof.Machine.execDrainScrubStart req s
  | .partDrainPhaseComplete => Sys2Proof.Machine.execPartDrainPhaseComplete s
  | .partScrubUnitDone => Sys2Proof.Machine.execPartScrubUnitDone s
  | .partCntClr req v => Sys2Proof.Machine.execPartCntClr req v s
  | .eventRaise page code d0 d1 d2 charge => Sys2Proof.Machine.execEventRaise page code d0 d1 d2 charge s
  | .evlEventAccept => Sys2Proof.Machine.execEvlEventAccept s
  | .evlLogRelease req l v => Sys2Proof.Machine.execEvlLogRelease req l v s
  | .evlLogClear req l v => Sys2Proof.Machine.execEvlLogClear req l v s
  | .evlReadSelect req v => Sys2Proof.Machine.execEvlReadSelect req v s
  | .errInject req v => Sys2Proof.Machine.execErrInject req v s
  | .errCntClr req v => Sys2Proof.Machine.execErrCntClr req v s
  | .refclkSysLoss present => Sys2Proof.Machine.execRefclkSysLoss present s
  | .refclkLnkLoss present => Sys2Proof.Machine.execRefclkLnkLoss present s
  | .pcieRefclkLoss present => Sys2Proof.Machine.execPcieRefclkLoss present s
  | .smbReadChipId => Sys2Proof.Machine.execSmbReadChipId s
  | .smbReadChipStep => Sys2Proof.Machine.execSmbReadChipStep s
  | .smbReadBootStatus => Sys2Proof.Machine.execSmbReadBootStatus s
  | .smbReadTj => Sys2Proof.Machine.execSmbReadTj s
  | .smbReadPwrStatus => Sys2Proof.Machine.execSmbReadPwrStatus s
  | .smbReadChipNum => Sys2Proof.Machine.execSmbReadChipNum s
  | .smbOther => Sys2Proof.Machine.execSmbOther s
  | .jtagBypass => Sys2Proof.Machine.execJtagBypass s
  | .jtagIdcode => Sys2Proof.Machine.execJtagIdcode s
  | .jtagSamplePreload pins => Sys2Proof.Machine.execJtagSamplePreload pins s
  | .jtagExtest pins => Sys2Proof.Machine.execJtagExtest pins s
  | .pcieTrainingFail => Sys2Proof.Machine.execPcieTrainingFail s
  | .hostReadCompletion q num o status bs => Sys2Proof.Machine.execHostReadCompletion q num o status bs s
  | .ethFrameReceive bad noBuffer => Sys2Proof.Machine.execEthFrameReceive bad noBuffer s
  | .supplyToleranceDetect low => Sys2Proof.Machine.execSupplyToleranceDetect low s
  | .csiClockLaneChange n on => Sys2Proof.Machine.execCsiClockLaneChange n on s
  | .snapOutFall => Sys2Proof.Machine.execSnapOutFall s

end Sys2Proof.Machine
end

