-- ==== Sys2Proof/Machine/Tick.lean ====
section
/-! DEFINITION. What the block does at a tick of its clock when no command waits. -/
namespace Sys2Proof.Machine

/-- The Metronome counts one tick (17 R486); while it freezes, the count stays until the root's tick is reached, and the
state returns to ACQUIRING (R493). -/
def countTick (s : State) : State :=
  if s.metState = metSETTLING then
    if s.sync.freeze ≤ 1 then metEnter metACQUIRING { s with sync := { s.sync with freeze := 0 } }
    else { s with sync := { s.sync with freeze := s.sync.freeze - 1 } }
  else { s with met := (s.met + 1) % 2 ^ 64 }

/-- In a HOLDOVER entered from LOCKED the published bound grows by 1 ns at the start of each millisecond (R495). -/
def growBound (s : State) : State :=
  if s.metState = metHOLDOVER && s.sync.hoLocked && (s.ticks - s.sync.hoTick) % 1000000 = 1 then
    s.wr pgMET F.MET_ERR_BOUND_NS (min 0xFFFE (s.rd pgMET F.MET_ERR_BOUND_NS + 1))
  else s

/-- What other commands left to the fabric manager is carried on. -/
def fabTick (s : State) : State :=
  if s.fab.out.isEmpty && s.fab.mail.isEmpty && s.fab.pend.isEmpty then s else fabDo id s

/-- One tick; in reset the Metronome does not count. -/
def tick (s : State) : State :=
  if s.chip.inReset then s else fabTick (growBound (countTick { s with ticks := s.ticks + 1 }))

end Sys2Proof.Machine
end

