-- ==== Sys2Proof/WellFormed.lean ====
section
/-! DEFINITION. Well-formed commands: every operand lies in the range the spec gives it. -/
namespace Sys2Proof

/-- A requester number of R89: a partition 0-31, or the management domain. -/
def reqOk (r : Nat) : Bool := decide (r < 32) || decide (r = mgmt)
/-- A word offset inside the register window (R70). -/
def waddrOk (a : Nat) : Bool := decide (a < 0x1000000) && decide (a % 4 = 0)
/-- A word of the register window, of a function block or of an MSI-X table (R70, R645, R655). -/
def paddrOk (a : Nat) : Bool :=
  decide (a % 4 = 0) &&
  (decide (a < 0x1000000) || decide (0x1000000 ≤ a) && decide (a < 0x1021000) || decide (0x1100000 ≤ a) && decide (a < 0x1121000))
/-- A return tag (R345). -/
def rtagOk (t : Nat) : Bool := decide (t < 0x100000)
/-- The window offset of a page (Table 3.1). -/
def pageOk (a : Nat) : Bool := decide (a < 0x1000000) && decide (a % 0x1000 = 0)
/-- A byte. -/
def byteOk (a : Nat) : Bool := decide (a < 256)
/-- A tile number. -/
def tileOk (t : Nat) : Bool := decide (t < 2560)
/-- An index below 2. -/
def lt2 (n : Nat) : Bool := decide (n < 2)
/-- An index below 3. -/
def lt3 (n : Nat) : Bool := decide (n < 3)
/-- An index below 4: a port of a link, a head, a pipeline. -/
def lt4 (n : Nat) : Bool := decide (n < 4)
/-- An index below 8: an MCU, a traffic class. -/
def lt8 (n : Nat) : Bool := decide (n < 8)
/-- An index below 7: a link rate of a DisplayPort. -/
def lt7 (n : Nat) : Bool := decide (n < 7)
/-- An index below 16: a signature region. -/
def lt16 (n : Nat) : Bool := decide (n < 16)
/-- An index below 64: a fence slot. -/
def lt64 (n : Nat) : Bool := decide (n < 64)
/-- An index below 32: a lane of a link, a partition. -/
def lt32 (n : Nat) : Bool := decide (n < 32)
/-- A link number 0-5. -/
def linkOk (n : Nat) : Bool := decide (n < 6)
/-- A port number 0-23 of the chip. -/
def gportOk (n : Nat) : Bool := decide (n < 24)
/-- A pseudo-channel of a stack. -/
def pcOk (n : Nat) : Bool := decide (n < 64)
/-- A PCIe function: 0 the PF, k + 1 the VF k. -/
def fnOk (n : Nat) : Bool := decide (n < 33)
/-- A host queue. -/
def queueOk (n : Nat) : Bool := decide (n < 64)
/-- A chip number of 13 bits. -/
def chipOk (n : Nat) : Bool := decide (n < 0x2000)
/-- A 16-bit code. -/
def halfOk (n : Nat) : Bool := decide (n < 0x10000)
/-- A page number as an event entry names it: a page of the window, or 0xFFF for none (Table 24.3). -/
def epageOk (n : Nat) : Bool := decide (n ≤ 0xFFF)
/-- The header fields of a packet lie in the widths of Table 12.1. -/
def pktOk (p : Packet) : Bool :=
  decide (p.dst < 0x2000) && decide (p.src < 0x2000) && decide (p.slice < 0x1000) && decide (p.tc < 8) &&
  decide (p.op < 64) && decide (p.len < 8) && decide (p.offset < 2 ^ 43) && decide (p.tag < 2 ^ 20) &&
  decide (p.words < 128) && reqOk p.req && decide (p.port < 32)
/-- The stacks and tiles a boot task reports on exist. -/
def bootTaskOk : BootTask → Bool
  | .hbm r _ => decide (r.length = 8) && r.all fun x => decide (x.1 < 256) && decide (x.2 < 256)
  | .bist f => f.all tileOk
  | _ => true
/-- A list of tiles. -/
def tilesOk (l : List Nat) : Bool := l.all tileOk
/-- A temperature in units of 0.125 °C in 16 bits (R201). -/
def tempOk (t : Int) : Bool := decide (-32768 ≤ t) && decide (t < 32768)
/-- The readings of the 48 sensors. -/
def temps48Ok (l : List Int) : Bool := decide (l.length = 48) && l.all tempOk
/-- The temperatures of the 8 stacks. -/
def temps8Ok (l : List Int) : Bool := decide (l.length = 8) && l.all tempOk
/-- The beat times of the 160 clusters in ps. -/
def tb160Ok (l : List Nat) : Bool := decide (l.length = 160) && l.all halfOk

/-- The page offset of a word of S0-S15, LC0-LC3 or RNG_SEED of a TILE page (Table 7.7). -/
def scalarOff (o : Nat) : Bool :=
  o % 4 = 0 && ((decide (0x180 ≤ o) && decide (o < 0x200)) || (decide (0x160 ≤ o) && decide (o < 0x170)) || o = 0x128 || o = 0x12C)
/-- A codeword has at most 15 corrected symbols of 544, a header of Table 13.4 and ten slots of 64 bytes. -/
def cwOk (c : Codeword) : Bool :=
  decide (c.sym.length ≤ 15) && c.sym.all (fun n => decide (n < 544)) && decide (c.kind < 8) && decide (c.arg < 4096) &&
  decide (c.aux < 16) && decide (c.slots.length = 10) && c.slots.all fun f => decide (f.length = 64)
/-- A number of 12 bits. -/
def seqOk (n : Nat) : Bool := decide (n < 4096)
/-- The flits a CREDIT item returns. -/
def flitsOk (n : Nat) : Bool := decide (1 ≤ n) && decide (n ≤ 4096)
/-- A HB_NS of 10 bits. -/
def hbOk (n : Nat) : Bool := decide (n < 1024)
/-- Trained equalisers of the 32 lanes. -/
def eqsOk (l : List Word) : Bool := decide (l.length = 32)
/-- The fields of a fabric header lie in their widths. -/
def fhdrOk (h : FabHdr) : Bool :=
  decide (h.src < 0x2000) && decide (h.term < 2 ^ 32) && decide (h.seq < 2 ^ 32) && decide (h.key < 2 ^ 21)
/-- The ports and codes an EVENT names exist. -/
def feventOk : FabEvent → Bool
  | .portDown p => gportOk p
  | .portUp p => gportOk p
  | .laneDrop p l => gportOk p && decide (l ≤ 32)
  | .stepDone n => decide (n < 8)
  | .stepFail r => decide (r < 256)
  | .slLost c => chipOk c
  | .mailbox c t a _ => decide (c < 256) && decide (t < 0x10000) && decide (a.length = 4)
  | _ => true
/-- The ports, chips and slices an ORDER names exist. -/
def forderOk : FabOrder → Bool
  | .drain s => decide (s < 0x1000)
  | .retrain p => gportOk p
  | .leader c => chipOk c
  | .localTables s m => decide (s < 0x1000) && m.all fun x => chipOk x.1 && decide (x.2 < 32)
  | .admitPort p _ => gportOk p
  | .restAnswer _ r => decide (r < 256)
  | .answer t r d => decide (t < 0x10000) && decide (r < 256) && decide (d < 2 ^ 32)
  | _ => true
/-- The contexts a JOIN lists: number, slice and chips. -/
def jslicesOk (l : List (Nat × Nat × List Nat)) : Bool :=
  l.all fun x => decide (x.1 < 32) && decide (x.2.1 < 0x1000) && x.2.2.all chipOk
/-- The requests of a MIRROR come from chips, and its record names slices and chips. -/
def mirrorOk (m : FabMirror) : Bool :=
  (m.queue.all fun r => chipOk r.chip && decide (r.code < 256) && decide (r.tag < 0x10000)) &&
  (m.record.all fun a => decide (a.slice < 0x1000) && a.chips.all chipOk) &&
  (match m.run with | none => true | some r => chipOk r.req.chip && decide (r.step < 8))
/-- A reply's statuses, one per entry (Table 16.8b). -/
def statusesOk (l : List Nat) : Bool := decide (1 ≤ l.length) && decide (l.length ≤ 64) && l.all fun x => decide (x < 256)
/-- A switch number. -/
def switchOk (n : Nat) : Bool := decide (1 ≤ n) && decide (n ≤ 255)
/-- A word of 32 bits as a number. -/
def u32Ok (n : Nat) : Bool := decide (n < 2 ^ 32)
/-- A section leader of each group it lists: group and chip. -/
def leadersOk (l : List (Nat × Nat)) : Bool := l.all fun x => decide (x.1 < 256) && chipOk x.2
/-- A chip number, if any. -/
def optChipOk : Option Nat → Bool
  | none => true
  | some c => chipOk c
/-- The sixteen words of a host queue command. -/
def w16Ok (l : List Word) : Bool := decide (l.length = 16)
/-- CLAIM[n]. -/
def claimOk (n : Nat) : Bool := decide (1 ≤ n) && decide (n ≤ 8)
/-- An offset of 32 bits. -/
def off32Ok (n : Nat) : Bool := decide (n < 2 ^ 32)
/-- A trace record (R656): its length in bytes, header word included, is a multiple of 8, and it fits in a page. -/
def traceOk (bs : List Byte) : Bool := decide ((4 + bs.length) % 8 = 0) && decide (bs.length ≤ 4060)
/-- A configuration request names a register of the 4 KiB space, or at most 65,535 VFs. -/
def cfgOk : CfgReq → Bool
  | .read reg => decide (reg < 4096) && decide (reg % 4 = 0)
  | .numVfs n => halfOk n
  | .msix _ _ => true


/-- The operands of a command lie in the ranges the spec gives them. -/
def Instr.wf (i : Instr) : Bool :=
  match i with
  | .registerWritePlain req a _ => reqOk req && paddrOk a
  | .pageEnableWrite req pg _ => reqOk req && pageOk pg
  | .pageQuiesceWrite req pg _ => reqOk req && pageOk pg
  | .blockQuiesced pg => pageOk pg
  | .irqPendingClear req pg _ => reqOk req && pageOk pg
  | .irqForce req pg _ => reqOk req && pageOk pg
  | .snapRelease req pg _ => reqOk req && pageOk pg
  | .pageOwnerWrite req pg _ => reqOk req && pageOk pg
  | .pageLockSet req pg _ => reqOk req && pageOk pg
  | .pageFaultClear req pg _ => reqOk req && pageOk pg
  | .lopCmdInvalid req pg _ => reqOk req && pageOk pg
  | .lopStartUnknownOp req pg op => reqOk req && pageOk pg && byteOk op
  | .lopSuspend req pg => reqOk req && pageOk pg
  | .lopResume req pg => reqOk req && pageOk pg
  | .lopCancel req pg => reqOk req && pageOk pg
  | .pwrOkRise _ _ => true
  | .pwrOkFall => true
  | .resetNAssert _ => true
  | .resetCmdWarm req _ => reqOk req
  | .resetCmdCold req _ => reqOk req
  | .perstNAssert => true
  | .perstNRelease => true
  | .watchdogExpire => true
  | .wdogKick req _ => reqOk req
  | .resetReqReceive src tc => chipOk src && lt8 tc
  | .resetRelease _ => true
  | .bootTaskComplete k => bootTaskOk k
  | .seqImageAck t _ => tileOk t
  | .seqAckTimeout t => tileOk t
  | .topoWaitExpire => true
  | .tileBistStart req => reqOk req
  | .tileBistBatchDone failed => tilesOk failed
  | .tileImageReloadDone => true
  | .mgcEthLinkChange _ => true
  | .mgcCntClr req _ => reqOk req
  | .flashWriteStart req => reqOk req
  | .flashEraseStart req => reqOk req
  | .flashWinPush req _ => reqOk req
  | .flashUnitDone _ => true
  | .flashDeviceTimeout k => lt3 k
  | .bootVerifyStart req => reqOk req
  | .bootVerifyUnitDone _ => true
  | .bootActivateStart req => reqOk req
  | .bootConfirmStart req => reqOk req
  | .bootRecordCopyWritten _ => true
  | .licInstallStart req => reqOk req
  | .licInstallStepDone _ => true
  | .pwrTargetWrite req _ => reqOk req
  | .ladderDrainComplete => true
  | .ladderDrainTimeout => true
  | .hbmSrConfirmTimeout => true
  | .ladderEntryComplete => true
  | .wakeMetReached => true
  | .ladderExitComplete => true
  | .redescendExpire => true
  | .pwrOppWrite req _ => reqOk req
  | .oppSettled => true
  | .avsNak => true
  | .oppSettleTimeout => true
  | .avsTelemetryPoll mv cur => halfOk mv && halfOk cur
  | .restRequest req _ => reqOk req
  | .restEndRequest req _ => reqOk req
  | .restAckReceive => true
  | .restTimeout => true
  | .restEndConfirm => true
  | .restTransitWrite _ => true
  | .thermalSample ts hbm => temps48Ok ts && temps8Ok hbm
  | .pvtClearSeen req _ => reqOk req
  | .paceWindowEnd tb => tb160Ok tb
  | .paceClearSeen req _ => reqOk req
  | .tileGo req t _ => reqOk req && tileOk t
  | .tileAbort req t _ => reqOk req && tileOk t
  | .tileRowFetch t => tileOk t
  | .engineCommandComplete t _ => tileOk t
  | .tileQueuesEmpty t => tileOk t
  | .tileCounterWrite req t c _ => reqOk req && tileOk t && lt8 c
  | .tileScalarWrite req t off _ => reqOk req && tileOk t && scalarOff off
  | .tileWaitTimeout t => tileOk t
  | .tilePerfClear req t _ => reqOk req && tileOk t
  | .tileSramEccClear req t _ => reqOk req && tileOk t
  | .tileEccInject req t _ => reqOk req && tileOk t
  | .counterSignalReceive _ => true
  | .scNop t => tileOk t
  | .scEnd t => tileOk t
  | .scJump t => tileOk t
  | .scLoop t => tileOk t
  | .scBrs t => tileOk t
  | .scBreak t => tileOk t
  | .scWaitMet t => tileOk t
  | .scCset t => tileOk t
  | .scCadd t => tileOk t
  | .scSli t => tileOk t
  | .scSaddi t => tileOk t
  | .scSalu t => tileOk t
  | .scSget t => tileOk t
  | .scLset t => tileOk t
  | .scDmaGet t => tileOk t
  | .scDmaPut t => tileOk t
  | .scStoreImm t => tileOk t
  | .scAtomic t => tileOk t
  | .scMxuStage t => tileOk t
  | .scMxuMma t => tileOk t
  | .scMxuDrain t => tileOk t
  | .scVop t => tileOk t
  | .scVred t => tileOk t
  | .scVfuse t => tileOk t
  | .scVrms t => tileOk t
  | .scVsmax1 t => tileOk t
  | .scVsmax2 t => tileOk t
  | .mcuAccess n ix lane err => lt8 n && pcOk ix && pcOk lane && lt3 err
  | .mcuAutoRepairStart n => lt8 n
  | .patrolUnit n => lt8 n
  | .mcuPcLost n ix => lt8 n && pcOk ix
  | .mcuInitStart req n => reqOk req && lt8 n
  | .mcuInitPcTrained n _ => lt8 n
  | .mcuScrubStart req n => reqOk req && lt8 n
  | .mcuScrubUnitDone n => lt8 n
  | .mcuRetrainStart req n => reqOk req && lt8 n
  | .mcuRetrainVblankReady n _ => lt8 n
  | .mcuRetrainDone n => lt8 n
  | .mcuRetrainPauseTimeout n => lt8 n
  | .mcuEccClear req n _ => reqOk req && lt8 n
  | .mcuInject req n _ => reqOk req && lt8 n
  | .memqImapWrite req _ _ => reqOk req
  | .memqResWrite req _ => reqOk req
  | .memqWindowEnd n => lt8 n
  | .memqHostAged n ix => lt8 n && pcOk ix
  | .requestDelivery _ => true
  | .responseReceive _ => true
  | .remoteAccessTimeout tag => rtagOk tag
  | .lxPortEnable req n j _ => reqOk req && linkOk n && lt4 j
  | .lxPortDisable req n j _ => reqOk req && linkOk n && lt4 j
  | .lxSplitWrite req n _ => reqOk req && linkOk n
  | .lxSplitApply n => linkOk n
  | .lxRetrainStart req n => reqOk req && linkOk n
  | .lxTrainingComplete g _ _ _ eq => gportOk g && eqsOk eq
  | .lxTrainingFail g _ => gportOk g
  | .lxIdentReceive g p => gportOk g && pktOk p
  | .lxIdentAckReceive g _ => gportOk g
  | .lxIdentResend g => gportOk g
  | .lxCodewordReceive g c => gportOk g && cwOk c
  | .lxCwAck g n => gportOk g && seqOk n
  | .lxCwNak g n => gportOk g && seqOk n
  | .lxCwCredit g c n => gportOk g && lt8 c && flitsOk n
  | .lxCwReplay g n => gportOk g && seqOk n
  | .lxCwDropReq g ix => gportOk g && lt32 ix
  | .lxCwAddReq g ix => gportOk g && lt32 ix
  | .lxCwMap g ix _ => gportOk g && lt32 ix
  | .lxCwTestStart g ix => gportOk g && lt32 ix
  | .lxCwTestStop g ix => gportOk g && lt32 ix
  | .lxCwSleep g hb => gportOk g && hbOk hb
  | .lxCwWakeReq g => gportOk g
  | .lxCwAwake g => gportOk g
  | .lxCwHeartbeat g => gportOk g
  | .lxAckTimer g => gportOk g
  | .lxNakWaitTimeout g => gportOk g
  | .lxPartnerLoss g => gportOk g
  | .lxRetrainRetry g => gportOk g
  | .lxLaneLockLoss n k => linkOk n && lt32 k
  | .lxAutoLaneRetrainStart n => linkOk n
  | .lxLaneTrained n k _ => linkOk n && lt32 k
  | .lxLaneTestStart req n => reqOk req && linkOk n
  | .lxLaneTestUnitDone n _ => linkOk n
  | .lxSleepBurst g => gportOk g
  | .lxRestNoteReceive g _ => gportOk g
  | .lxPartnerSignalReturn g => gportOk g
  | .lxLaneClr req n _ => reqOk req && linkOk n
  | .lxPclear req n j _ => reqOk req && linkOk n && lt4 j
  | .egressEnqueue _ => true
  | .linkSchedulerPick g => gportOk g
  | .ingressPolice g c => gportOk g && lt8 c
  | .policerDelayRelease g c => gportOk g && lt8 c
  | .tspClear req n _ => reqOk req && linkOk n
  | .tspPclear req n j _ => reqOk req && linkOk n && lt4 j
  | .rteZpeerWrite req z _ => reqOk req && lt8 z
  | .rteTableWrite req a _ => reqOk req && waddrOk a
  | .rteCtxAlloc req _ => reqOk req
  | .rteCtxFree req _ => reqOk req
  | .rteCtxActiveWrite req c _ => reqOk req && lt32 c
  | .rteSettleEnd g => gportOk g
  | .rteCntClr req _ => reqOk req
  | .fabCandidateReceive g h => gportOk g && fhdrOk h
  | .fabElectTimeout => true
  | .fabBeatReceive g h dep leaders => gportOk g && fhdrOk h && optChipOk dep && leadersOk leaders
  | .fabBeatTimer => true
  | .fabConductorLoss => true
  | .fabDeputyLoss => true
  | .fabJoinTimer => true
  | .fabJoinReceive g h _ slices => gportOk g && fhdrOk h && jslicesOk slices
  | .fabGroupBeatLoss => true
  | .fabEventReceive h e => fhdrOk h && feventOk e
  | .fabOrderReceive h o => fhdrOk h && forderOk o
  | .fabOrderAckReceive h => fhdrOk h
  | .fabMirrorReceive h m => fhdrOk h && mirrorOk m
  | .fabMbxQuery req _ => reqOk req
  | .fabMbxChangeover req _ => reqOk req
  | .fabMbxCancel req _ => reqOk req
  | .fabMbxAdmit req _ => reqOk req
  | .fabMbxResetChip req _ => reqOk req
  | .fabMbxRecircuit req _ => reqOk req
  | .fabMbxUnknown req _ => reqOk req
  | .fabMbxAnswer tag result detail => halfOk tag && byteOk result && u32Ok detail
  | .fabSwitchReply sw seq term statuses => switchOk sw && u32Ok seq && u32Ok term && statusesOk statuses
  | .fabSwitchAckTimeout sw => switchOk sw
  | .fabSwitchSettleEnd => true
  | .fabStepLimitTimeout chip => chipOk chip
  | .fabNoConductorTimeout => true
  | .fabRecircuitTimer => true
  | .fabRecomputeDone us => u32Ok us
  | .fabCntClr req _ => reqOk req
  | .metBeaconSend => true
  | .metBeaconReceive g p => gportOk g && pktOk p
  | .metRootLoss => true
  | .metHoldoverExpire => true
  | .metNowRead req => reqOk req
  | .metCntClr req _ => reqOk req
  | .snpFire req _ => reqOk req
  | .snpReleaseAll req _ => reqOk req
  | .snpReleaseMachine req _ => reqOk req
  | .snpArm req _ => reqOk req
  | .snpDisarm req _ => reqOk req
  | .snpInEdge => true
  | .snpDownbeatReceive p => pktOk p
  | .snpReleaseReceive p => pktOk p
  | .snpLatch => true
  | .snpCntClr req _ => reqOk req
  | .dhPllLocked n => lt4 n
  | .dhFrameBoundary n => lt4 n
  | .dhVblankStart n => lt4 n
  | .dhLineFetchStart n _ => lt4 n
  | .dhLineUnitsGrant => true
  | .dhLineDeadline n _ => lt4 n
  | .dhLineScanout n _ _ => lt4 n
  | .dhHeadokRearm req n _ => reqOk req && lt4 n
  | .dhCntClr req n _ => reqOk req && lt4 n
  | .genlockPulse _ _ => true
  | .genlockMetInstant n => lt4 n
  | .genlockMissTimeout n => lt4 n
  | .dptxHpdRise n _ => lt4 n
  | .dptxHpdUnplug n => lt4 n
  | .dptxHpdSettled n rate lanes _ _ => lt4 n && lt7 rate && lt3 lanes
  | .dptxTrainDone n _ => lt4 n
  | .dptxTrainTimeout n => lt4 n
  | .dptxTrainRetry n => lt4 n
  | .dptxStatusPoll n _ => lt4 n
  | .dptxRetrainReq req n _ => reqOk req && lt4 n
  | .auxNativeRead req n _ => reqOk req && lt4 n
  | .auxNativeWrite req n _ => reqOk req && lt4 n
  | .auxI2cRead req n _ => reqOk req && lt4 n
  | .auxI2cWrite req n _ => reqOk req && lt4 n
  | .dptxAuxReply n reply _ => lt4 n && lt3 reply
  | .dptxAuxTimeout n => lt4 n
  | .dptxCntClr req n _ => reqOk req && lt4 n
  | .cmtCommitGo req n _ => reqOk req && lt4 n
  | .cmtRecordFetched n => lt4 n
  | .cmtRecordTimeout n => lt4 n
  | .cmtCommitCancel req n _ => reqOk req && lt4 n
  | .cmtFenceAlloc req _ => reqOk req
  | .cmtFenceFree req _ => reqOk req
  | .cmtFenceSet req ix _ => reqOk req && lt64 ix
  | .cmtFenceMax req ix _ => reqOk req && lt64 ix
  | .cmtCntClr req _ => reqOk req
  | .protWinWrite req n _ => reqOk req && lt4 n
  | .protLoadStart req n _ => reqOk req && lt4 n
  | .protLoadDone n => lt4 n
  | .protApply req n _ => reqOk req && lt4 n
  | .sigApply req n _ => reqOk req && lt4 n
  | .sigRegionCheck n ix => lt4 n && lt16 ix
  | .sigCntClr req n _ => reqOk req && lt4 n
  | .blitStart req => reqOk req
  | .bltLineComplete => true
  | .bltSignalResponse => true
  | .bltCntClr req _ => reqOk req
  | .csiFrameStart n ecc num => lt4 n && lt3 ecc && halfOk num
  | .csiFrameEnd n ecc => lt4 n && lt3 ecc
  | .csiLinePacket n ecc _ _ => lt4 n && lt3 ecc
  | .csiEmbeddedPacket n ecc _ _ => lt4 n && lt3 ecc
  | .csiPacketOther n ecc vc dt => lt4 n && lt3 ecc && lt16 vc && lt64 dt
  | .csiLaneFault n lane => lt4 n && lt4 lane
  | .ispLineProcessed n => lt4 n
  | .ispFrameWritesComplete n => lt4 n
  | .ispRecordComplete n => lt4 n
  | .ispApply req n _ => reqOk req && lt4 n
  | .camTrigRise n => lt4 n
  | .camTrigFall n => lt4 n
  | .csiCntClr req n _ => reqOk req && lt4 n
  | .ispCntClr req n _ => reqOk req && lt4 n
  | .pcieLinkUp speed _ => lt4 speed
  | .pcieSpeedRecovery speed => lt4 speed
  | .pcieLinkDown => true
  | .pcieConfigRequest fn tag c => fnOk fn && hbOk tag && cfgOk c
  | .hostApertureRead fn tag o _ => fnOk fn && hbOk tag && off32Ok o
  | .hostApertureWrite fn o _ _ => fnOk fn && off32Ok o
  | .hqQueueEnable req q _ => reqOk req && queueOk q
  | .hqClaim fn tag q n => fnOk fn && hbOk tag && queueOk q && claimOk n
  | .hqRing fn q => fnOk fn && queueOk q
  | .hqCmdNop q w => queueOk q && w16Ok w
  | .hqCmdCopy q w => queueOk q && w16Ok w
  | .hqCmdSignal q w => queueOk q && w16Ok w
  | .hqCmdWrite q w => queueOk q && w16Ok w
  | .hqCmdComplete q => queueOk q
  | .hqCqHeadWrite fn q _ => fnOk fn && queueOk q
  | .msixModerationEnd fn v => fnOk fn && byteOk v
  | .streamFlushTimeout k => lt3 k
  | .streamPagePublish k _ => lt3 k
  | .streamTelemetrySample => true
  | .streamTraceRecord typ bs => halfOk typ && traceOk bs
  | .streamEnable req k _ => reqOk req && lt3 k
  | .streamHeadWrite req k _ => reqOk req && lt3 k
  | .vfFlr fn => fnOk fn
  | .vfFlrComplete fn => fnOk fn
  | .fnClear fn _ => fnOk fn
  | .hifCntClr req _ => reqOk req
  | .partCreate req _ => reqOk req
  | .partAssign req _ => reqOk req
  | .partAutoDrainStart => true
  | .drainScrubStart req => reqOk req
  | .partDrainPhaseComplete => true
  | .partScrubUnitDone => true
  | .partCntClr req _ => reqOk req
  | .eventRaise page code _ _ _ charge => epageOk page && halfOk code && reqOk charge
  | .evlEventAccept => true
  | .evlLogRelease req l _ => reqOk req && lt2 l
  | .evlLogClear req l _ => reqOk req && lt2 l
  | .evlReadSelect req _ => reqOk req
  | .errInject req _ => reqOk req
  | .errCntClr req _ => reqOk req
  | .refclkSysLoss _ => true
  | .refclkLnkLoss _ => true
  | .pcieRefclkLoss _ => true
  | .smbReadChipId => true
  | .smbReadChipStep => true
  | .smbReadBootStatus => true
  | .smbReadTj => true
  | .smbReadPwrStatus => true
  | .smbReadChipNum => true
  | .smbOther => true
  | .jtagBypass => true
  | .jtagIdcode => true
  | .jtagSamplePreload _ => true
  | .jtagExtest _ => true
  | .pcieTrainingFail => true
  | .hostReadCompletion q num o status _ => queueOk q && halfOk num && off32Ok o && lt4 status
  | .ethFrameReceive _ _ => true
  | .supplyToleranceDetect _ => true
  | .csiClockLaneChange n _ => lt4 n
  | .snapOutFall => true

end Sys2Proof
end

