-- ==== Sys2Proof/Safety.lean ====
section
/-! DEFINITION. The terms that statements about steps are made in: safe steps, what completing means for a command, the
canonical form of the memories, and what a chip in reset keeps. -/
namespace Sys2Proof
open Machine

/-- A step that neither faults nor is refused. -/
def StepSafe (s : State) : Prop := ∃ t, step s = .next t

/-! Completion. -/

/-- Out of reset, in every state that meets a condition, a command answers the next state of an effect. -/
def Completes (c : Instr) (pre : State → Prop) (eff : State → State) : Prop :=
  ∀ s, s.chip.inReset = false → pre s → exec c s = .next (eff s)

/-- The same for a command that may raise or drop a hold: the power ladder is evaluated on the result (R177). -/
def CompletesEval (c : Instr) (pre : State → Prop) (eff : State → State) : Prop :=
  Completes c pre fun s => powerEval (eff s)

/-- A register write that a requester may make at a window offset completes: the register's own effect, and the mark
PAGE_STATUS.CUSTOM where the word holds a setting (R81). -/
def WriteCompletes (c : Instr) (req a : Nat) (eff : State → State) : Prop :=
  Completes c (fun s => checkWrite s req a = .ok) fun s => customMark req (a - a % 0x1000) (a % 0x1000) (eff s)

/-- The same for a write that may raise or drop a hold. -/
def WriteCompletesEval (c : Instr) (req a : Nat) (eff : State → State) : Prop :=
  CompletesEval c (fun s => checkWrite s req a = .ok) fun s => customMark req (a - a % 0x1000) (a % 0x1000) (eff s)

/-- A counter-clear register: bit 0 written 1 zeroes words and acts on what stands beside them; written 0 it does nothing. -/
def ClearCompletes (c : Word → Instr) (req a : Nat) (words : List Nat) (also : State → State) : Prop :=
  ∀ v : Word, (bitOf v.toNat 0 = true → WriteCompletes (c v) req a fun s => also (s.zeroWords words)) ∧
    (bitOf v.toNat 0 = false → WriteCompletes (c v) req a id)

/-- A write of a CMT register by a requester that Table 3.4, as R580 refines it, admits: the checks pass, and the effect follows
with the mark CUSTOM. -/
def CmtWriteCompletes (c : Instr) (req off : Nat) (eff : State → State) : Prop :=
  Completes c
    (fun s => s.done = true ∧ cmtMayWrite s req ((pgCMT + off) % 0x1000) = true ∧ checkWrite s mgmt (pgCMT + off) = .ok)
    fun s => customMark req (pgCMT + off - (pgCMT + off) % 0x1000) ((pgCMT + off) % 0x1000) (eff s)

/-- The same for a message or timer of the fabric manager, while the manager runs: its own effect, and then what follows from it
at once, the messages it sends, the ones it sends to itself and the accesses it starts. -/
def FabCompletes (c : Instr) (pre : State → Prop) (own : State → State) : Prop :=
  CompletesEval c (fun s => fabOn s = true ∧ pre s) fun s => fabPump (fabSettle 4096 (fabOut (own s)))

/-- A message is not stale: its TERM is no older than the chip's (R455). -/
def Current (h : FabHdr) (s : State) : Prop := termNewer s.term h.term = false

/-- A command stands at the head of a tile's sequencer and may issue: its row is read, it passes its checks and its wait is
over (R213, R236, R237). -/
def Ready (op t : Nat) (w : List Nat) (s : State) : Prop :=
  s.issuing t = true ∧ headWords t s = some w ∧ hOP w = op ∧ commandBad t w s = none ∧ waitDone t w s = true

/-- A sequencer-local command has issued: it is counted, has its own effect and sends its signal (R214, R219). -/
def issued (t : Nat) (w : List Nat) (own : State → State) (s : State) : State :=
  signal t (s.cp t) engSEQ (tcOf s t w) w (descOf t w s) (own (perfIssued t s))

/-- A queue that has been rung and runs has a claimed slot to read, holding the given words (R648). -/
def SlotToRead (q : Nat) (s : State) : Prop :=
  (s.hq q).ringing = true ∧ (s.hq q).read ≠ hqRd s q F.HQ_QSTATUS_CLAIMED ∧ hqRd s q F.HQ_QCFG_STATE = 1

/-- The PHASE of the words in that slot equals the slot's lap parity (R646, R648). -/
def SlotValid (q : Nat) (w : List Word) (s : State) : Prop :=
  getBits (hcW (w.map BitVec.toNat) 0) 15 1 = lapParity s q (s.hq q).read

/-! Memory. -/

/-- The canonical form of a byte memory: rising addresses, and no entry equal to what an unlisted address reads as. -/
def Memory.wf (d : Nat → Byte) (m : Fmap Byte) : Bool := fwf d m

/-- Every byte memory of a state is in its canonical form. -/
def memWf (s : State) : Bool :=
  Memory.wf (hbmBlank s.hbmFree) s.hbm && Memory.wf sramBlank s.sram && Memory.wf flashBlank s.flash && Memory.wf (fun _ => 0) s.prot

/-! Reset. -/

/-- The commands that act on a chip in reset: its pins, its supplies, its reference clocks, SMBus and JTAG. -/
def pinCommand : Instr → Bool
  | .pwrOkRise _ _ | .pwrOkFall | .resetNAssert _ | .resetRelease _ | .supplyToleranceDetect _ | .perstNAssert | .perstNRelease
  | .refclkSysLoss _ | .refclkLnkLoss _ | .pcieRefclkLoss _ | .smbReadChipId | .smbReadChipStep | .smbReadBootStatus | .smbReadTj
  | .smbReadPwrStatus | .smbReadChipNum | .smbOther | .jtagBypass | .jtagIdcode | .jtagSamplePreload _ | .jtagExtest _ => true
  | _ => false

/-- The chip is in reset, nothing that waits releases it, and flash and fuses hold what they hold. -/
def HeldInReset (flash : Fmap Byte) (fuses : Fuses) (s : State) : Prop :=
  s.chip.inReset = true ∧ (∀ c ∈ s.pending, ∀ b, c ≠ .resetRelease b) ∧ s.flash = flash ∧ s.fuses = fuses

end Sys2Proof
end

