-- ==== Sys2Proof/Certificates/Slice0/Obligations.lean ====
section
/-! DEFINITION. The statements for the provers. Those that say where commands complete are in the terms of
Sys2Proof.Completes; a statement's docstring says what it formalises. -/
open Sys2Proof Sys2Proof.Machine

/-! The block as a whole. -/

/-- A step with a command at the front of the queue is exec of that command on the state with the queue's rest. -/
def Obligations.StepRunsFrontCommand : Prop :=
  ∀ (c : Instr) (rest : List Instr) (s : State), s.pending = c :: rest → step s = exec c { s with pending := rest }

/-- On an empty queue a step is one tick of the Metronome (the model's choice, log 5): in reset nothing changes; out of reset,
with no fabric work left over and the Metronome neither frozen nor in holdover, the tick count and MET go up by one, MET modulo
2^64, and nothing else changes. -/
def Obligations.EmptyQueueStepTicks : Prop :=
  ∀ s : State, s.pending = [] →
    (s.chip.inReset = true → step s = .next s) ∧
    (s.chip.inReset = false → s.metState ≠ metSETTLING → s.metState ≠ metHOLDOVER → s.fab.out = [] → s.fab.mail = [] →
      s.fab.pend = [] → step s = .next { s with ticks := s.ticks + 1, met := (s.met + 1) % 2 ^ 64 })

/-- No word spells a command, since the table gives no row bits, and withFetchWord leaves the state as it is. -/
def Obligations.NoWordSpellsACommand : Prop :=
  ∀ (n w : Nat) (s : State), decodeTableWord n w = none ∧ s.withFetchWord n w = s

/-- Every command, in every state, answers a next state: none faults and none is refused. -/
def Obligations.EveryCommandAnswersANextState : Prop :=
  ∀ (c : Instr) (s : State), ∃ t, exec c s = .next t

/-- Right after reset CHIP.ID reads 0x504E_0004 and CHIP.STEP reads 0xA1 (R1). -/
def Obligations.IdentityReadsSteppingA1 : Prop :=
  State.reset.word (pgCHIP + 0x100) = 0x504E0004#32 ∧ State.reset.rd pgCHIP F.CHIP_STEP_STEP = 0xA1

/-- At reset the chip is held in reset with no command waiting, no byte of HBM, SRAM, flash or a protected buffer is listed,
the Metronome stands at 0, and every byte memory has its canonical form. -/
def Obligations.ResetStateIsEmptyAndCanonical : Prop :=
  State.reset.chip.inReset = true ∧ State.reset.pending = [] ∧ State.reset.met = 0 ∧ State.reset.rink = [] ∧
  State.reset.hbm = [] ∧ State.reset.sram = [] ∧ State.reset.flash = [] ∧ State.reset.prot = [] ∧ memWf State.reset = true

/-- Every page resets with PAGE_OWNER.OWNER = 0x3F, and with SHARED_READ = 1 on CHIP, PACE, PVT, MET and SNP and 0 elsewhere
(the resets of R91). -/
def Obligations.PagesResetToTheManagementDomain : Prop :=
  ∀ (pg n : Nat) (k : PageKind), pg % 0x1000 = 0 → pageOf pg = some (k, n) →
    State.reset.owner pg = 0x3F ∧
    (State.reset.flag pg F.OWN_PAGE_OWNER_SHARED_READ = true ↔ k ∈ [PageKind.chip, .pace, .pvt, .met, .snp])

/-- Only RESET_RELEASE ends a reset: from every state in which the chip is in reset and no RESET_RELEASE waits, every step
leads to such a state again, and the flash devices and the fuses keep their contents (R107, Table 4.2). -/
def Obligations.ResetHoldsUntilReleased : Prop :=
  ∀ (flash : Fmap Byte) (fuses : Fuses) (s t : State), HeldInReset flash fuses s → step s = .next t → HeldInReset flash fuses t

/-- A chip in reset ignores every command but those of its pins, supplies, reference clocks, SMBus and JTAG: the state stays
as it is (R107). -/
def Obligations.CommandsInResetChangeNothing : Prop :=
  ∀ (c : Instr) (s : State), s.chip.inReset = true → pinCommand c = false → exec c s = .next s

/-! Packets. -/

/-- The packet format of R344 loses no bit: reading the flits a packet is sent in gives back every header field and the
payload, for every packet whose fields lie in the widths of Table 12.1, whose LEN suits its WORDS (R346) and whose payload has
the length its opcode and WORDS give. What the chip does not send, the requester and the port of arrival, is filled in by the
receiver. -/
def Obligations.PacketFlitsRoundTrip : Prop :=
  ∀ (p : Packet) (g : Nat), pktOk p = true → lenOk p = true → p.data.length = payloadLen p.op p.words →
    (flitsOf p).length = pktFlits p ∧ (∀ f ∈ flitsOf p, f.length = 64) ∧
    packetOf g (flitsOf p).flatten = { p with req := mgmt, port := g }

/-- A byte string in HBM: what is written is read back, every byte outside the range reads as before, and the canonical form
stays. -/
def Obligations.HbmWriteChangesItsBytesOnly : Prop :=
  ∀ (s : State) (a : Nat) (bs : List Byte),
    (s.hbmWrite a bs).hbmRead a bs.length = bs ∧
    (∀ b, b < a ∨ a + bs.length ≤ b → (s.hbmWrite a bs).hbmRead b 1 = s.hbmRead b 1) ∧
    (memWf s = true → memWf (s.hbmWrite a bs) = true)

/-- Programming a flash device clears bits and sets none, in the bytes of the range alone, and an erase sets every byte of its
range to 0xFF (programming as NOR flash does it is the model's presumption, log 9). -/
def Obligations.FlashProgramsAndErases : Prop :=
  ∀ (s : State) (dev a : Nat) (bs : List Byte) (n : Nat),
    (s.flashProgram dev a bs).flashRead dev a bs.length = List.zipWith (· &&& ·) (s.flashRead dev a bs.length) bs ∧
    (∀ b, b < a ∨ a + bs.length ≤ b → (s.flashProgram dev a bs).flashRead dev b 1 = s.flashRead dev b 1) ∧
    (s.flashErase dev a n).flashRead dev a n = List.replicate n 0xFF ∧
    (∀ b, b < a ∨ a + n ≤ b → (s.flashErase dev a n).flashRead dev b 1 = s.flashRead dev b 1)

/-! Where commands complete, family by family. -/

/-- Page header and ownership commands (03 R80-R93): each allowed write has the effect of its register; a write to IRQ_PENDING
clears, and one to IRQ_FORCE sets, the bits written 1 of IRQ_RAW; a page without an engine of its own settles when its block is
quiet. -/
def Obligations.PageHeaderCommandsComplete : Prop :=
  ∀ (req pg : Nat) (v : Word),
    WriteCompletesEval (.pageEnableWrite req pg v) req (pg + 8) (pageCtrlWrite req pg v.toNat) ∧
    WriteCompletesEval (.pageQuiesceWrite req pg v) req (pg + 8) (pageCtrlWrite req pg v.toNat) ∧
    CompletesEval (.blockQuiesced pg) (fun _ => ∃ k n, pageOf pg = some (k, n) ∧ k ∉ [PageKind.tile, .dh, .isp]) (settle pg) ∧
    WriteCompletes (.irqPendingClear req pg v) req (pg + 0x18) (fun s => s.setWord (pg + 0x10) (s.word (pg + 0x10) &&& ~~~v)) ∧
    WriteCompletes (.irqForce req pg v) req (pg + 0x1C) (irqSet pg v) ∧
    WriteCompletes (.snapRelease req pg v) req (pg + 0x20) (snapCtrlWrite pg v.toNat) ∧
    WriteCompletes (.pageOwnerWrite req pg v) req (pg + 0xF00) (ownerWrite pg v.toNat) ∧
    WriteCompletes (.pageLockSet req pg v) req (pg + 0xF04)
      (fun s => if bitOf v.toNat 0 then s.wr pg F.OWN_PAGE_LOCK_LOCK 1 else s) ∧
    WriteCompletes (.pageFaultClear req pg v) req (pg + 0xF0C)
      (fun s => if bitOf v.toNat 0 then s.zeroWords [pg + 0xF08, pg + 0xF10, pg + 0xF14] else s)

/-- REGISTER_WRITE_PLAIN completes: in the register window the write is checked and has the effect its word has; a plain word
takes its fields by their access codes; from 0x100_0000 on it reaches a function's block or MSI-X table (03 R70-R74, 22 R645). -/
def Obligations.RegisterWritesComplete : Prop :=
  ∀ (req a : Nat) (v : Word),
    (a < 0x1000000 →
      CompletesEval (.registerWritePlain req a v) (fun _ => True) fun s => windowWrite s.chipNum req a v s) ∧
    (a < 0x1000000 → inRteWindow a = false → a - a % 0x1000 ≠ pgCMT →
      WriteCompletesEval (.registerWritePlain req a v) req a (regEffect req a v)) ∧
    (0x1000000 ≤ a → CompletesEval (.registerWritePlain req a v) (fun _ => True) (barWrite a v))

/-- Events and logs (24 R687-R703): an event is raised, the next event of a page buffer is accepted, and the log and ERR
registers act when written. -/
def Obligations.EventAndLogCommandsComplete : Prop :=
  ∀ (req page code charge l : Nat) (v d0 d1 d2 : Word),
    (code / 0x1000 ≤ 4 →
      CompletesEval (.eventRaise page code d0 d1 d2 charge) (fun _ => True) fun s =>
        raise { code := code, page := page, injected := false, met := s.met, d0 := d0.toNat, d1 := d1.toNat, d2 := d2.toNat } charge s) ∧
    (∀ p, Completes .evlEventAccept (fun s => evNext s = some p) fun s => eventMirror 4 (evAccept p s)) ∧
    WriteCompletes (.evlLogRelease req l v) req (pgEVL + 0x11C + 0x10 * l) (logCtlWrite l v.toNat) ∧
    WriteCompletes (.evlLogClear req l v) req (pgEVL + 0x11C + 0x10 * l) (logCtlWrite l v.toNat) ∧
    WriteCompletes (.evlReadSelect req v) req (pgEVL + 0x134) (rdSelWrite v.toNat) ∧
    (v.toNat % 0x10000 < 0x5000 →
      WriteCompletes (.errInject req v) req (pgERR + 0x140) fun s =>
        raiseBase { mkEvent s pgERR (v.toNat % 0x10000) (v.toNat / 0x10000) 0 0 with injected := true } s) ∧
    ClearCompletes (.errCntClr req) req (pgERR + 0x144) ((List.range 16).map fun k => pgERR + 0x100 + 4 * k) id

/-- Long-operation commands (03 R94-R100, Table 3.9): SUSPEND, RESUME and CANCEL act on the state machine of the page; a
command code or an operation that the page lacks is judged as Table 3.9 has it. -/
def Obligations.LongOperationCommandsComplete : Prop :=
  ∀ (req pg op : Nat) (v : Word),
    (5 ≤ v.toNat % 16 ∨ v.toNat % 16 = 0 → WriteCompletesEval (.lopCmdInvalid req pg v) req (pg + 0x40) (lopReject req pg)) ∧
    (op < 256 → WriteCompletesEval (.lopStartUnknownOp req pg op) req (pg + 0x40) (lopStartOp req pg op)) ∧
    WriteCompletesEval (.lopSuspend req pg) req (pg + 0x40) (lopSuspend req pg) ∧
    WriteCompletesEval (.lopResume req pg) req (pg + 0x40) (lopResume req pg) ∧
    WriteCompletesEval (.lopCancel req pg) req (pg + 0x40) (lopCancel req pg)

/-- Power and reset inputs (04 R104-R107, R742-R744): PWR_OK, the supplies, RESET_N, the RESET_CMD register with its key, the
watchdog, the system clock, and the release of reset, which starts the boot ROM. -/
def Obligations.ResetInputsComplete : Prop :=
  ∀ (s : State) (te low : Bool) (loc us req : Nat) (v : Word),
    exec (.pwrOkRise te loc) s =
      .next (let t := { s with chip := { s.chip with pwrOk := true, testEn := te, loc := loc % 2 ^ 13 } }
             if t.powered then powerGood t else t) ∧
    exec .pwrOkFall s = .next (powerLost { s with chip := { s.chip with pwrOk := false } }) ∧
    exec (.supplyToleranceDetect low) s =
      .next (let t := { s with chip := { s.chip with supplyLow := low } }
             if s.powered && !t.powered then powerLost t else if !s.powered && t.powered then powerGood t else t) ∧
    (s.powered = true → 10 ≤ us →
      exec (.resetNAssert us) s = .next (enterReset 2 0 { s with chip := { s.chip with resetN := false } })) ∧
    (v.toNat % 0x10000 = 0xC0DE → getBits v.toNat 16 2 = 1 →
      WriteCompletes (.resetCmdWarm mgmt v) mgmt (pgCHIP + 0x130) (enterReset 4 0)) ∧
    (v.toNat % 0x10000 = 0xC0DE → getBits v.toNat 16 2 = 2 →
      WriteCompletes (.resetCmdCold mgmt v) mgmt (pgCHIP + 0x130) (enterReset 3 0)) ∧
    Completes .watchdogExpire (fun s => s.chip.wdogOn = true ∧ s.rd pgCHIP F.CHIP_WDOG_CTRL_PERIOD ≠ 0)
      (fun s => enterReset (if s.done then 7 else 8) 0 s) ∧
    WriteCompletes (.wdogKick req v) req (pgCHIP + 0x138) wdogSync ∧
    (s.chip.inReset = true → s.powered = true → s.chip.testEn = false → s.pwr.tripped = false → s.chip.sources ≠ [] →
      (5 ∉ s.chip.sources ∨ s.chip.perstN = true) → exec (.resetRelease low) s = .next (leaveReset low s)) ∧
    Completes (.refclkSysLoss false) (fun _ => True) fun s =>
      raiseEv pgCHIP 0x4020 mgmt { s with chip := { s.chip with refSys := false } }

/-- The steps of a boot and of TILE_BIST (04 R113-R138): the parallel tasks advance the boot, an image acknowledgement with
the right CRC counts once, a silent tile is sent again, and the rest acts in its stage. -/
def Obligations.BootCommandsComplete : Prop :=
  ∀ (t n req : Nat) (crc : Word) (up : Bool) (failed : List Nat),
    Completes (.bootTaskComplete .links)
      (fun s => s.chip.booting = true ∧ s.rd pgCHIP F.CHIP_BOOT_STATUS_STAGE = 5 ∧ tasksSet s [1] = false)
      (fun s => bootAdvance (taskDone 1 s)) ∧
    Completes (.bootTaskComplete (.coreUp true))
      (fun s => s.chip.booting = true ∧ s.rd pgCHIP F.CHIP_BOOT_STATUS_STAGE = 4) (fun s => bootAdvance (coreUp s)) ∧
    Completes (.bootTaskComplete (.coreUp false))
      (fun s => s.chip.booting = true ∧ s.rd pgCHIP F.CHIP_BOOT_STATUS_STAGE = 4) (bootHalt 0x82) ∧
    Completes (.bootTaskComplete .internal) (fun s => s.chip.booting = true) (bootHalt 0x8F) ∧
    Completes (.seqImageAck t crc)
      (fun s => fget (fun _ => SeqLoad.unsent) s.chip.seqLoad t = .waiting n ∧ crc.toNat ≠ s.rd pgCHIP F.CHIP_SEQ_CRC_CRC ∧ n < 2)
      (seqResend t n) ∧
    Completes (.seqImageAck t crc) (fun s => fget (fun _ => SeqLoad.unsent) s.chip.seqLoad t = .acked)
      (fun s => s.bump pgCHIP F.CHIP_SEQ_ACK_STRAY) ∧
    Completes (.seqImageAck t crc)
      (fun s => fget (fun _ => SeqLoad.unsent) s.chip.seqLoad t = .waiting n ∧ crc.toNat = s.rd pgCHIP F.CHIP_SEQ_CRC_CRC)
      (fun s => let u := tileFresh t ((setSeq t .acked s).bump pgCHIP F.CHIP_SEQ_ACK_ACKED)
                bootAdvance (if seqAllAcked u then u.wr pgPWR F.PWR_STATUS_TILES_READY 1 else u)) ∧
    Completes (.seqAckTimeout t) (fun s => fget (fun _ => SeqLoad.unsent) s.chip.seqLoad t = .waiting n)
      (fun s => if n < 2 then seqResend t n s else seqGivesUp t s) ∧
    Completes .topoWaitExpire (fun s => s.chip.booting = true ∧ s.rd pgCHIP F.CHIP_BOOT_STATUS_STAGE = 8) topoFinalise ∧
    WriteCompletesEval (.tileBistStart req) req (pgCHIP + 0x40) (bistStart req) ∧
    CompletesEval (.tileBistBatchDone failed) (fun s => lopRuns s pgCHIP 1 = true) (tileBistBatchDoneEffect failed) ∧
    Completes .tileImageReloadDone (fun s => s.done = true ∧ s.ladder ≤ 1) (fun s => s.wr pgPWR F.PWR_STATUS_TILES_READY 1) ∧
    Completes (.mgcEthLinkChange up) (fun s => s.flag pgMGC F.MGC_ETH_STATUS_LINK ≠ up) (fun s =>
      logEv pgMGC (if up then 0x0030 else 0x0031)
        (irq pgMGC 1 ((s.wr pgMGC F.MGC_ETH_STATUS_LINK (b2n up)).wr pgMGC F.MGC_ETH_STATUS_AN_DONE (b2n up)))) ∧
    Completes (.ethFrameReceive true up) (fun _ => True) (fun s => ethErr (s.bump pgMGC F.MGC_ETH_COUNTS_RX_ERR)) ∧
    Completes (.ethFrameReceive false true) (fun _ => True) (fun s => s.bump pgMGC F.MGC_ETH_DROPS_RX_DROPS) ∧
    ClearCompletes (.mgcCntClr req) req (pgMGC + 0x124) [pgMGC + 0x11C, pgMGC + 0x120]
      (fun s => { s with chip := { s.chip with ethErrSeen := false } })

/-- The PCIe link and its functions (22 R636-R639, R659-R662): PERST_N, link up and down, configuration requests, FLR, and the
moderation of vectors. -/
def Obligations.PcieCommandsComplete : Prop :=
  ∀ (speed fn tag v n req : Nat) (flit en mask : Bool) (w : Word),
    (∀ s, s.powered = true → s.chip.inReset = false → s.rd pgCHIP F.CHIP_RESET_CFG_PERST_ACTION ≠ 1 →
      exec .perstNAssert s = .next (enterReset 5 0 { s with chip := { s.chip with perstN := false } })) ∧
    (∀ s, s.powered = true → s.chip.inReset = false → s.rd pgCHIP F.CHIP_RESET_CFG_PERST_ACTION = 1 →
      exec .perstNAssert s = .next (powerEval
        (((List.range 33).foldl (fun s f => fnReset f s) (linkDown { s with chip := { s.chip with perstN := false } })).wr
          pgHIF F.HIF_LINK_STATUS_NUM_VFS 0))) ∧
    (∀ s, exec .perstNRelease s = .next { s with chip := { s.chip with perstN := true } }) ∧
    Completes (.pcieLinkUp speed flit) (fun s => linkUp s = false ∧ s.chip.perstN = true ∧ s.chip.refPcie = true) (fun s =>
      let t := s.wr pgHIF F.HIF_LINK_STATUS_SPEED (min speed (s.rd pgHIF F.HIF_LINK_CFG_MAX_SPEED))
      logEv pgHIF 0x0B01
        (irq pgHIF 0 ((t.wr pgHIF F.HIF_LINK_STATUS_FLIT (b2n flit)).wr pgHIF F.HIF_LINK_STATUS_DL_ACTIVE 1))) ∧
    Completes (.pcieSpeedRecovery speed) (fun s => linkUp s = true ∧ s.rd pgHIF F.HIF_LINK_STATUS_SPEED = 0) (fun s =>
      (s.emit (.pcieRecovery (s.rd pgHIF F.HIF_LINK_CFG_MAX_SPEED))).wr pgHIF F.HIF_LINK_STATUS_SPEED
        (min speed (s.rd pgHIF F.HIF_LINK_CFG_MAX_SPEED))) ∧
    CompletesEval .pcieLinkDown (fun _ => True) linkDown ∧
    Completes .pcieTrainingFail (fun s => linkUp s = false)
      (fun s => logEv pgHIF 0x1B03 (irq pgHIF 2 (s.bump pgHIF F.HIF_COUNTS_TRAIN_FAILS))) ∧
    CompletesEval (.pcieRefclkLoss false) (fun _ => True)
      (fun s => linkDown { s with chip := { s.chip with refPcie := false } }) ∧
    Completes (.pcieConfigRequest fn tag (.numVfs n)) (fun s => s.chip.perstN = true ∧ linkUp s = true)
      (fun s => (if fn = 0 then s.wr pgHIF F.HIF_LINK_STATUS_NUM_VFS (min n 32) else s).emit (.completion fn tag 0 false [])) ∧
    (∀ s, s.chip.inReset = false → s.chip.perstN = true → linkUp s = true →
      exec (.pcieConfigRequest fn tag (.msix en mask)) s = .next (pcieConfigRequestEffect fn tag (.msix en mask) s) ∧
      exec (.pcieConfigRequest fn tag (.read v)) s = .next (pcieConfigRequestEffect fn tag (.read v) s)) ∧
    Completes (.msixModerationEnd fn v)
      (fun s => s.msi.busy.contains (fn * 256 + v) = true ∧ s.msi.coal.contains (fn * 256 + v) = false)
      (fun s => { s with msi := { s.msi with busy := s.msi.busy.erase (fn * 256 + v), coal := s.msi.coal.erase (fn * 256 + v) } }) ∧
    Completes (.msixModerationEnd fn v)
      (fun s => s.msi.busy.contains (fn * 256 + v) = true ∧ s.msi.coal.contains (fn * 256 + v) = true)
      (fun s => msixRaise fn v
        { s with msi := { s.msi with busy := s.msi.busy.erase (fn * 256 + v), coal := s.msi.coal.erase (fn * 256 + v) } }) ∧
    CompletesEval (.vfFlr fn) (fun s => fn ≠ 0 ∧ s.host.flr.contains fn = false) (fun s =>
      let t := (queuesOf s fn).foldl (fun s q => s.modHq q fun x =>
        { x with flr := true, ringing := false, fin := [], cmds := x.cmds.filter (·.started) }) s
      { t with host := { t.host with flr := fn :: t.host.flr } }) ∧
    CompletesEval (.vfFlrComplete fn)
      (fun s => s.host.flr.contains fn = true ∧ ((queuesOf s fn).all fun q => (s.hq q).cmds.isEmpty) = true)
      (vfFlrCompleteEffect fn) ∧
    Completes (.fnClear fn w) (fun s => barsServed s = true) (fnClear fn w.toNat) ∧
    ClearCompletes (.hifCntClr req) req (pgHIF + 0x118) ([0x10C, 0x110, 0x114, 0x15C, 0x17C, 0x19C].map (pgHIF + ·))
      (fun s => { s with host := { s.host with apLogged := false, dropLogged := false, faultLogged := false } })

/-- Aperture accesses (22 R640-R644): a TLP that finds its slot valid starts as requests at BASE + (o mod S); one that does not
fails, and a write of an unbound function is counted. -/
def Obligations.HostApertureCommandsComplete : Prop :=
  ∀ (fn tag o len ga : Nat) (ordered : Bool) (bs : List Byte),
    0 < len → o % 4096 + len ≤ 4096 →
    CompletesEval (.hostApertureRead fn tag o len)
      (fun s => linkUp s = true ∧ barsServed s = true ∧ fnBound s fn = true ∧ s.host.flr.contains fn = false ∧
        apAddress s fn o = some (ga, ordered))
      (apStart { id := 0, fn := fn, tag := tag, write := false, ordered := ordered, ga := ga - ga % 4,
                 len := (ga % 4 + len + 3) / 4 * 4, data := [], pos := 0, flying := 0, bad := 0, poison := false, got := [],
                 skip := ga % 4, want := len }) ∧
    CompletesEval (.hostApertureRead fn tag o len)
      (fun s => linkUp s = true ∧ barsServed s = true ∧ fnBound s fn = true ∧ s.host.flr.contains fn = false ∧
        apAddress s fn o = none)
      (fun s => readFail fn tag 1 (apFail fn 0x12 (apRaw s fn o) s)) ∧
    (bs.length = len → len ≤ 512 →
      (o % 4 = 0 → len % 4 = 0 →
        CompletesEval (.hostApertureWrite fn o false bs)
          (fun s => linkUp s = true ∧ barsServed s = true ∧ fnBound s fn = true ∧ s.host.flr.contains fn = false ∧
            apAddress s fn o = some (ga, ordered))
          (apStart { id := 0, fn := fn, tag := 0, write := true, ordered := ordered, ga := ga, len := len, data := bs, pos := 0,
                     flying := 0, bad := 0, poison := false, got := [], skip := 0, want := 0 })) ∧
      CompletesEval (.hostApertureWrite fn o true bs)
        (fun s => linkUp s = true ∧ barsServed s = true ∧ fnBound s fn = true ∧ s.host.flr.contains fn = false)
        (fun s => (poisonSeen F.ERR_POISON_A_HOST s).emit (.aer fn 1)) ∧
      CompletesEval (.hostApertureWrite fn o false bs)
        (fun s => linkUp s = true ∧ barsServed s = true ∧ fnBound s fn = false ∧ s.host.flr.contains fn = false)
        (badWrite fn))

/-- Host queues (22 R646-R652): a queue is enabled, claimed, rung, takes the commands of its slots, and completes them in
order. -/
def Obligations.HostQueueCommandsComplete : Prop :=
  ∀ (req q fn tag n num o st : Nat) (v : Word) (w : List Word) (bs : List Byte),
    CompletesEval (.hqQueueEnable req q v)
      (fun s => req = mgmt ∧ checkWrite s mgmt (hqPg q + 0x100 + 0x18 * (q % 32) + 0x10) = .ok)
      (fun s => customMark mgmt (hqPg q + 0x100 + 0x18 * (q % 32) + 0x10 - (hqPg q + 0x100 + 0x18 * (q % 32) + 0x10) % 0x1000)
        ((hqPg q + 0x100 + 0x18 * (q % 32) + 0x10) % 0x1000) (qcfgWrite req q v.toNat s)) ∧
    (∀ s, s.chip.inReset = false → linkUp s = true → exec (.hqClaim fn tag q n) s = .next (powerEval (hqClaimEffect fn tag q n s))) ∧
    CompletesEval (.hqRing fn q) (fun s => barsServed s = true ∧ fnBound s fn = true) (hqRingEffect fn q) ∧
    CompletesEval (.hqCmdNop q w) (fun s => SlotToRead q s ∧ SlotValid q w s ∧ (hcOp (w.map BitVec.toNat) = 0 ∨ 3 < hcOp (w.map BitVec.toNat))) (hqTakeSlot q (w.map BitVec.toNat)) ∧
    CompletesEval (.hqCmdCopy q w) (fun s => SlotToRead q s ∧ SlotValid q w s ∧ hcOp (w.map BitVec.toNat) = 1) (hqTakeSlot q (w.map BitVec.toNat)) ∧
    CompletesEval (.hqCmdSignal q w) (fun s => SlotToRead q s ∧ SlotValid q w s ∧ hcOp (w.map BitVec.toNat) = 2) (hqTakeSlot q (w.map BitVec.toNat)) ∧
    CompletesEval (.hqCmdWrite q w) (fun s => SlotToRead q s ∧ SlotValid q w s ∧ hcOp (w.map BitVec.toNat) = 3) (hqTakeSlot q (w.map BitVec.toNat)) ∧
    CompletesEval (.hqCmdCopy q w) (fun s => SlotToRead q s ∧ ¬SlotValid q w s ∧ hcOp (w.map BitVec.toNat) = 1)
      (fun s => s.modHq q fun x => { x with ringing := false }) ∧
    CompletesEval (.hqCmdComplete q) (fun s => (s.hq q).fin ≠ [] ∧ hqRd s q F.HQ_QCFG_STATE = 1) (hqCmdCompleteEffect q) ∧
    Completes (.hqCqHeadWrite fn q v)
      (fun s => barsServed s = true ∧ fnBound s fn = true ∧ hqFn s q = fn ∧
        (v.toNat % 65536 + 65536 - (s.hq q).consumed) % 65536 ≤
          (hqRd s q F.HQ_QSTATUS_COMPLETED + 65536 - (s.hq q).consumed) % 65536)
      (fun s => s.modHq q fun x => { x with consumed := v.toNat % 65536 }) ∧
    (∀ c, CompletesEval (.hostReadCompletion q num o 0 bs)
      (fun s => ((s.hq q).cmds.find? fun c => c.num = num && c.hreads.contains o) = some c)
      (fun s => hqPump q 256 (modCmd q num (fun c => { c with parts := c.parts ++ [(o, bs)] })
        (modCmd q num (fun c => { c with hreads := c.hreads.erase o, fly := c.fly - 1 }) s)))) ∧
    (∀ c, CompletesEval (.hostReadCompletion q num o st bs)
      (fun s => ((s.hq q).cmds.find? fun c => c.num = num && c.hreads.contains o) = some c)
      (hostReadCompletionEffect q num o st bs))

/-- Host streams (22 R656-R658): a stream is enabled and its ring set, a page is closed by the flush timer or published, and
telemetry samples and trace records enter it. -/
def Obligations.HostStreamCommandsComplete : Prop :=
  ∀ (req k typ : Nat) (v : Word) (ok : Bool) (bs : List Byte),
    Completes (.streamFlushTimeout k) (fun s => stRd s k F.HIF_ST_CTRL_FLUSH_MS ≠ 0 ∧ streamOn s k = true) (streamClose k) ∧
    Completes (.streamPagePublish k ok) (fun _ => True) (fun s => eventMirror 128 (streamPublish k ok s)) ∧
    Completes .streamTelemetrySample (fun s => streamOn s 2 = true) streamTelemetrySampleEffect ∧
    ((4 + bs.length) % 8 = 0 → bs.length ≤ 4060 →
      Completes (.streamTraceRecord typ bs) (fun _ => True) (fun s => (streamAdd 1 typ bs s).2)) ∧
    WriteCompletes (.streamEnable req k v) req (pgHIF + 0x148 + 0x20 * k) (stCtrlWrite k v.toNat) ∧
    WriteCompletes (.streamHeadWrite req k v) req (pgHIF + 0x14C + 0x20 * k) (stRingWrite k v.toNat)

/-- Flash, boot records and licences (05 R146-R167): each operation starts when its page takes it, and each finished unit of a
running operation advances or ends it. -/
def Obligations.FlashAndBootCommandsComplete : Prop :=
  ∀ (req k : Nat) (v : Word) (ok : Bool),
    WriteCompletesEval (.flashWriteStart req) req (pgFLASH + 0x40) (flashWriteStart req) ∧
    WriteCompletesEval (.flashEraseStart req) req (pgFLASH + 0x40) (flashEraseStart req) ∧
    (bitOf v.toNat 0 = true → WriteCompletes (.flashWinPush req v) req (pgFLASH + 0x110) (winPush v.toNat)) ∧
    CompletesEval (.flashUnitDone ok) (fun s => lopRuns s pgFLASH 1 = true ∨ lopRuns s pgFLASH 2 = true) (flashUnitDoneEffect ok) ∧
    CompletesEval (.flashDeviceTimeout k) (fun s => k ≠ 0 ∧ s.lopHolds (qspiPage k) = true)
      (fun s => lopFail (qspiPage k) resTIMEOUT (s.rd (qspiPage k) F.LOP_LOP_PROGRESS_DONE % 2 ^ 20) s) ∧
    CompletesEval (.flashDeviceTimeout 0) (fun s => s.lopHolds (qspiPage 0) = true)
      (fun s => lopFail (qspiPage 0) resTIMEOUT ((s.wr pgFLASH F.FLASH_WIN_CTRL_BUSY 0).rd (qspiPage 0) F.LOP_LOP_PROGRESS_DONE % 2 ^ 20)
        (s.wr pgFLASH F.FLASH_WIN_CTRL_BUSY 0)) ∧
    WriteCompletesEval (.bootVerifyStart req) req (pgBOOT + 0x40) (bootVerifyStart req) ∧
    CompletesEval (.bootVerifyUnitDone ok) (fun s => lopRuns s pgBOOT 1 = true) (bootVerifyUnitDoneEffect ok) ∧
    WriteCompletesEval (.bootActivateStart req) req (pgBOOT + 0x40) (bootActivateStart req) ∧
    WriteCompletesEval (.bootConfirmStart req) req (pgBOOT + 0x40) (bootConfirmStart req) ∧
    CompletesEval (.bootRecordCopyWritten ok)
      (fun s => s.bootOps.newRec.isSome = true ∧ (lopRuns s pgBOOT 2 = true ∨ lopRuns s pgBOOT 3 = true))
      (bootRecordCopyWrittenEffect ok) ∧
    WriteCompletesEval (.licInstallStart req) req (pgLIC + 0x40) (licInstallStart req) ∧
    CompletesEval (.licInstallStepDone ok) (fun s => lopRuns s pgLIC 1 = true) (licInstallStepDoneEffect ok)

/-- SMBus and JTAG (04 R139, 26 R748-R750) act in every state, and change only the record of outputs and, for JTAG, the TAP: a
served Block Read returns the register word. -/
def Obligations.SmbusAndJtagComplete : Prop :=
  ∀ (s : State) (pins : Nat),
    exec .smbReadChipId s = .next (smbRead (pgCHIP + 0x100) s) ∧
    exec .smbReadChipStep s = .next (smbRead (pgCHIP + 0x104) s) ∧
    exec .smbReadBootStatus s = .next (smbRead (pgCHIP + 0x118) s) ∧
    exec .smbReadTj s = .next (smbRead (pgPVT + 0x100) s) ∧
    exec .smbReadPwrStatus s = .next (smbRead (pgPWR + 0x104) s) ∧
    exec .smbReadChipNum s = .next (smbRead (pgCHIP + 0x114) s) ∧
    exec .smbOther s = .next { s with outbox := s.outbox ++ [.smb none] } ∧
    exec .jtagBypass s = .next (jtagSel 0 s) ∧
    exec .jtagIdcode s =
      .next { jtagSel 1 (s.free 11).2 with
              outbox := s.outbox ++ [.jtag (2 ^ 28 + 0x504E * 2 ^ 12 + 2 * (s.free 11).1 + 1)] } ∧
    (s.chip.resetN = false →
      exec (.jtagSamplePreload pins) s =
        .next { jtagSel 2 s with jtag := { (jtagSel 2 s).jtag with chain := pins } } ∧
      exec (.jtagExtest pins) s =
        .next { jtagSel 2 s with jtag := { (jtagSel 2 s).jtag with chain := pins, driving := true } }) ∧
    (s.chip.resetN = true →
      exec (.jtagSamplePreload pins) s = .next (jtagSel 0 s) ∧ exec (.jtagExtest pins) s = .next (jtagSel 0 s))

/-- Fabric election, beats and membership (16 R455-R463): while the fabric manager runs, a message that is not stale and a timer
have their own effect. -/
def Obligations.FabricMembershipCommandsComplete : Prop :=
  ∀ (g : Nat) (h : FabHdr) (dep : Option Nat) (leaders : List (Nat × Nat)) (scale : Bool) (slices : List (Nat × Nat × List Nat))
    (m : FabMirror) (l c : Nat),
    FabCompletes (.fabCandidateReceive g h)
      (fun s => floodNew s h = true ∧ termNewer h.term s.term = true)
      (fun s => floodOn g 0x33 h ((s.wr pgFAB F.FAB_TERM_TERM h.term).modFab fun x => { x with best := h.key + 1 })) ∧
    FabCompletes .fabElectTimeout
      (fun s => s.flag pgFAB F.FAB_ROLE_ELECTING = true ∧ s.flag pgFAB F.FAB_CFG_ELIGIBLE = true ∧ s.fab.best = ownKey s + 1)
      (fun s => becomeConductor s.term none s) ∧
    FabCompletes (.fabBeatReceive g h dep leaders) (fun s => Current h s ∧ floodNew s h = true ∧ h.group = false)
      (fun s => beatIn g h dep leaders (floodOn g 0x34 h s)) ∧
    FabCompletes .fabBeatTimer (fun s => s.isConductor = true ∧ (fabBeat s).flag pgFAB F.FAB_ROLE_SECTION_LEADER = false) fabBeat ∧
    FabCompletes .fabBeatTimer (fun s => s.isConductor = false ∧ s.flag pgFAB F.FAB_ROLE_SECTION_LEADER = true)
      (fabFlood .groupBeat) ∧
    FabCompletes .fabConductorLoss (fun s => isMember s = true ∧ s.flag pgFAB F.FAB_ROLE_DEPUTY = true) succeed ∧
    FabCompletes .fabDeputyLoss (fun s => isMember s = true) startElection ∧
    FabCompletes .fabJoinTimer (fun s => isMember s = true) sendJoin ∧
    FabCompletes (.fabJoinReceive g h scale slices) (fun s => Current h s ∧ s.isConductor = true)
      (fun s => joinIn h scale slices { s with joinPort := fset (fun _ => 0) s.joinPort h.src (g + 1) }) ∧
    FabCompletes .fabGroupBeatLoss
      (fun s => sectionLeader s = some l ∧ conductorOf s = some c ∧ s.flag pgFAB F.FAB_ROLE_MEMBER = true ∧ l ≠ s.chipNum)
      (fun s => fabTell c (.event (.slLost l)) (withRoles (setSection none) s)) ∧
    FabCompletes (.fabMirrorReceive h m)
      (fun s => Current h s ∧ s.flag pgFAB F.FAB_ROLE_DEPUTY = true ∧ conductorOf s = some h.src)
      (fun s => s.modFab fun x => { x with mirror := some m })

/-- Fabric events, orders, REST, the mailbox, the switches and the conductor's timers (16 R455, R464-R482, 04 R109). -/
def Obligations.FabricRequestCommandsComplete : Prop :=
  ∀ (src req tag result detail sw seq term chip us : Nat) (h : FabHdr) (e : FabEvent) (o : FabOrder) (v : Word) (sts : List Nat)
    (r : FabRun) (p : Plan) (q : FabReq),
    Completes (.resetReqReceive src 7)
      (fun s => conductorOf s = some src ∧ s.flag pgCHIP F.CHIP_RESET_CFG_REMOTE_EN = true) (enterReset 9 0) ∧
    FabCompletes (.fabEventReceive h e) (Current h) (eventDo h.src e) ∧
    FabCompletes (.fabOrderReceive h o) (fun s => Current h s ∧ conductorOf s = some h.src)
      (fun s => fabSend h.src (.orderAck h.seq) (orderDo o s)) ∧
    FabCompletes (.fabOrderAckReceive h) (Current h) id ∧
    (bitOf v.toNat 0 = true → CompletesEval (.restRequest req v) (fun s => checkWrite s req (pgPWR + 0x120) = .ok)
      (fun s => fabDo id (customMark req pgPWR 0x120 (restRequest s)))) ∧
    (bitOf v.toNat 0 = false → CompletesEval (.restEndRequest req v) (fun s => checkWrite s req (pgPWR + 0x120) = .ok)
      (fun s => fabDo id (customMark req pgPWR 0x120 (restEnd s)))) ∧
    (∀ c ∈ [Instr.fabMbxQuery req v, .fabMbxChangeover req v, .fabMbxCancel req v, .fabMbxAdmit req v, .fabMbxResetChip req v,
        .fabMbxRecircuit req v, .fabMbxUnknown req v],
      CompletesEval c (fun s => checkWrite s req (pgFAB + 0x128) = .ok)
        (fun s => fabDo id (customMark req pgFAB 0x128 (mbxWrite req v.toNat s)))) ∧
    CompletesEval (.fabMbxAnswer tag result detail) (fun s => s.rd pgFAB F.FAB_MBX_STATUS_STATE = 1)
      (fun s =>
        let t := (s.wr pgFAB F.FAB_MBX_STATUS_STATE 2).wr pgFAB F.FAB_MBX_STATUS_RESULT result
        let t := (t.wr pgFAB F.FAB_MBX_STATUS_TAG tag).wr pgFAB F.FAB_MBX_DETAIL_DETAIL detail
        irq pgFAB 0 ((t.wr64 pgFAB F.FAB_MBX_MET_LO_MET F.FAB_MBX_MET_HI_MET s.met).modFab fun x => { x with mbx := none })) ∧
    FabCompletes (.fabSwitchReply sw seq term sts) (fun _ => True) (swReply sw seq term sts) ∧
    FabCompletes (.fabSwitchAckTimeout sw) (fun _ => True) (swTimeout sw) ∧
    FabCompletes .fabSwitchSettleEnd (fun s => s.fab.run = some r ∧ r.step = 4 ∧ r.phase = 2)
      (modRun fun r => { r with phase := 3 }) ∧
    FabCompletes (.fabStepLimitTimeout chip)
      (fun s => s.fab.run = some r ∧ 2 ≤ r.step ∧ (changeOf r.req).limit ≠ 0 ∧ r.waits.contains chip = true) (fabFail 9 chip) ∧
    CompletesEval .fabNoConductorTimeout (fun s => s.fab.mbx = some q) (fun s => mbxAnswer q.tag 8 (s.free 32).1 (s.free 32).2) ∧
    FabCompletes .fabRecircuitTimer
      (fun s => s.plan = some p ∧ s.isConductor = true ∧ s.rd pgFAB F.FAB_SW_TIMING_RECIRCUIT_S ≠ 0 ∧ swReady s = true)
      (fun s => dgramsFor true (recircuits s p) s) ∧
    FabCompletes (.fabRecomputeDone us) (fun s => s.isConductor = true ∧ s.fab.recompute = true ∧ s.fab.run = none)
      (recomputeEnd us) ∧
    (∀ w : Word,
      (bitOf w.toNat 0 = true → WriteCompletesEval (.fabCntClr req w) req (pgFAB + 0x160)
        fun s => s.zeroWords [pgFAB + 0x14C, pgFAB + 0x150, pgFAB + 0x154]) ∧
      (bitOf w.toNat 0 = false → WriteCompletesEval (.fabCntClr req w) req (pgFAB + 0x160) id))

/-- The power ladder (06 R176-R191): a write of CTRL acts, a move of the ladder ends when it is complete or refused, a wake
event acts, and REST is answered. -/
def Obligations.PowerLadderCommandsComplete : Prop :=
  ∀ (req r : Nat) (v : Word) (on : Bool),
    WriteCompletesEval (.pwrTargetWrite req v) req (pgPWR + 0x100) (ctrlWrite v.toNat) ∧
    WriteCompletesEval (.pwrOppWrite req v) req (pgPWR + 0x100) (ctrlWrite v.toNat) ∧
    CompletesEval .ladderDrainComplete
      (fun s => s.pwr.entering = some r ∧ s.pwr.draining = true ∧ drained s = true ∧ (suspendedPages s r 2).isEmpty = true)
      (fun s =>
        let t := (suspendedPages s r 1).foldl (fun s pg => lopCancelled pg s) s
        { t with pwr := { t.pwr with draining := false } }) ∧
    CompletesEval .ladderDrainTimeout (fun s => s.pwr.entering.isSome = true ∧ s.pwr.draining = true) (ladderRefuse 1) ∧
    CompletesEval .hbmSrConfirmTimeout (fun s => s.pwr.entering = some r ∧ 2 ≤ r ∧ s.pwr.draining = false) (ladderRefuse 4) ∧
    CompletesEval .ladderEntryComplete (fun s => s.pwr.entering = some r ∧ s.pwr.draining = false)
      (fun s =>
        let t := entryEffects r s
        let t := moveDone s.ladder r false { t with pwr := { t.pwr with entering := none } }
        logEv pgPWR 0x0201 ((t.wr pgPWR F.PWR_STATUS_STALLED 0).bump pgPWR F.PWR_COUNTS_ENTRIES) s.ladder r) ∧
    CompletesEval .wakeMetReached
      (fun s => atOrAfter 64 s.met (s.rd64 pgPWR F.PWR_WAKE_MET_LO_MET F.PWR_WAKE_MET_HI_MET) = true) (wake 2) ∧
    CompletesEval .ladderExitComplete (fun s => s.pwr.exiting.isSome = true) exitDone ∧
    CompletesEval .redescendExpire (fun s => s.rd pgPWR F.PWR_REDESCEND_US ≠ 0)
      (fun s => { s with pwr := { s.pwr with heldUp := false } }) ∧
    CompletesEval .restAckReceive (fun s => s.flag pgPWR F.PWR_REST_PENDING = true ∧ s.pwr.restWithdrawn = false)
      (fun s => logEv pgPWR 0x0204 (irq pgPWR 3 (restNotes true ((s.wr pgPWR F.PWR_REST_ACKED 1).wr pgPWR F.PWR_REST_PENDING 0)))) ∧
    CompletesEval .restTimeout (fun s => s.flag pgPWR F.PWR_REST_PENDING = true)
      (fun s => logEv pgPWR 0x0205 (irq pgPWR 4 ((s.wr pgPWR F.PWR_REST_PENDING 0).wr pgPWR F.PWR_REST_FAILED 1))) ∧
    CompletesEval .restEndConfirm (fun s => s.pwr.restEnding = true)
      (fun s => { s.wr pgPWR F.PWR_REST_ACKED 0 with pwr := { s.pwr with restEnding := false } }) ∧
    CompletesEval (.restTransitWrite on) (fun _ => True) (fun s => s.wr pgPWR F.PWR_REST_TRANSIT (b2n on))

/-- Operating points, temperature and pace (06 R192-R202, 02 R57-R66). -/
def Obligations.OperatingPointAndSensorCommandsComplete : Prop :=
  ∀ (req o mv cur : Nat) (v : Word) (ts hbm : List Int) (tb : List Nat),
    Completes .oppSettled (fun s => s.pwr.oppTarget = some o) (oppEnd o false) ∧
    Completes .avsNak (fun s => s.pwr.oppTarget = some o ∧ s.pwr.naks < 2)
      (fun s => avsRequest o { s with pwr := { s.pwr with naks := s.pwr.naks + 1 } }) ∧
    Completes .avsNak (fun s => s.pwr.oppTarget = some o ∧ 2 ≤ s.pwr.naks) oppFailed ∧
    Completes .oppSettleTimeout (fun s => s.pwr.oppTarget.isSome = true) oppFailed ∧
    (∀ s, s.chip.inReset = false →
      ∃ t w, exec (.avsTelemetryPoll mv cur) s = .next t ∧ (w = mv * cur / 1000 ∨ (w = mv * cur / 1000 + 1 ∧ mv * cur % 1000 ≠ 0)) ∧
        t.rd pgPVT F.PVT_CORE_MV = mv % 2 ^ 16 ∧ t.rd pgPVT F.PVT_CORE_CURRENT = cur % 2 ^ 16 ∧
        t.rd pgPVT F.PVT_CORE_W_POWER = min w 65535) ∧
    CompletesEval (.thermalSample ts hbm) (fun _ => True) (thermalSampleEffect ts hbm) ∧
    (bitOf v.toNat 0 = true →
      WriteCompletes (.pvtClearSeen req v) req (pgPVT + 0x11C) (fun s => s.setWord (pgPVT + 0x120) 0) ∧
      WriteCompletes (.paceClearSeen req v) req (pgPACE + 0x114) (fun s =>
        ((((s.wr pgPACE F.PACE_PACE_CTRL_WINDOW (v.toNat / 2)).setWord (pgPACE + 0x108) 0).wr pgPACE F.PACE_TB_MIN_SEEN_VALUE
          0xFFFF).wr pgPACE F.PACE_OVER_COUNT_COUNT 0))) ∧
    Completes (.paceWindowEnd tb) (fun s => s.ladder < 2 ∧ s.flag pgPACE F.HDR_PAGE_CTRL_ENABLE = true) (paceWindowEndEffect tb)

/-- A tile's control registers and events (07 R210-R229): GO and ABORT, counters, scalars in a stopped state, a row fetch, the end
of its queues, and a wait that lasts too long. -/
def Obligations.TileControlCommandsComplete : Prop :=
  ∀ (req t c off : Nat) (v : Word) (w : List Nat),
    (bitOf v.toNat 0 = true → bitOf v.toNat 1 = false →
      WriteCompletesEval (.tileGo req t v) req (pgTILE t + 0x100) (seqGo t (v.toNat / 32 % 2 ^ 13))) ∧
    (bitOf v.toNat 0 = false → bitOf v.toNat 1 = true →
      WriteCompletesEval (.tileAbort req t v) req (pgTILE t + 0x100) (seqAbort t)) ∧
    CompletesEval (.tileRowFetch t) (fun s => s.issuing t = true ∧ headWords t s = none) (tileRowFetchEffect t) ∧
    CompletesEval (.tileQueuesEmpty t) (fun s => queuesEmpty (s.tile t) = true ∧ s.seqState t = stENDING)
      (fun s => irq (pgTILE t) 0 (setSeqState t stIDLE s)) ∧
    CompletesEval (.tileQueuesEmpty t)
      (fun s => queuesEmpty (s.tile t) = true ∧ (s.seqState t = stQUIESCING ∨ s.seqState t = stDRAINING)) (tileQueuesEmptyEffect t) ∧
    WriteCompletesEval (.tileCounterWrite req t c v) req (pgTILE t + fldOff F.TILE_C_VALUE c 0)
      (fun s => s.wr (pgTILE t) F.TILE_C_VALUE v.toNat c) ∧
    CompletesEval (.tileScalarWrite req t off v)
      (fun s => checkWrite s req (pgTILE t + off) = .ok ∧ stoppedState (s.seqState t) = true)
      (fun s => customMark req (pgTILE t + off - (pgTILE t + off) % 0x1000) ((pgTILE t + off) % 0x1000) (s.setWord (pgTILE t + off) v)) ∧
    CompletesEval (.tileWaitTimeout t)
      (fun s => s.issuing t = true ∧ s.rd (pgTILE t) F.TILE_SEQ_STATUS_BLOCK = 1 ∧ s.rd (pgTILE t) F.TILE_WAIT_LIMIT_US ≠ 0 ∧
        headWords t s = some w ∧ (s.tile t).waitMet = false ∧ waitDone t w s = false)
      (fun s => tileExc t 8 engSEQ (s.cp t) (hWCTR w) s) ∧
    CompletesEval (.tileWaitTimeout t)
      (fun s => s.issuing t = true ∧ s.rd (pgTILE t) F.TILE_SEQ_STATUS_BLOCK = 1 ∧ s.rd (pgTILE t) F.TILE_WAIT_LIMIT_US ≠ 0 ∧
        headWords t s = some w ∧ (s.tile t).waitMet = true)
      (fun s => tileExc t 8 engSEQ (s.cp t) 0xF s) ∧
    WriteCompletesEval (.tilePerfClear req t v) req (pgTILE t + 0x134) (perfCtrlWrite t v.toNat) ∧
    (bitOf v.toNat 31 = true →
      WriteCompletesEval (.tileSramEccClear req t v) req (pgTILE t + 0x130) (fun s => s.setWord (pgTILE t + 0x130) 0)) ∧
    (bitOf v.toNat 1 = true →
      WriteCompletesEval (.tileEccInject req t v) req (pgTILE t + 0x414) (fun s => s.modTile t fun x => { x with inject := 2 })) ∧
    (bitOf v.toNat 1 = false → bitOf v.toNat 0 = true →
      WriteCompletesEval (.tileEccInject req t v) req (pgTILE t + 0x414) (fun s => s.modTile t fun x => { x with inject := 1 }))

/-- The sequencer-local score commands of flow (08 R245, R246): with the command ready at the head it issues; NOP and END, a JUMP
to its target, LOOP by its counter, BRS by its condition, BREAK's exception, and WAIT_MET once the Metronome is there. -/
def Obligations.ScoreFlowCommandsComplete : Prop :=
  ∀ (t : Nat) (w : List Nat),
    CompletesEval (.scNop t) (Ready 0x00 t w) (fun s => advance t (issued t w id s)) ∧
    CompletesEval (.scEnd t) (Ready 0x01 t w) (fun s => setSeqState t stENDING (issued t w id s)) ∧
    CompletesEval (.scJump t) (Ready 0x02 t w) (fun s => jumpTo t (wf w 3 0 13) (issued t w id s)) ∧
    CompletesEval (.scLoop t) (fun s => Ready 0x03 t w s ∧ 1 < s.lc t (wf w 3 16 2))
      (fun s => jumpTo t (wf w 3 0 13) (issued t w (fun u => if u.lc t (wf w 3 16 2) = 0 then u else
        u.wr (pgTILE t) F.TILE_LC_VALUE (u.lc t (wf w 3 16 2) - 1) (wf w 3 16 2)) s)) ∧
    CompletesEval (.scLoop t) (fun s => Ready 0x03 t w s ∧ s.lc t (wf w 3 16 2) ≤ 1)
      (fun s => advance t (issued t w (fun u => if u.lc t (wf w 3 16 2) = 0 then u else
        u.wr (pgTILE t) F.TILE_LC_VALUE (u.lc t (wf w 3 16 2) - 1) (wf w 3 16 2)) s)) ∧
    CompletesEval (.scBrs t)
      (fun s => Ready 0x04 t w s ∧ brsCond (wf w 3 8 3) (s.sreg t (wf w 3 0 4)) (s.sreg t (wf w 3 4 4)) = true)
      (fun s => jumpTo t (wf w 4 0 13) (issued t w id s)) ∧
    CompletesEval (.scBrs t)
      (fun s => Ready 0x04 t w s ∧ brsCond (wf w 3 8 3) (s.sreg t (wf w 3 0 4)) (s.sreg t (wf w 3 4 4)) = false)
      (fun s => advance t (issued t w id s)) ∧
    CompletesEval (.scBreak t) (Ready 0x05 t w) (fun s => tileExc t 0xA engSEQ (s.cp t) (wf w 3 0 16) (issued t w id s)) ∧
    CompletesEval (.scWaitMet t)
      (fun s => Ready 0x06 t w s ∧ bitOf (w.getD 3 0) 4 = false ∧ atOrAfter 64 s.met (imm64 w) = true)
      (fun s => advance t (issued t w id s)) ∧
    CompletesEval (.scWaitMet t)
      (fun s => Ready 0x06 t w s ∧ bitOf (w.getD 3 0) 4 = true ∧
        atOrAfter 64 s.met ((s.sreg t (wf w 3 0 4) + imm64 w) % 2 ^ 64) = true)
      (fun s => advance t (issued t w id s))

/-- The sequencer-local score commands of counters and scalars (08 R247, R248, Table 8.6): with the command ready at the head, its
counter, scalar or loop counter takes its value, its signal is sent, and the next command is due. -/
def Obligations.ScoreScalarCommandsComplete : Prop :=
  ∀ (t : Nat) (w : List Nat),
    CompletesEval (.scCset t) (fun s => Ready 0x10 t w s ∧ bitOf (w.getD 3 0) 3 = false)
      (fun s => advance t (issued t w (fun u => u.wr (pgTILE t) F.TILE_C_VALUE (w.getD 4 0) (wf w 3 0 3)) s)) ∧
    CompletesEval (.scCset t) (fun s => Ready 0x10 t w s ∧ bitOf (w.getD 3 0) 3 = true)
      (fun s => advance t (issued t w (fun u =>
        u.wr (pgTILE t) F.TILE_C_VALUE ((u.sreg t (wf w 3 4 4) + w.getD 4 0) % 2 ^ 32) (wf w 3 0 3)) s)) ∧
    CompletesEval (.scCadd t) (Ready 0x11 t w)
      (fun s => advance t (issued t w (fun u =>
        u.wr (pgTILE t) F.TILE_C_VALUE (u.tc t (wf w 3 0 3) + w.getD 4 0) (wf w 3 0 3)) s)) ∧
    CompletesEval (.scSli t) (Ready 0x20 t w) (fun s => advance t (issued t w (setSreg t (wf w 3 0 4) (imm64 w)) s)) ∧
    CompletesEval (.scSaddi t) (Ready 0x21 t w)
      (fun s => advance t (issued t w (fun u => setSreg t (wf w 3 0 4) ((u.sreg t (wf w 3 4 4) + imm64 w) % 2 ^ 64) u) s)) ∧
    CompletesEval (.scSalu t) (Ready 0x22 t w)
      (fun s => advance t (issued t w (fun u => setSreg t (wf w 3 0 4)
        (saluOp (wf w 3 12 4) (BitVec.ofNat 64 (u.sreg t (wf w 3 4 4))) (BitVec.ofNat 64 (u.sreg t (wf w 3 8 4)))).toNat u) s)) ∧
    (∀ (src : Nat) (val : State → Nat),
      (src, val) ∈ [(0, fun u => u.tc t (wf w 3 8 3)), (1, fun u => u.lc t (wf w 3 8 3)), (2, fun u => u.met),
        (3, fun u => u.chipNum), (4, fun _ => t)] →
      CompletesEval (.scSget t) (fun s => Ready 0x23 t w s ∧ wf w 3 4 4 = src)
        (fun s => advance t (issued t w (fun u => setSreg t (wf w 3 0 4) (val u) u) s))) ∧
    CompletesEval (.scLset t) (fun s => Ready 0x30 t w s ∧ bitOf (w.getD 3 0) 3 = false)
      (fun s => advance t (issued t w (fun u => u.wr (pgTILE t) F.TILE_LC_VALUE (w.getD 4 0) (wf w 3 0 2)) s)) ∧
    CompletesEval (.scLset t) (fun s => Ready 0x30 t w s ∧ bitOf (w.getD 3 0) 3 = true)
      (fun s => advance t (issued t w (fun u =>
        u.wr (pgTILE t) F.TILE_LC_VALUE ((u.sreg t (wf w 3 4 4) + w.getD 4 0) % 2 ^ 32) (wf w 3 0 2)) s))

/-- The score commands of the engines (08 R249-R263, 09, 10): with the command ready at the head and room in its engine's queue it
joins the queue with the operands of that moment, and the next command is due; the oldest command of an engine completes with the
engine's work. -/
def Obligations.ScoreEngineCommandsComplete : Prop :=
  ∀ (t : Nat) (w : List Nat),
    (∀ (c : Instr) (op : Nat),
      (c, op) ∈ [(Instr.scDmaGet t, 0x40), (.scDmaPut t, 0x41), (.scStoreImm t, 0x44), (.scAtomic t, 0x48)] →
      CompletesEval c (fun s => Ready op t w s ∧ ((s.tile t).queue engDMA).length < queueLimit s t engDMA)
        (fun s => dmaPump t 64 (advance t (perfIssued t (s.modTile t fun x =>
          { x.setQueue engDMA ((s.tile t).queue engDMA ++ [jobOf t w s]) with jids := x.jids + 1 }))))) ∧
    (∀ (c : Instr) (op : Nat),
      (c, op) ∈ [(Instr.scVop t, 0x80), (.scVred t, 0x81), (.scVfuse t, 0x82), (.scVrms t, 0x84), (.scVsmax1 t, 0x85),
        (.scVsmax2 t, 0x86)] →
      CompletesEval c (fun s => Ready op t w s ∧ ((s.tile t).queue engVXU).length < queueLimit s t engVXU)
        (fun s => advance t (perfIssued t (s.modTile t fun x =>
          { x.setQueue engVXU ((s.tile t).queue engVXU ++ [jobOf t w s]) with jids := x.jids + 1 })))) ∧
    CompletesEval (.scMxuDrain t) (fun s => Ready 0x62 t w s ∧ ((s.tile t).queue engMXU).length < queueLimit s t engMXU)
      (fun s => advance t (perfIssued t (s.modTile t fun x =>
        { x.setQueue engMXU ((s.tile t).queue engMXU ++ [jobOf t w s]) with jids := x.jids + 1 }))) ∧
    CompletesEval (.scMxuStage t) (fun s => Ready 0x60 t w s ∧ ((s.tile t).queue engMXU).length < queueLimit s t engMXU)
      (fun s => advance t (perfIssued t (s.modTile t fun x =>
        { x.setQueue engMXU ((s.tile t).queue engMXU ++ [jobOf t w s]) with
          jids := x.jids + 1, wrec := x.wrec.set (wf w 3 19 1) (some (wf w 5 12 4, wf w 5 0 11)) }))) ∧
    CompletesEval (.scMxuMma t)
      (fun s => Ready 0x61 t w s ∧ ((s.tile t).queue engMXU).length < queueLimit s t engMXU ∧ bitOf (w.getD 3 0) 20 = true)
      (fun s => advance t (perfIssued t (s.modTile t fun x =>
        { x.setQueue engMXU ((s.tile t).queue engMXU ++ [jobOf t w s]) with
          jids := x.jids + 1, arec := x.arec.set (wf w 3 18 1) (accType (wf w 5 12 4)) }))) ∧
    CompletesEval (.scMxuMma t)
      (fun s => Ready 0x61 t w s ∧ ((s.tile t).queue engMXU).length < queueLimit s t engMXU ∧ bitOf (w.getD 3 0) 20 = false)
      (fun s => advance t (perfIssued t (s.modTile t fun x =>
        { x.setQueue engMXU ((s.tile t).queue engMXU ++ [jobOf t w s]) with jids := x.jids + 1 }))) ∧
    (∀ (j : Job) (rest : List Job),
      CompletesEval (.engineCommandComplete t .dma)
        (fun s => (s.tile t).queue engDMA = j :: rest ∧ j.allSent = true ∧ j.inflight = 0 ∧ j.fault = none)
        (fun s => dmaPump t 64 (signal t j.cp engDMA j.tc j.w j.desc (s.modTile t fun x => x.setQueue engDMA rest))) ∧
      CompletesEval (.engineCommandComplete t .mxu)
        (fun s => (s.tile t).queue engMXU = j :: rest ∧ (runMxu t j.w s).1 = none)
        (fun s => signal t j.cp engMXU j.tc j.w j.desc ((runMxu t j.w s).2.modTile t fun x => x.setQueue engMXU rest)) ∧
      CompletesEval (.engineCommandComplete t .vxu)
        (fun s => (s.tile t).queue engVXU = j :: rest ∧ (runVxu t j.w s).1 = none)
        (fun s => signal t j.cp engVXU j.tc j.w j.desc ((runVxu t j.w s).2.modTile t fun x => x.setQueue engVXU rest)))

/-- Packets of the Rink (12 R343-R358, 07 R219): a request is delivered at its target, a counter signal adds to its counter, a
response returns to the request it answers, a request that got no answer fails with TIMEOUT and its tag is quarantined, and a
packet for another chip goes to routing. -/
def Obligations.RinkCommandsComplete : Prop :=
  ∀ (k tag : Nat) (p : Packet) (x : Track),
    CompletesEval (.requestDelivery k)
      (fun s => s.rink[k]? = some p ∧ p.dst = s.chipNum ∧ isRequest p = true ∧ fromHost p = false ∧ waitsOnRink s p = false)
      (fun s => deliver p { s with rink := s.rink.eraseIdx k }) ∧
    CompletesEval (.requestDelivery k)
      (fun s => s.rink[k]? = some p ∧ p.dst = s.chipNum ∧ isRequest p = true ∧ fromHost p = true)
      (fun s => deliverHost p { s with rink := s.rink.eraseIdx k }) ∧
    CompletesEval (.counterSignalReceive k)
      (fun s => s.rink[k]? = some p ∧ p.op = opCSIG ∧ p.dst = s.chipNum ∧ isRequest p = true ∧ fromHost p = false ∧
        waitsOnRink s p = false)
      (fun s => deliver p { s with rink := s.rink.eraseIdx k }) ∧
    CompletesEval (.responseReceive k) (fun s => s.rink[k]? = some p ∧ p.dst = s.chipNum ∧ isResponse p = true)
      (fun s => receive p { s with rink := s.rink.eraseIdx k }) ∧
    CompletesEval (.remoteAccessTimeout tag) (fun s => trackOf s tag = some x ∧ x.quar = false)
      (fun s => endpointResult x .timeout
        { s with outst := s.outst.map fun y => if y.ep = x.ep && y.ctx = x.ctx then { y with quar := true, use := 0 } else y }) ∧
    CompletesEval (.remoteAccessTimeout tag) (fun s => trackOf s tag = some x ∧ x.quar = true) (untrack x) ∧
    CompletesEval (.egressEnqueue k) (fun s => s.rink[k]? = some p ∧ p.dst ≠ s.chipNum)
      (fun s => route p { s with rink := s.rink.eraseIdx k })

/-- HBM controllers (11 R321-R328): an access is served, a long operation starts and each of its units advances it, patrol takes its
next unit, repair starts by itself, and a lost pseudo-channel is fatal. -/
def Obligations.MemoryControllerCommandsComplete : Prop :=
  ∀ (req n ix lane err c : Nat) (x : Nat) (rest : List (Nat × Nat)) (v : Word) (ok late : Bool),
    CompletesEval (.mcuAccess n ix lane err) (fun s => s.ladder < 2) (mcuServe n ix lane err) ∧
    CompletesEval (.mcuAutoRepairStart n)
      (fun s => (s.mcu n).failing = (c, x) :: rest ∧ s.flag (pgMCU n) F.MCU_MCU_CFG_AUTO_REPAIR = true ∧
        s.lopActive (pgMCU n) = false ∧ s.running (pgMCU n) = true)
      (fun s => let t := lopAccept (pgMCU n) 3 s
                retrainBegin n { t with lopArgs := fset (fun _ => []) t.lopArgs (pgMCU n) [c, 1, 0xF, 0] }) ∧
    CompletesEval (.patrolUnit n)
      (fun s => s.flag (pgMCU n) F.MCU_PATROL_EN = true ∧ s.ladder < 2 ∧ s.rd (pgMCU n) F.MCU_PATROL_PROG_UNIT ≠ 65535)
      (fun s => (correctUnit n (s.rd (pgMCU n) F.MCU_PATROL_PROG_UNIT) s).2.wr (pgMCU n) F.MCU_PATROL_PROG_UNIT
        (s.rd (pgMCU n) F.MCU_PATROL_PROG_UNIT + 1)) ∧
    CompletesEval (.patrolUnit n)
      (fun s => s.flag (pgMCU n) F.MCU_PATROL_EN = true ∧ s.ladder < 2 ∧ s.rd (pgMCU n) F.MCU_PATROL_PROG_UNIT = 65535)
      (fun s => irq (pgMCU n) 5 (((correctUnit n 65535 s).2.wr (pgMCU n) F.MCU_PATROL_PROG_UNIT 0).bump (pgMCU n)
        F.MCU_PATROL_PROG_PASSES)) ∧
    CompletesEval (.mcuPcLost n ix) (fun s => pcOnline s n ix = true) (raiseEv (pgMCU n) 0x4406 mgmt) ∧
    WriteCompletesEval (.mcuInitStart req n) req (pgMCU n + 0x40) (mcuInitStart req n) ∧
    CompletesEval (.mcuInitPcTrained n ok) (fun s => lopRuns s (pgMCU n) 1 = true) (mcuInitPcTrainedEffect n ok) ∧
    WriteCompletesEval (.mcuScrubStart req n) req (pgMCU n + 0x40) (mcuScrubStart req n) ∧
    CompletesEval (.mcuScrubUnitDone n) (fun s => lopRuns s (pgMCU n) 2 = true) (mcuScrubUnitDoneEffect n) ∧
    WriteCompletesEval (.mcuRetrainStart req n) req (pgMCU n + 0x40) (mcuRetrainStart req n) ∧
    CompletesEval (.mcuRetrainVblankReady n late)
      (fun s => lopRuns s (pgMCU n) 3 = true ∧ (s.mcu n).vbWait = true ∧ s.lop (pgMCU n) = lopCANCELLING)
      (fun s => lopCancelled (pgMCU n) (s.modMcu n fun x => { x with vbWait := false })) ∧
    CompletesEval (.mcuRetrainVblankReady n late)
      (fun s => lopRuns s (pgMCU n) 3 = true ∧ (s.mcu n).vbWait = true ∧ s.lop (pgMCU n) ≠ lopCANCELLING ∧
        (late = true ∨ ((scanningHeads s (s.lopArg (pgMCU n) 2 % 16)).all fun h => s.flag (pgDH h) F.DH_STATUS_IN_VBLANK) = true))
      (retrainPause n late) ∧
    CompletesEval (.mcuRetrainDone n) (fun s => lopRuns s (pgMCU n) 3 = true ∧ (s.mcu n).vbWait = false) (mcuRetrainDone n) ∧
    CompletesEval (.mcuRetrainPauseTimeout n)
      (fun s => lopRuns s (pgMCU n) 3 = true ∧ s.flag (pgMCU n) F.MCU_STATUS_PAUSED = true)
      (fun s => lopFail (pgMCU n) resTIMEOUT 0 (retrainEnd n s)) ∧
    (bitOf v.toNat 0 = true → WriteCompletesEval (.mcuEccClear req n v) req (pgMCU n + 0x124)
      fun s => s.zeroWords [pgMCU n + 0x114, pgMCU n + 0x118, pgMCU n + 0x11C, pgMCU n + 0x120]) ∧
    (bitOf v.toNat 0 = false → WriteCompletesEval (.mcuEccClear req n v) req (pgMCU n + 0x124) id) ∧
    (bitOf v.toNat 1 = true → WriteCompletesEval (.mcuInject req n v) req (pgMCU n + 0x418)
      fun s => s.modMcu n fun x => { x with inject := 2 }) ∧
    (bitOf v.toNat 1 = false → bitOf v.toNat 0 = true → WriteCompletesEval (.mcuInject req n v) req (pgMCU n + 0x418)
      fun s => s.modMcu n fun x => { x with inject := 1 })

/-- The memory quality page (11 R314-R316, R329-R330): IMAP and RES writes, the end of a window, and an aged host access. -/
def Obligations.MemoryQualityCommandsComplete : Prop :=
  ∀ (req n ix : Nat) (hi : Bool) (v : Word),
    WriteCompletesEval (.memqImapWrite req hi v) req (pgMEMQ + 0x108 + 4 * b2n hi) (imapWrite hi v.toNat) ∧
    WriteCompletesEval (.memqResWrite req v) req (pgMEMQ + 0x100)
      (fun s => (s.wr pgMEMQ F.MEMQ_RES_DISPLAY_RES (v.toNat % 64)).wr pgMEMQ F.MEMQ_RES_CAMERA_RES
        (min (v.toNat / 256 % 64) (32 - min (v.toNat % 64) 32))) ∧
    CompletesEval (.memqWindowEnd n) (fun _ => True) (memqWindowEndEffect n) ∧
    CompletesEval (.memqHostAged n ix) (fun s => s.rd pgMEMQ F.MEMQ_HOST_AGE_US ≠ 0) (memqHostAgedEffect n ix)

/-- Ports of the Voano links (13 R363-R369, R381-R390): enable and disable, the split, training and identities, retries, loss of
the partner, and REST notes. -/
def Obligations.LinkPortCommandsComplete : Prop :=
  ∀ (req n j g k : Nat) (v tx rx inv okm echo : Word) (eq : List Word) (p : Packet) (begin : Bool),
    WriteCompletesEval (.lxPortEnable req n j v) req (pgLX n + 0x140 + 0x40 * j) (pctrlWrite n j v.toNat) ∧
    WriteCompletesEval (.lxPortDisable req n j v) req (pgLX n + 0x140 + 0x40 * j) (pctrlWrite n j v.toNat) ∧
    WriteCompletes (.lxSplitWrite req n v) req (pgLX n + 0x100) (lxCfgWrite n v.toNat) ∧
    Completes (.lxSplitApply n) (fun s => s.flag (pgLX n) F.LX_CFG_STATUS_SPLIT_PENDING = true ∧ portsDown s n = true)
      (fun s =>
        let t := (s.wr (pgLX n) F.LX_CFG_STATUS_SPLIT_NOW (s.rd (pgLX n) F.LX_CFG_SPLIT)).wr (pgLX n) F.LX_CFG_STATUS_SPLIT_PENDING 0
        (List.range 4).foldl (fun s j =>
          let s := deriveDepth n j (deriveCredits n j s)
          if portExists s (4 * n + j) then s
          else setPortState (4 * n + j) 0 (s.wr (pgLX n) F.LX_PCTRL_EN 0 0 j)) t) ∧
    WriteCompletesEval (.lxRetrainStart req n) req (pgLX n + 0x40) (lxRetrainStart req n) ∧
    CompletesEval (.lxTrainingComplete g tx rx inv eq) (fun s => portState s g = 1 ∧ s.chip.refLnk = true)
      (trainingEnds g tx.toNat rx.toNat inv.toNat eq) ∧
    CompletesEval (.lxTrainingFail g okm) (fun s => portState s g = 1)
      (fun s => trainingFails g (lanesIn okm.toNat (portLanes s g)) s) ∧
    CompletesEval (.lxIdentReceive g p) (fun s => p.op = 0x30 ∧ p.data.length = 48 ∧ portState s g = 2)
      (fun s => let t := agentSend g { floodPacket s 7 0x31 1 (p.data.take 4) with port := g } s
                if portState t g = 2 then identComplete g (identRecord g p t) else t) ∧
    CompletesEval (.lxIdentAckReceive g echo)
      (fun s => portState s g = 2 ∧ echo.toNat = payloadAt (identPacket s g).data 0 4)
      (fun s => identComplete g (s.modPort g fun p => { p with gotAck := true })) ∧
    Completes (.lxIdentResend g) (fun s => portState s g = 2 ∧ (s.port g).gotAck = false)
      (fun s => agentSend g (identPacket s g) s) ∧
    CompletesEval (.lxNakWaitTimeout g)
      (fun s => portUp s g = true ∧ (s.port g).nak = true ∧ (s.port g).nakTries < s.rd (pgLX (g / 4)) F.LX_REPLAY_MAX 0 (g % 4))
      (fun s => addItem g 2 (s.port g).rxWant 0 (s.setPort g { s.port g with nakTries := (s.port g).nakTries + 1 })) ∧
    CompletesEval (.lxNakWaitTimeout g)
      (fun s => portUp s g = true ∧ (s.port g).nak = true ∧ s.rd (pgLX (g / 4)) F.LX_REPLAY_MAX 0 (g % 4) ≤ (s.port g).nakTries)
      (portLost g 3) ∧
    CompletesEval (.lxPartnerLoss g) (fun s => portUp s g = true) (partnerLost g) ∧
    CompletesEval (.lxRetrainRetry g)
      (fun s => s.flag (pgLX (g / 4)) F.LX_PCTRL_EN 0 (g % 4) = true ∧ (portState s g = 0 ∨ portState s g = 6))
      (startTraining g 0 true) ∧
    Completes (.lxRestNoteReceive g begin) (fun s => portUp s g = true) (restNoteReceive g begin) ∧
    CompletesEval (.lxPartnerSignalReturn g) (fun s => portState s g = 5 ∧ s.ladder ≤ 2) (startTraining g 2 true) ∧
    CompletesEval (.refclkLnkLoss false) (fun _ => True)
      (fun s => (List.range 24).foldl (fun s g => if portUp s g then portLost g 1 s else s)
        { s with chip := { s.chip with refLnk := false } }) ∧
    Completes (.rteSettleEnd k) (fun s => (s.port k).settling = true)
      (fun s => let t := s.modPort k fun p => { p with settling := false }
                if portUp t k then fabPortEvent (.portUp k) k t else t)

/-- Lanes of the links (13 R382-R387): a lane loses lock, is retrained or tested, and the lane and port counters clear. -/
def Obligations.LinkLaneCommandsComplete : Prop :=
  ∀ (req n j k errs : Nat) (v : Word) (ok : Bool),
    CompletesEval (.lxLaneLockLoss n k) (fun _ => True) (fun s => laneFails n k (s.wr (pgLX n) F.LX_LANE_LOCK 0 k)) ∧
    CompletesEval (.lxAutoLaneRetrainStart n)
      (fun s => ((List.range 32).find? fun k => s.flag (pgLX n) F.LX_LANE_FAILING k && !s.flag (pgLX n) F.LX_LANE_BAD k &&
          !s.flag (pgLX n) F.LX_LANE_RX_USE k && portState s (portOfLane s n k) = 3) = some k ∧
        s.flag (pgLX n) F.LX_CFG_AUTO_LANE_RETRAIN = true ∧ s.lopActive (pgLX n) = false ∧ s.running (pgLX n) = true ∧
        s.avail (pgLX n) = true)
      (fun s => let t := lopAccept (pgLX n) 1 s
                { t with lopArgs := fset (fun _ => []) t.lopArgs (pgLX n) [portOfLane t n k % 4, 3, 2 ^ k, 0] }) ∧
    CompletesEval (.lxLaneTrained n k ok)
      (fun s => lopRuns s (pgLX n) 1 = true ∧ s.lopArg (pgLX n) 1 % 4 = 3 ∧ bitOf (s.lopArg (pgLX n) 2) k = true)
      (lxLaneTrainedEffect n k ok) ∧
    WriteCompletesEval (.lxLaneTestStart req n) req (pgLX n + 0x40) (lxLaneTestStart req n) ∧
    CompletesEval (.lxLaneTestUnitDone n errs) (fun s => lopRuns s (pgLX n) 2 = true) (lxLaneTestUnitDoneEffect n errs) ∧
    (bitOf v.toNat 0 = true →
      WriteCompletes (.lxLaneClr req n v) req (pgLX n + 0x108) (fun s =>
        (List.range 32).foldl (fun s k => (s.wr (pgLX n) F.LX_LANE_SYM_ERR 0 k).wr (pgLX n) F.LX_LANE_RETRAINS 0 k) s)) ∧
    (bitOf v.toNat 0 = false → WriteCompletes (.lxLaneClr req n v) req (pgLX n + 0x108) id) ∧
    ClearCompletes (.lxPclear req n j) req (pgLX n + 0x170 + 0x40 * j)
      ((List.range 4).map fun i => pgLX n + 0x158 + 0x40 * j + 4 * i) id

/-- Codewords and their header items (13 R370-R379, R385-R389): on an active port that awaits no REPLAY, a codeword that decodes
without a corrected symbol has the effect of its item and, when numbered, delivers its flits; the timers send what is due. -/
def Obligations.CodewordCommandsComplete : Prop :=
  ∀ (g n c ix hb : Nat) (add : Bool) (cw : Codeword),
    CompletesEval (.lxCodewordReceive g cw)
      (fun s => portUp s g = true ∧ cw.ok = true ∧ cw.sym = [] ∧ ((s.port g).nak = false ∨ cw.kind = 4))
      (fun s => let t := itemEffect g cw.kind cw.arg cw.aux s
                if cw.num then codewordNumbered g cw t else t) ∧
    CompletesEval (.lxCodewordReceive g cw) (fun s => portUp s g = true ∧ cw.ok = false) (codewordBad g) ∧
    (∀ (i : Instr) (kind arg aux : Nat),
      (i, kind, arg, aux) ∈ [(Instr.lxCwAck g n, 1, n, 0), (.lxCwNak g n, 2, n, 0), (.lxCwCredit g c n, 3, n - 1, c),
        (.lxCwDropReq g ix, 5, ix, 0), (.lxCwAddReq g ix, 5, ix, 1), (.lxCwMap g ix add, 5, ix + 32 * b2n add, 2),
        (.lxCwTestStart g ix, 5, ix, 3), (.lxCwTestStop g ix, 5, ix, 4), (.lxCwSleep g hb, 6, hb, 0), (.lxCwWakeReq g, 6, 0, 1),
        (.lxCwAwake g, 6, 0, 2), (.lxCwHeartbeat g, 6, 0, 3)] →
      CompletesEval i (fun s => portUp s g = true ∧ (s.port g).nak = false) (itemEffect g kind arg aux)) ∧
    CompletesEval (.lxCwReplay g n) (fun s => portUp s g = true) (itemEffect g 4 n 0) ∧
    Completes (.lxAckTimer g) (fun s => portUp s g = true ∧ 0 < (s.port g).rxDue)
      (fun s => addItem g 1 (((s.port g).rxWant + 4095) % 4096) 0 (s.setPort g { s.port g with rxDue := 0 })) ∧
    CompletesEval (.lxSleepBurst g) (fun s => portState s g = 4) (sleepBurst g)

/-- Scheduling, policing and routing (14 R400-R414, 15 R427-R450): the head packet of a receive buffer passes by its policer, the
scheduler picks, counters clear, and the routing registers act. -/
def Obligations.RoutingCommandsComplete : Prop :=
  ∀ (req g c n j z a i : Nat) (v : Word) (p : Packet) (d : Nat × Nat),
    CompletesEval (.ingressPolice g c)
      (fun s => rxHead s g c = some p ∧ ((s.port g).delayed.any fun d => d.1 = c) = false ∧ (6 ≤ c ∨ depth s < 2) ∧
        policerOf (tspAdvance g s) g p = none)
      (fun s => passRx g p (tspAdvance g s)) ∧
    CompletesEval (.ingressPolice g c)
      (fun s => rxHead s g c = some p ∧ ((s.port g).delayed.any fun d => d.1 = c) = false ∧ (6 ≤ c ∨ depth s < 2) ∧
        policerOf (tspAdvance g s) g p = some i)
      (fun s => if hasToken (tspAdvance g s) g i then passRx g p (takeToken g i (tspAdvance g s))
                else policeAction g i p (tspAdvance g s)) ∧
    CompletesEval (.policerDelayRelease g c)
      (fun s => rxHead s g c = some p ∧ ((s.port g).delayed.find? fun d => d.1 = c) = some d ∧ tspOn (tspAdvance g s) g = true ∧
        hasToken (tspAdvance g s) g d.2 = true)
      (fun s => passRx g p (takeToken g d.2 (tspAdvance g s))) ∧
    CompletesEval (.policerDelayRelease g c)
      (fun s => rxHead s g c = some p ∧ ((s.port g).delayed.find? fun d => d.1 = c) = some d ∧ tspOn (tspAdvance g s) g = false)
      (fun s => passRx g p (tspAdvance g s)) ∧
    Completes (.linkSchedulerPick g) (fun s => portState s g = 3) (schedule g) ∧
    ClearCompletes (.tspClear req n) req (pgTSP n + 0x100) ((List.range 4).flatMap (tspCounterWords n)) id ∧
    ClearCompletes (.tspPclear req n j) req (pgTSP n + 0x178 + 0x40 * j) (tspCounterWords n j) id ∧
    WriteCompletes (.rteZpeerWrite req z v) req (pgRTE + 0x300 + 4 * z) (zpeerWrite req z v.toNat) ∧
    Completes (.rteTableWrite req a v) (fun _ => inRteWindow a = true) (rteTableWrite req a v) ∧
    WriteCompletes (.rteCtxAlloc req v) req (pgRTE + 0x108) (ctxAlloc req v.toNat) ∧
    WriteCompletes (.rteCtxFree req v) req (pgRTE + 0x108) (ctxAlloc req v.toNat) ∧
    WriteCompletes (.rteCtxActiveWrite req c v) req (pgRTE + 0x120 + 4 * c) (ctxActive req c v.toNat) ∧
    ClearCompletes (.rteCntClr req) req (pgRTE + 0x1C0) ((List.range 8).map fun i => pgRTE + 0x1A0 + 4 * i) id

/-- The Metronome and downbeat snapshots (17 R486-R506): beacons, losses, the coherent read of NOW, and the triggers, schedules and
latches of SNP. -/
def Obligations.MetronomeAndSnapshotCommandsComplete : Prop :=
  ∀ (req g : Nat) (v : Word) (p : Packet),
    Completes .metBeaconSend (fun _ => True) beaconPeriod ∧
    Completes (.metBeaconReceive g p)
      (fun s => p.op = 0x3B ∧ p.data.length = 40 ∧ portUp s g = true ∧
        (metChoose (noteBeacon g p s)).rd pgMET F.MET_STATUS_SRC_PORT ≠ g)
      (fun s => metChoose (noteBeacon g p s)) ∧
    Completes (.metBeaconReceive g p)
      (fun s => p.op = 0x3B ∧ p.data.length = 40 ∧ portUp s g = true ∧
        (metChoose (noteBeacon g p s)).rd pgMET F.MET_STATUS_SRC_PORT = g)
      (beaconReceive g p) ∧
    Completes .metRootLoss (fun s => metFollows s = true)
      (fun s => metChoose (holdover { s with sync := { s.sync with lost := true, recs := s.sync.recs.map fun x =>
        (x.1, if s.sync.root == some x.2.root then { x.2 with live := false } else x.2) } })) ∧
    Completes .metRootLoss
      (fun s => metFollows s = false ∧ bestSource s = none ∧ s.metState = metFREE ∧ s.flag pgMET F.MET_CFG_ROOT_EN = true)
      (fun s => becomeRoot { s with sync := { s.sync with lost := true } }) ∧
    Completes .metHoldoverExpire (fun s => s.metState = metHOLDOVER) (fun s =>
      let t := logEv pgMET 0x2703 (irq pgMET 2 (metEnter metFREE { s with sync := { s.sync with hoLocked := false } }))
      if t.sync.lost && (bestSource t).isNone && t.flag pgMET F.MET_CFG_ROOT_EN then becomeRoot t else t) ∧
    Completes (.metNowRead req) (fun s => served s req pgMET = true ∧ s.avail pgMET = true)
      (fun s => s.wr64 pgMET F.MET_NOW_LO_MET F.MET_NOW_HI_MET s.met) ∧
    ClearCompletes (.metCntClr req) req (pgMET + 0x130) [pgMET + 0x120, pgMET + 0x124] id ∧
    WriteCompletes (.snpFire req v) req (pgSNP + 0x114) (fireWrite v.toNat) ∧
    WriteCompletes (.snpReleaseAll req v) req (pgSNP + 0x114) (fireWrite v.toNat) ∧
    WriteCompletes (.snpReleaseMachine req v) req (pgSNP + 0x114) (fireWrite v.toNat) ∧
    WriteCompletes (.snpArm req v) req (pgSNP + 0x120) (atCtrlWrite v.toNat) ∧
    WriteCompletes (.snpDisarm req v) req (pgSNP + 0x120) (atCtrlWrite v.toNat) ∧
    Completes .snpInEdge (fun s => snpEnabled s 3 = true) (fun s => snpTrigger 3 s.met s) ∧
    Completes (.snpDownbeatReceive p)
      (fun s => p.op = 0x3C ∧ p.data.length = 16 ∧ (snpNewer p (payloadAt p.data 8 4) s).1 = true) (downbeatReceive p) ∧
    Completes (.snpReleaseReceive p)
      (fun s => p.op = 0x3D ∧ p.data.length = 8 ∧ (snpNewer p (payloadAt p.data 0 4) s).1 = true)
      (fun s => releaseAll (flood p (snpNewer p (payloadAt p.data 0 4) s).2)) ∧
    (∀ e, Completes .snpLatch (fun s => dueEntry s = some e ∧ s.snp.lastLatch = none ∧ s.met = e.t)
      (fun s => metReschedule e (snapLatch e e.t false (snpSync { s with snp := { s.snp with pend := s.snp.pend.erase e } })))) ∧
    (∀ e, Completes .snpLatch (fun s => dueEntry s = some e) snpDue) ∧
    (∀ w : Word,
      (bitOf w.toNat 0 = true → WriteCompletes (.snpCntClr req w) req (pgSNP + 0x14C) (fun s =>
        { (s.zeroWords [pgSNP + 0x144]).wr pgSNP F.SNP_LATE_COUNT_COUNT 0 with snp := { s.snp with excessLogged := false } })) ∧
      (bitOf w.toNat 0 = false → WriteCompletes (.snpCntClr req w) req (pgSNP + 0x14C) id)) ∧
    Completes .snapOutFall (fun _ => True) (fun s => { s with snp := { s.snp with pinOut := false } })

/-- Display heads (18 R513-R530): the clock locks and the head runs, lines are fetched, judged and scanned out, frames end, and
genlock follows its reference. -/
def Obligations.DisplayHeadCommandsComplete : Prop :=
  ∀ (req n a k ns : Nat) (v : Word) (falling : Bool),
    CompletesEval (.dhPllLocked n) (fun s => dhState s n = dhSTARTING) (dhPllLockedEffect n) ∧
    CompletesEval (.dhFrameBoundary n) (fun s => dhState s n = dhRUN) (frameBoundary n) ∧
    CompletesEval (.dhFrameBoundary n) (fun s => dhState s n = dhSTOPPING) (dhOff n) ∧
    Completes (.dhVblankStart n) (fun s => scanning s n = true)
      (fun s => dpVblank n (irq (pgDH n) 1 (s.wr (pgDH n) F.DH_STATUS_IN_VBLANK 1))) ∧
    (∀ j, Completes (.dhLineScanout n a k)
      (fun s => scanning s n = true ∧ ((s.head n).jobs.find? fun j => j.line == a) = some j) (dhLineScanoutEffect n a k)) ∧
    Completes (.dhLineFetchStart n a)
      (fun s => scanning s n = true ∧ a < activeV s n ∧ ((s.head n).jobs.any fun j => j.line == a) = false)
      (fun s => unitsStep 4 (s.modHead n fun h => { h with jobs := h.jobs ++ [lineJob s n a] })) ∧
    Completes .dhLineUnitsGrant (fun _ => True) (unitsStep 4) ∧
    (∀ j, Completes (.dhLineDeadline n a)
      (fun s => scanning s n = true ∧ ((s.head n).jobs.find? fun j => j.line == a) = some j ∧ j.complete = false ∧ j.late = false)
      (dhLineDeadlineEffect n a)) ∧
    WriteCompletes (.dhHeadokRearm mgmt n v) mgmt (pgDH n + 0x134) (headokWrite n v.toNat) ∧
    ClearCompletes (.dhCntClr req n) req (pgDH n + 0x174) [pgDH n + 0x14C, pgDH n + 0x150, pgDH n + 0x154, pgDH n + 0x164] id ∧
    (100 ≤ ns → Completes (.genlockPulse falling ns) (fun _ => True)
      (fun s => (List.range 4).foldl (fun s n =>
        if scanning s n && dhNow s n F.DH_GENLOCK_SOURCE = 1 && decide (glState s n ≠ 0)
            && dhNow s n F.DH_GENLOCK_EDGE = b2n falling then glPulse n s else s) s)) ∧
    Completes (.genlockMetInstant n)
      (fun s => scanning s n = true ∧ dhNow s n F.DH_GENLOCK_SOURCE = 2 ∧ glState s n ≠ 0 ∧ atMetInstant s n = true)
      (fun s => glInstant n ((if glState s n = glHOLDOVER then glEnter n glACQUIRING s else s).modHead n fun h =>
        { h with first := false })) ∧
    Completes (.genlockMissTimeout n) (fun s => scanning s n = true ∧ (glState s n = glACQUIRING ∨ glState s n = glLOCKED))
      (fun s => logEv (pgDH n) 0x1806 (glEnter n glHOLDOVER s))

/-- DisplayPort transmitters (18 R531-R540): plug and unplug, training, status polls and AUX transactions. -/
def Obligations.DisplayPortCommandsComplete : Prop :=
  ∀ (req n us rate lanes reply : Nat) (uhbr dsc : Bool) (v : Word) (lv : List Word) (bs : List Byte) (c d : Nat × Nat)
    (r : List (Nat × Nat)) (j : AuxJob),
    Completes (.dptxHpdRise n us) (fun _ => True) (dptxHpdRiseEffect n us) ∧
    Completes (.dptxHpdUnplug n) (fun s => dpSink s n = true) (dptxHpdUnplugEffect n) ∧
    Completes (.dptxHpdUnplug n) (fun s => dpSink s n = false)
      (fun s => (s.wr (pgDPTX n) F.DPTX_HPD_LEVEL 0).wr (pgDPTX n) F.DPTX_HPD_SINK 0) ∧
    Completes (.dptxHpdSettled n rate lanes uhbr dsc) (fun s => dpSink s n = false ∧ s.flag (pgDPTX n) F.DPTX_HPD_LEVEL = true)
      (dptxHpdSettledEffect n rate lanes uhbr dsc) ∧
    Completes (.dptxTrainDone n lv) (fun s => dpState s n = dpTRAINING ∧ (s.head n).cfgs ≠ []) (dptxTrainDoneEffect n lv) ∧
    Completes (.dptxTrainTimeout n) (fun s => dpState s n = dpTRAINING ∧ (s.head n).cfgs = c :: d :: r)
      (fun s => s.modHead n fun h => { h with cfgs := d :: r }) ∧
    Completes (.dptxTrainTimeout n) (fun s => dpState s n = dpTRAINING ∧ (s.head n).cfgs.length ≤ 1) (dpFail n 3) ∧
    Completes (.dptxTrainRetry n) (fun s => dpState s n = dpFAILED ∧ dpSink s n = true) (dpTrain n none) ∧
    Completes (.dptxStatusPoll n true) (fun _ => True) (fun s => s.modHead n fun h => { h with irqWait := false }) ∧
    Completes (.dptxStatusPoll n false) (fun s => dpState s n = dpVALID)
      (fun s => logEv (pgDPTX n) 0x280B (dpLose n 1 dpINVALID (s.modHead n fun h => { h with irqWait := false }))) ∧
    (bitOf v.toNat 0 = true → Completes (.dptxRetrainReq req n v)
      (fun s => checkWrite s req (pgDPTX n + 0x110) = .ok ∧ dpState s n = dpVALID)
      (fun s => customMark req (pgDPTX n + 0x110 - (pgDPTX n + 0x110) % 0x1000) ((pgDPTX n + 0x110) % 0x1000)
        (s.modHead n fun h => { h with retrain := true }))) ∧
    (∀ (i : Instr) (q : Nat),
      (i, q) ∈ [(Instr.auxNativeRead req n v, 0), (.auxNativeWrite req n v, 1), (.auxI2cRead req n v, 2), (.auxI2cWrite req n v, 3)] →
      WriteCompletes i req (pgDPTX n + 0x114) (auxCmd req n q v.toNat)) ∧
    Completes (.dptxAuxReply n reply bs) (fun s => (s.head n).aux = some j) (dptxAuxReplyEffect n reply bs) ∧
    Completes (.dptxAuxTimeout n) (fun s => (s.head n).aux = some j)
      (fun s => auxEnd n 3 0 (s.bump (pgDPTX n) F.DPTX_COUNTS2_AUX_TIMEOUTS)) ∧
    ClearCompletes (.dptxCntClr req n) req (pgDPTX n + 0x134) [pgDPTX n + 0x12C, pgDPTX n + 0x130] id

/-- Commits and display fences (19 R560-R573): GO fetches the record, whose checks accept or reject it; CANCEL discards; fences are
allocated, freed, set and raised. -/
def Obligations.CommitAndFenceCommandsComplete : Prop :=
  ∀ (req n ix : Nat) (v : Word) (c : Commit),
    (bitOf v.toNat 1 = false → CmtWriteCompletes (.cmtCommitGo req n v) req (0x108 + 0x20 * n) (commitGo req n v.toNat)) ∧
    (bitOf v.toNat 1 = true → CmtWriteCompletes (.cmtCommitCancel req n v) req (0x108 + 0x20 * n) (commitCancel n)) ∧
    Completes (.cmtRecordFetched n)
      (fun s => (s.head n).commit = some c ∧ cmtRd s n F.CMT_STATUS_STATE = 1 ∧ c.flying = 0 ∧ c.cancel = false)
      (fun s => match recordCheck s n c with
        | some (chk, off) => commitReject n chk off s
        | none => commitPool n c s) ∧
    Completes (.cmtRecordFetched n)
      (fun s => (s.head n).commit = some c ∧ cmtRd s n F.CMT_STATUS_STATE = 1 ∧ c.flying = 0 ∧ c.cancel = true) (commitDiscard n 6) ∧
    Completes (.cmtRecordTimeout n)
      (fun s => (s.head n).commit = some c ∧ cmtRd s n F.CMT_STATUS_STATE = 1 ∧ c.flying ≠ 0 ∧ c.cancel = false)
      (commitReject n 1 0) ∧
    CmtWriteCompletes (.cmtFenceAlloc req v) req 0x180 (fenceAlloc req v.toNat) ∧
    CmtWriteCompletes (.cmtFenceFree req v) req 0x180 (fenceRelease req v.toNat) ∧
    CmtWriteCompletes (.cmtFenceSet req ix v) req (0x200 + 4 * ix) (fun s => s.wr pgCMT F.CMT_FENCE_VALUE v.toNat ix) ∧
    Completes (.cmtFenceMax req ix v) (fun s => fenceMay s req ix = true) (fenceMax ix v.toNat) ∧
    Completes (.cmtFenceMax req ix v) (fun s => fenceMay s req ix = false) (fun s => fenceDenied req s.chipNum ix s) ∧
    (bitOf v.toNat 0 = true → CmtWriteCompletes (.cmtCntClr req v) req 0x18C
      fun s => s.zeroWords ([pgCMT + 0x184, pgCMT + 0x188] ++ (List.range 4).map fun n => pgCMT + 0x11C + 0x20 * n)) ∧
    (bitOf v.toNat 0 = false → CmtWriteCompletes (.cmtCntClr req v) req 0x18C id)

/-- Protected layers and signatures (19 R559-R561, R575-R579): the buffer window, LOAD and its end, APPLY, and the check of a
region. -/
def Obligations.ProtectionCommandsComplete : Prop :=
  ∀ (req n ix : Nat) (v : Word),
    WriteCompletes (.protWinWrite req n v) req (pgPROT n + 0x11C) (fun s =>
      (s.protWrite n (4 * s.rd (pgPROT n) F.PROT_WIN_ADDR_ADDR) (leBytes 4 v.toNat)).wr (pgPROT n) F.PROT_WIN_ADDR_ADDR
        (s.rd (pgPROT n) F.PROT_WIN_ADDR_ADDR + 1)) ∧
    (bitOf v.toNat 0 = true →
      WriteCompletes (.protLoadStart req n v) req (pgPROT n + 0x130) (protLoadStart req n v.toNat) ∧
      WriteCompletes (.protApply req n v) req (pgPROT n + 0x114)
        (fun s => (s.wr (pgPROT n) F.PROT_STATUS_APPLY_PENDING 1).wr (pgPROT n) F.PROT_STATUS_BAD_APPLY 0) ∧
      WriteCompletes (.sigApply req n v) req (pgSIG n + 0x104) (fun s => s.wr (pgSIG n) F.SIG_STATUS_APPLY_PENDING 1) ∧
      WriteCompletes (.sigCntClr req n v) req (pgSIG n + 0x11C) (fun s => s.wr (pgSIG n) F.SIG_MISMATCH_FRAMES_COUNT 0)) ∧
    (bitOf v.toNat 0 = false →
      WriteCompletes (.protLoadStart req n v) req (pgPROT n + 0x130) id ∧
      WriteCompletes (.protApply req n v) req (pgPROT n + 0x114) id ∧
      WriteCompletes (.sigApply req n v) req (pgSIG n + 0x104) id ∧
      WriteCompletes (.sigCntClr req n v) req (pgSIG n + 0x11C) id) ∧
    (∀ l, Completes (.protLoadDone n)
      (fun s => (s.head n).load = some l ∧ l.flying = false ∧ l.bad = false ∧ l.left = 0)
      (fun s => irq (pgPROT n) 1 ((s.wr (pgPROT n) F.PROT_STATUS_BUSY 0).modHead n fun h => { h with load := none }))) ∧
    (∀ l, Completes (.protLoadDone n) (fun s => (s.head n).load = some l ∧ l.flying = false ∧ l.bad = true)
      (fun s => logEv (pgPROT n) 0x2840 (irq (pgPROT n) 2
        (((s.wr (pgPROT n) F.PROT_STATUS_BUSY 0).modHead n fun h => { h with load := none }).wr (pgPROT n) F.PROT_STATUS_ERROR 1)))) ∧
    Completes (.sigRegionCheck n ix)
      (fun s => ((s.head n).crc.getD ix (0, 0)).1 = 2 ∧ sigChecks s n = true ∧ (sigEn s n).contains ix = true)
      (sigRegionCheckEffect n ix)

/-- The blitter (20 R591-R602): a blit starts, its lines complete, and its end signal is answered. -/
def Obligations.BlitterCommandsComplete : Prop :=
  ∀ (req : Nat) (v : Word),
    WriteCompletesEval (.blitStart req) req (pgBLT + 0x40) (blitStart req) ∧
    CompletesEval .bltLineComplete
      (fun s => lopRuns s pgBLT 1 = true ∧ s.blt.phase = 2 ∧ s.blt.flying = 0 ∧ s.blt.writes = [] ∧ s.blt.fail = none)
      bltLineCompleteEffect ∧
    CompletesEval .bltSignalResponse (fun s => s.blt.phase = 4) (fun s => lopFinish pgBLT { s with blt := Blt.none }) ∧
    CompletesEval .bltSignalResponse (fun s => s.blt.phase = 3) bltFailEnd ∧
    (bitOf v.toNat 0 = true → WriteCompletes (.bltCntClr req v) req (pgBLT + 0x16C) (fun s => s.setWord (pgBLT + 0x158) 0)) ∧
    (bitOf v.toNat 0 = false → WriteCompletes (.bltCntClr req v) req (pgBLT + 0x16C) id)

/-- Camera ports (21 R608-R611, R626): packets whose header decodes, lane faults and triggers. -/
def Obligations.CameraPortCommandsComplete : Prop :=
  ∀ (req n ecc num vc dt lane : Nat) (crcOk on : Bool) (px : List Nat) (bs : List Byte) (v : Word),
    CompletesEval (.csiFrameStart n ecc num) (fun s => csiOn s n = true) (fun s => csiHeader n ecc (fun s =>
      let s := if (arriving s n).isSome then camFault n 6 (s.bump (pgCSI n) F.CSI_COUNTS2_FE_MISSING) else s
      if s.running (pgISP n) && s.running (pgCSI n) && decide (ispState s n ≠ 0) then frameBegin n num s else s) s) ∧
    (∀ s, s.chip.inReset = false → csiOn s n = true →
      exec (.csiFrameEnd n ecc) s = .next (powerEval (csiFrameEndEffect n ecc s)) ∧
      exec (.csiLinePacket n ecc crcOk px) s = .next (powerEval (csiLinePacketEffect n ecc crcOk px s)) ∧
      exec (.csiEmbeddedPacket n ecc crcOk bs) s = .next (powerEval (csiEmbeddedPacketEffect n ecc crcOk bs s)) ∧
      exec (.csiPacketOther n ecc vc dt) s = .next (powerEval (csiPacketOtherEffect n ecc vc dt s))) ∧
    CompletesEval (.csiLaneFault n lane) (fun s => csiOn s n = true ∧ (s.cam n).drop = false)
      (fun s => camFault n 1 (irq (pgCSI n) 1 ((s.wr (pgCSI n) F.CSI_STATUS_LANE_SYNC
        (if bitOf (s.rd (pgCSI n) F.CSI_STATUS_LANE_SYNC) lane then s.rd (pgCSI n) F.CSI_STATUS_LANE_SYNC - 2 ^ lane
         else s.rd (pgCSI n) F.CSI_STATUS_LANE_SYNC)).bump (pgCSI n) F.CSI_COUNTS_LANE_ERR))) ∧
    Completes (.camTrigRise n)
      (fun s => ((s.rd (pgISP n) F.ISP_TRIG_SRC = 1 ∧ trigMet s n = true) ∨
          (s.rd (pgISP n) F.ISP_TRIG_SRC = 2 ∧ scanning s (s.rd (pgISP n) F.ISP_TRIG_HEAD) = true)) ∧ s.done = true ∧ s.ladder < 2)
      (fun s => s.modCam n fun x => { x with trig := true, trigAt := s.ticks }) ∧
    Completes (.camTrigFall n) (fun _ => True) (fun s => s.modCam n fun x => { x with trig := false }) ∧
    Completes (.csiClockLaneChange n on) (fun _ => True) (fun s => s.wr (pgCSI n) F.CSI_STATUS_CLK_ACTIVE (b2n on)) ∧
    (bitOf v.toNat 0 = true → WriteCompletes (.csiCntClr req n v) req (pgCSI n + 0x128)
      fun s => (s.setWord (pgCSI n + 0x114) 0).setWord (pgCSI n + 0x118) 0) ∧
    (bitOf v.toNat 0 = false → WriteCompletes (.csiCntClr req n v) req (pgCSI n + 0x128) id)

/-- Camera pipelines (21 R612-R634): a line is processed, a frame's writes and its record complete, settings are applied. -/
def Obligations.CameraPipelineCommandsComplete : Prop :=
  ∀ (req n : Nat) (v : Word) (f : CamFrame),
    CompletesEval (.ispLineProcessed n)
      (fun s => csiOn s n = true ∧ working s n = some f ∧ f.done < camH s n + 6 ∧ (f.done < f.lines.length ∨ f.ended = true))
      (camStep n f) ∧
    CompletesEval (.ispFrameWritesComplete n)
      (fun s => csiOn s n = true ∧ (s.cam n).frames.head? = some f ∧ f.ended = true ∧ (f.cause ≠ 0 ∨ f.done = camH s n + 6) ∧
        f.recSent = false ∧ camBusy s n f.seq = false)
      (fun s =>
        let a := cf64 f.cfg F.ISP_RECORD_ADDR_LO_RECORD_ADDR F.ISP_RECORD_ADDR_HI_RECORD_ADDR
        let t := modFrame n f.seq (fun f => { f with recSent := true }) s
        if a = 0 then t else camWrite n f.seq 3 4 (a + f.seq % 16 * 32) (recBytes f) t) ∧
    CompletesEval (.ispRecordComplete n)
      (fun s => csiOn s n = true ∧ (s.cam n).frames.head? = some f ∧ f.recSent = true ∧ camBusy s n f.seq = false)
      (ispRecordCompleteEffect n) ∧
    (bitOf v.toNat 0 = true →
      Completes (.ispApply req n v) (fun s => checkWrite s req (pgISP n + 0x100) = .ok ∧ ispState s n = 0)
        (fun s => customMark req (pgISP n + 0x100 - (pgISP n + 0x100) % 0x1000) ((pgISP n + 0x100) % 0x1000) (ispTake n 0 0 s)) ∧
      Completes (.ispApply req n v) (fun s => checkWrite s req (pgISP n + 0x100) = .ok ∧ ispState s n ≠ 0)
        (fun s => customMark req (pgISP n + 0x100 - (pgISP n + 0x100) % 0x1000) ((pgISP n + 0x100) % 0x1000)
          (s.wr (pgISP n) F.ISP_STATUS_APPLY_PENDING 1)) ∧
      WriteCompletes (.ispCntClr req n v) req (pgISP n + 0x128)
        fun s => (s.setWord (pgISP n + 0x120) 0).setWord (pgISP n + 0x124) 0) ∧
    (bitOf v.toNat 0 = false →
      WriteCompletes (.ispApply req n v) req (pgISP n + 0x100) id ∧ WriteCompletes (.ispCntClr req n v) req (pgISP n + 0x128) id)

/-- Partitions (23 R669-R683): CREATE and ASSIGN, and the phases of DRAIN_SCRUB. -/
def Obligations.PartitionCommandsComplete : Prop :=
  ∀ (req g k : Nat) (rest : List (Nat × Nat)) (v : Word),
    WriteCompletesEval (.partCreate req v) req (pgPART + 0x104) (partCreate req v.toNat) ∧
    WriteCompletesEval (.partAssign req v) req (pgPART + 0x108) (partAssign req v.toNat) ∧
    CompletesEval .partAutoDrainStart
      (fun s => s.lopActive pgPART = false ∧ fencedMask s ≠ 0 ∧ s.running pgPART = true) (fun s => drainAuto (fencedMask s) s) ∧
    WriteCompletesEval (.drainScrubStart req) req (pgPART + 0x40) (drainStart req) ∧
    CompletesEval .partDrainPhaseComplete
      (fun s => lopRuns s pgPART 1 = true ∧ s.drain.scrubbing = false ∧ (s.drain.mask.all (drainComplete s)) = true) drainPhaseEnd ∧
    CompletesEval .partScrubUnitDone
      (fun s => lopRuns s pgPART 1 = true ∧ s.drain.scrubbing = true ∧ s.drain.units = (g, k) :: rest ∧
        ((granMcus s g).any fun n => s.rd (pgMCU n) F.MCU_STATUS_OFFLINE ≠ 0) = false ∧
        ((granMcus s g).any fun n => !s.running (pgMCU n)) = false)
      (fun s => scrubUnits 1 { scrubUnit g k s with drain := { s.drain with units := rest } }) ∧
    CompletesEval .partScrubUnitDone
      (fun s => lopRuns s pgPART 1 = true ∧ s.drain.scrubbing = true ∧ s.drain.units = (g, k) :: rest ∧
        ((granMcus s g).any fun n => s.rd (pgMCU n) F.MCU_STATUS_OFFLINE ≠ 0) = true)
      (fun s => lopFail pgPART resHW_ERROR g { s with drain := { mask := [], scrubbing := false, units := [] } }) ∧
    (bitOf v.toNat 0 = true → WriteCompletesEval (.partCntClr req v) req (pgPART + 0x394)
      fun s => s.zeroWords ((List.range 32).map (fun p => pgPART + 0x240 + 4 * p) ++
        [pgPART + 0x2C0, pgPART + 0x380, pgPART + 0x384, pgPART + 0x388, pgPART + 0x38C, pgPART + 0x390])) ∧
    (bitOf v.toNat 0 = false → WriteCompletesEval (.partCntClr req v) req (pgPART + 0x394) id)

/-! Rules of the spec, stated whole. -/

/-- RESET_CMD acts only when KEY is 0xC0DE and ACTION is 1 (a warm reset) or 2 (a cold one); any other word logs event 0x0002,
class INFO, with the word as data and does nothing else; a requester other than the management domain has no effect but its
record, whether or not it owns the page (R108). -/
def Obligations.ResetCommandNeedsItsKey : Prop :=
  ∀ (s : State) (req : Nat) (v : Word) (i : Instr), i ∈ [Instr.resetCmdWarm req v, .resetCmdCold req v] →
    s.chip.inReset = false →
    (req = mgmt → checkWrite s mgmt (pgCHIP + 0x130) = .ok →
      exec i s = .next
        (if v.toNat % 0x10000 = 0xC0DE ∧ v.toNat / 0x10000 % 4 = 1 then enterReset 4 0 s
         else if v.toNat % 0x10000 = 0xC0DE ∧ v.toNat / 0x10000 % 4 = 2 then enterReset 3 0 s
         else logEv pgCHIP 0x0002 s v.toNat)) ∧
    (req ≠ mgmt → s.done = true → (req = s.owner pgCHIP → s.avail pgCHIP = true) →
      exec i s = .next
        (denyCount req s.chipNum 5 (winBase + 0x130) (pageFault pgCHIP causeNotOwner req true 0x130 s)))

/-- A remote reset request is accepted when it arrives on TC7 from the chip that FAB records as the conductor while REMOTE_EN
is 1; any other is discarded, counted in COUNTS2.RESET_REFUSED and logged as event 0x2669 with the sender (R109, R464). -/
def Obligations.RemoteResetOnlyFromTheConductor : Prop :=
  ∀ (s : State) (src tc : Nat), s.chip.inReset = false →
    exec (.resetReqReceive src tc) s = .next
      (if tc = 7 ∧ conductorOf s = some src ∧ s.flag pgCHIP F.CHIP_RESET_CFG_REMOTE_EN = true then enterReset 9 0 s
       else logEv pgFAB 0x2669 (s.bump pgFAB F.FAB_COUNTS2_RESET_REFUSED) src)

/-- A low pulse on RESET_N shorter than 1 µs, or while PWR_OK is low, changes nothing; one of 10 µs or longer resets the chip with
source 2; between the two the model does either (R106). -/
def Obligations.ResetPinPulses : Prop :=
  ∀ (s : State) (us : Nat),
    (us < 1 ∨ s.chip.pwrOk = false ∨ s.powered = false → exec (.resetNAssert us) s = .next s) ∧
    (10 ≤ us → s.powered = true → ∃ t, exec (.resetNAssert us) s = .next t ∧ t.chip.inReset = true ∧ 2 ∈ t.chip.sources) ∧
    (1 ≤ us → us < 10 → s.powered = true → ∃ t, exec (.resetNAssert us) s = .next t ∧
      (t = { s with freeCtr := s.freeCtr + 1 } ∨ (t.chip.inReset = true ∧ 2 ∈ t.chip.sources)))

/-- HEADOK is the management domain's register: a write by any other requester changes nothing but the record of the fault with
cause NOT_OWNER, and a refusal by page ownership is recorded and counted (R530, R90). -/
def Obligations.HeadokIsTheManagementDomains : Prop :=
  ∀ (s : State) (req n : Nat) (v : Word), s.chip.inReset = false → req ≠ mgmt → n < 4 →
    (checkWrite s req (pgDH n + 0x134) = .ok →
      exec (.dhHeadokRearm req n v) s = .next (pageFault (pgDH n) causeNotOwner req true 0x134 s)) ∧
    (checkWrite s req (pgDH n + 0x134) = .denied →
      exec (.dhHeadokRearm req n v) s =
        .next (denyCount req s.chipNum 5 (winBase + pgDH n + 0x134) (pageFault (pgDH n) causeNotOwner req true 0x134 s)))

/-- PAGE_FAULT keeps the record of the first fault after a clear, with the tick it came at, and counts the later ones up to its
greatest value; the first logs one event of class INFO, code 0xF0 of the page's family, with the PAGE_FAULT word as data; a
later one changes the count alone (R92). -/
def Obligations.PageFaultKeepsTheFirstRecord : Prop :=
  ∀ (s : State) (pg cause req off n : Nat) (write : Bool) (k : PageKind),
    pg % 0x1000 = 0 → pageOf pg = some (k, n) → cause < 16 → req < 64 → off < 0x1000 →
    (s.rd pg F.OWN_PAGE_FAULT_COUNT = 0 →
      let t := pageFault pg cause req write off s
      t.rd pg F.OWN_PAGE_FAULT_COUNT = 1 ∧ t.rd pg F.OWN_PAGE_FAULT_CAUSE = cause ∧
      t.rd pg F.OWN_PAGE_FAULT_REQUESTER = req ∧ t.flag pg F.OWN_PAGE_FAULT_WRITE = write ∧
      t.rd pg F.OWN_PAGE_FAULT_OFFSET = off ∧ t.rd64 pg F.OWN_FAULT_MET_LO_MET F.OWN_FAULT_MET_HI_MET = s.met % 2 ^ 64 ∧
      ∃ u : State, t = logEv pg (familyOf k * 0x100 + 0xF0) u (u.word (pg + 0xF08)).toNat ∧
        u.word (pg + 0xF08) = t.word (pg + 0xF08) ∧ { u with regs := s.regs } = s ∧
        ∀ a, a ∉ [pg + 0xF08, pg + 0xF10, pg + 0xF14] → u.word a = s.word a) ∧
    (s.rd pg F.OWN_PAGE_FAULT_COUNT ≠ 0 →
      let t := pageFault pg cause req write off s
      t.rd pg F.OWN_PAGE_FAULT_COUNT = min 255 (s.rd pg F.OWN_PAGE_FAULT_COUNT + 1) ∧
      t.rd pg F.OWN_PAGE_FAULT_CAUSE = s.rd pg F.OWN_PAGE_FAULT_CAUSE ∧
      t.rd pg F.OWN_PAGE_FAULT_REQUESTER = s.rd pg F.OWN_PAGE_FAULT_REQUESTER ∧
      t.rd pg F.OWN_PAGE_FAULT_WRITE = s.rd pg F.OWN_PAGE_FAULT_WRITE ∧
      t.rd pg F.OWN_PAGE_FAULT_OFFSET = s.rd pg F.OWN_PAGE_FAULT_OFFSET ∧
      { t with regs := s.regs } = s ∧ ∀ a, a ≠ pg + 0xF08 → t.word a = s.word a)

/-- A fence signal is a MAX modulo 2^32: the slot takes the value when it is less than 2^31 ahead of what the slot holds, and
keeps its value otherwise; every other slot, every other word but FENCE_SIGNALS, and everything that is no register stay (R31,
R698, 18 R563). -/
def Obligations.FenceSignalIsAMax : Prop :=
  ∀ (s : State) (req ix : Nat) (v : Word), s.chip.inReset = false → ix < 64 → fenceMay s req ix = true →
    ∃ t, exec (.cmtFenceMax req ix v) s = .next t ∧
      (∀ j, j < 64 → fenceVal t j =
        if j = ix ∧ (v.toNat + (2 ^ 32 - fenceVal s j)) % 2 ^ 32 < 2 ^ 31 then v.toNat else fenceVal s j) ∧
      t.rd pgCMT F.CMT_FENCE_SIGNALS_COUNT = min (2 ^ 32 - 1) (s.rd pgCMT F.CMT_FENCE_SIGNALS_COUNT + 1) ∧
      (∀ a, a ≠ pgCMT + 0x200 + 4 * ix → a ≠ pgCMT + 0x188 → t.word a = s.word a) ∧
      { t with regs := s.regs } = s

/-- Clearing counters touches the counters alone: with bit 0 set, the words a counter-clear register names read 0 afterwards; every
other word, every memory, every queue and every buffer stays. With bit 0 clear nothing changes at all. -/
def Obligations.CounterClearsTouchTheirWordsOnly : Prop :=
  ∀ (s : State) (req n : Nat) (v : Word) (i : Instr) (a : Nat) (ws : List Nat),
    (i, a, ws) ∈ [(Instr.metCntClr req v, pgMET + 0x130, [pgMET + 0x120, pgMET + 0x124]),
      (.dhCntClr req n v, pgDH n + 0x174, [pgDH n + 0x14C, pgDH n + 0x150, pgDH n + 0x154, pgDH n + 0x164]),
      (.dptxCntClr req n v, pgDPTX n + 0x134, [pgDPTX n + 0x12C, pgDPTX n + 0x130]),
      (.bltCntClr req v, pgBLT + 0x16C, [pgBLT + 0x158]),
      (.csiCntClr req n v, pgCSI n + 0x128, [pgCSI n + 0x114, pgCSI n + 0x118]),
      (.ispCntClr req n v, pgISP n + 0x128, [pgISP n + 0x120, pgISP n + 0x124]),
      (.errCntClr req v, pgERR + 0x144, (List.range 16).map fun k => pgERR + 0x100 + 4 * k)] →
    n < 4 → s.chip.inReset = false → checkWrite s req a = .ok →
    ∃ t, exec i s = .next t ∧ { t with regs := s.regs } = s ∧ (∀ x, x ∉ ws → t.word x = s.word x) ∧
      (bitOf v.toNat 0 = true → ∀ x ∈ ws, t.word x = 0) ∧ (bitOf v.toNat 0 = false → t = s)

/-- A write to a plain register that may not be made changes no register of its page but the page's fault record and the counts
and logs it is reported in (R26, R73, R74, R81, R90): what is found decides the record, and the ladder is evaluated after it. Once
the boot is DONE, a requester is denied when it is neither the management domain nor the owner, or is the owner and writes the
ownership area elsewhere than at PAGE_LOCK and FAULT_CLR (Table 3.4). -/
def Obligations.RefusedRegisterWritesAreRecorded : Prop :=
  ∀ (s : State) (req a : Nat) (v : Word), s.chip.inReset = false → a < 0x1000000 → inRteWindow a = false →
    a - a % 0x1000 ≠ pgCMT →
    (checkWrite s req a = .unmapped →
      exec (.registerWritePlain req a v) s = .next (powerEval (unmapped req s.chipNum (winBase + a) s))) ∧
    (checkWrite s req a = .denied →
      exec (.registerWritePlain req a v) s = .next (powerEval (denyCount req s.chipNum 5 (winBase + a)
        (pageFault (a - a % 0x1000) causeNotOwner req true (a % 0x1000) s)))) ∧
    (checkWrite s req a = .unavailable → exec (.registerWritePlain req a v) s =
      .next (powerEval (pageFault (a - a % 0x1000) causeUnavailable req true (a % 0x1000) s))) ∧
    (checkWrite s req a = .expert → exec (.registerWritePlain req a v) s =
      .next (powerEval (pageFault (a - a % 0x1000) causeExpert req true (a % 0x1000) s))) ∧
    (checkWrite s req a = .unused → exec (.registerWritePlain req a v) s =
      .next (powerEval (pageFault (a - a % 0x1000) causeUnused req true (a % 0x1000) s))) ∧
    (checkWrite s req a = .unmapped ↔ pageOf a = none) ∧
    (∀ k n, pageOf a = some (k, n) → s.done = true →
      (checkWrite s req a = .denied ↔ req ≠ mgmt ∧
        (req ≠ s.owner (a - a % 0x1000) ∨ (0xF00 ≤ a % 0x1000 ∧ a % 0x1000 ≠ 0xF04 ∧ a % 0x1000 ≠ 0xF0C))))

/-- The number formats of Table 9.1 lose nothing: an element that is no NaN, decoded and converted back to its own format, gives
its own bits and raises no flag, in every rounding mode and for every draw of the generator. -/
def Obligations.NumberFormatsRoundTrip : Prop :=
  ∀ (code v rnd r : Nat), v < 2 ^ fmtBits code → (dec code v).isNan = false → r < 2 ^ 16 →
    (code ∈ [0, 1, 2, 3, 4, 5, 6, 10, 11] → toElem code rnd r (dec code v) = (v, 0)) ∧
    (code ∈ [7, 8, 9] → toMx code rnd r (dec code v) = (v, 0))

/-- A long-operation command that Table 3.9 marks as rejected is one that meets an operation in the wrong state, or that the
operation does not know. It leaves LOP_STATE, LOP_PROGRESS and LOP_RESULT as they are, and is recorded with cause LOP_REJECTED
(R96). -/
def Obligations.RejectedOperationCommandsChangeNothing : Prop :=
  ∀ (s : State) (req pg n op : Nat) (v : Word) (k : PageKind) (i : Instr), s.chip.inReset = false → pg % 0x1000 = 0 →
    pageOf pg = some (k, n) → checkWrite s req (pg + 0x40) = .ok → req < 64 →
    ((i = .lopCmdInvalid req pg v ∧ (v.toNat % 16 = 0 ∨ 5 ≤ v.toNat % 16)) ∨
     (i = .lopStartUnknownOp req pg op ∧ op < 256 ∧ 1 ≤ s.lop pg ∧ s.lop pg ≤ 4) ∨
     (i = .lopSuspend req pg ∧
       (s.lop pg = 0 ∨ 4 ≤ s.lop pg ∨ (s.lop pg = 1 ∧ (lopTraits s pg).1 = false))) ∨
     (i = .lopResume req pg ∧ s.lop pg ≠ 2 ∧ s.lop pg ≠ 3) ∨
     (i = .lopCancel req pg ∧ (s.lop pg = 0 ∨ 4 ≤ s.lop pg ∨ (lopTraits s pg).2 = false))) →
    exec i s = .next (powerEval (lopReject req pg s)) ∧
    (∀ off ∈ [0x54, 0x58, 0x5C], (lopReject req pg s).word (pg + off) = s.word (pg + off)) ∧
    (s.rd pg F.OWN_PAGE_FAULT_COUNT = 0 →
      (lopReject req pg s).rd pg F.OWN_PAGE_FAULT_CAUSE = 7 ∧ (lopReject req pg s).rd pg F.OWN_PAGE_FAULT_REQUESTER = req) ∧
    (lopReject req pg s).rd pg F.OWN_PAGE_FAULT_COUNT = min 255 (s.rd pg F.OWN_PAGE_FAULT_COUNT + 1)

/-- A read of NOW_LO captures the whole tick: NOW_LO and NOW_HI then read as one coherent value of MET, which a later tick does
not change (R488). -/
def Obligations.MetNowReadIsCoherent : Prop :=
  ∀ (s : State) (req : Nat), s.chip.inReset = false → s.done = true → s.avail pgMET = true →
    ∃ t, exec (.metNowRead req) s = .next t ∧ t.rd64 pgMET F.MET_NOW_LO_MET F.MET_NOW_HI_MET = s.met % 2 ^ 64 ∧
      (∀ a, a ≠ pgMET + 0x100 → a ≠ pgMET + 0x104 → t.word a = s.word a) ∧ { t with regs := s.regs } = s

/-- A write of PROT's WIN_DATA stores four bytes, least significant first, at four times WIN_ADDR in the head's own buffer, and
moves WIN_ADDR on; every other byte of the four buffers, HBM, tile SRAM and flash stay as they are, and so does every other word
(R560). The advance wraps within the field (the field's width, Table 19.5). -/
def Obligations.ProtectedWindowWritesFourBytes : Prop :=
  ∀ (s : State) (req n : Nat) (v : Word), s.chip.inReset = false → n < 4 → checkWrite s req (pgPROT n + 0x11C) = .ok →
    let a := 4 * s.rd (pgPROT n) F.PROT_WIN_ADDR_ADDR
    ∃ t, exec (.protWinWrite req n v) s = .next t ∧
      t.protRead n a 4 = [BitVec.ofNat 8 v.toNat, BitVec.ofNat 8 (v.toNat / 2 ^ 8), BitVec.ofNat 8 (v.toNat / 2 ^ 16),
        BitVec.ofNat 8 (v.toNat / 2 ^ 24)] ∧
      (∀ m b, (m * protSize + b < n * protSize + a ∨ n * protSize + a + 4 ≤ m * protSize + b) →
        t.protRead m b 1 = s.protRead m b 1) ∧
      { t with regs := s.regs, prot := s.prot } = s ∧
      (∀ x, x ≠ pgPROT n + 0x118 → t.word x = s.word x) ∧ (memWf s = true → memWf t = true)
end

