-- ==== Sys2Proof/Laws/Bits.lean ====
section
/-! SUPPORT. Laws of bit fields: a field reads what was written to it, and every other field reads as before. -/
namespace Sys2Proof.Machine
open Sys2Proof

/-- A number as the bits above, in and below a field. -/
theorem bits_split (w lo wid : Nat) :
    w = 2 ^ lo * (2 ^ wid * (w / 2 ^ (lo + wid)) + getBits w lo wid) + w % 2 ^ lo := by
  have h1 := Nat.div_add_mod w (2 ^ lo)
  have h2 := Nat.div_add_mod (w / 2 ^ lo) (2 ^ wid)
  rw [Nat.div_div_eq_div_mul, ← pow_add] at h2
  unfold getBits
  rw [h2, h1]

theorem putBits_eq (w lo wid v : Nat) :
    putBits w lo wid v = 2 ^ lo * (2 ^ wid * (w / 2 ^ (lo + wid)) + v % 2 ^ wid) + w % 2 ^ lo := by
  have h := bits_split w lo wid
  unfold putBits
  generalize getBits w lo wid = m at *
  generalize w / 2 ^ (lo + wid) = hi at *
  generalize w % 2 ^ lo = l at *
  generalize v % 2 ^ wid = v' at *
  rw [Nat.mul_add] at h ⊢
  have : w - m * 2 ^ lo = 2 ^ lo * (2 ^ wid * hi) + l := by
    rw [Nat.mul_comm m]; omega
  rw [this, Nat.mul_comm v']; omega

theorem getBits_lt (w lo wid : Nat) : getBits w lo wid < 2 ^ wid := Nat.mod_lt _ (Nat.two_pow_pos _)

/-- A field reads what was written to it. -/
theorem getBits_putBits_same (w lo wid v : Nat) : getBits (putBits w lo wid v) lo wid = v % 2 ^ wid := by
  rw [putBits_eq]
  unfold getBits
  rw [Nat.mul_add_div (Nat.two_pow_pos _), Nat.div_eq_of_lt (Nat.mod_lt _ (Nat.two_pow_pos _)), Nat.add_zero,
    Nat.mul_add_mod, Nat.mod_mod]

theorem putBits_mod (w lo wid v : Nat) : putBits w lo wid v % 2 ^ lo = w % 2 ^ lo := by
  rw [putBits_eq, Nat.mul_add_mod, Nat.mod_mod]

theorem putBits_div (w lo wid v : Nat) : putBits w lo wid v / 2 ^ (lo + wid) = w / 2 ^ (lo + wid) := by
  rw [putBits_eq, pow_add, ← Nat.div_div_eq_div_mul, Nat.mul_add_div (Nat.two_pow_pos _),
    Nat.div_eq_of_lt (Nat.mod_lt w (Nat.two_pow_pos lo)), Nat.add_zero, Nat.mul_add_div (Nat.two_pow_pos _),
    Nat.div_eq_of_lt (Nat.mod_lt v (Nat.two_pow_pos wid)), Nat.add_zero]

theorem getBits_below (w lo lo' wid' : Nat) (h : lo' + wid' ≤ lo) : getBits (w % 2 ^ lo) lo' wid' = getBits w lo' wid' := by
  unfold getBits
  obtain ⟨k, rfl⟩ := Nat.exists_eq_add_of_le h
  rw [show lo' + wid' + k = lo' + (wid' + k) by omega, pow_add 2 lo', Nat.mod_mul_right_div_self, pow_add 2 wid',
    Nat.mod_mul_right_mod]

theorem getBits_above (w hi lo' wid' : Nat) (h : hi ≤ lo') : getBits (w / 2 ^ hi) (lo' - hi) wid' = getBits w lo' wid' := by
  unfold getBits
  rw [Nat.div_div_eq_div_mul, ← pow_add, Nat.add_sub_cancel' h]

/-- A field that shares no bit with the one written reads as before. -/
theorem getBits_putBits_other (w lo wid v lo' wid' : Nat) (h : lo' + wid' ≤ lo ∨ lo + wid ≤ lo') :
    getBits (putBits w lo wid v) lo' wid' = getBits w lo' wid' := by
  rcases h with h | h
  · rw [← getBits_below _ lo _ _ h, putBits_mod, getBits_below _ lo _ _ h]
  · rw [← getBits_above _ (lo + wid) _ _ h, putBits_div, getBits_above _ (lo + wid) _ _ h]

theorem putBits_lt (w lo wid v : Nat) (hw : w < 2 ^ 32) (h : lo + wid ≤ 32) : putBits w lo wid v < 2 ^ 32 := by
  have hd := putBits_div w lo wid v
  have : putBits w lo wid v / 2 ^ (lo + wid) < 2 ^ (32 - (lo + wid)) := by
    rw [hd, Nat.div_lt_iff_lt_mul (Nat.two_pow_pos _), ← pow_add, Nat.sub_add_cancel h]; exact hw
  rw [Nat.div_lt_iff_lt_mul (Nat.two_pow_pos _), ← pow_add, Nat.sub_add_cancel h] at this
  exact this

end Sys2Proof.Machine
end

