-- ==== Sys2Proof/Laws/Map.lean ====
section
/-! SUPPORT. Laws of sparse maps and of byte memories: reading what was written, and the canonical form. -/
namespace Sys2Proof.Machine
open Sys2Proof

variable {α : Type}

theorem fget_fdel (d : Nat → α) (m : Fmap α) (n k : Nat) :
    fget d (fdel m n) k = if k = n then d k else fget d m k := by
  induction m with
  | nil => simp [fdel, fget]
  | cons x r ih =>
    obtain ⟨a, v⟩ := x
    by_cases h : n = a <;> by_cases hk : k = a <;> simp [fdel, fget, h, hk, ih] <;> grind

theorem fget_fins (d : Nat → α) (m : Fmap α) (n k : Nat) (v : α) :
    fget d (fins m n v) k = if k = n then v else fget d m k := by
  induction m with
  | nil => by_cases h : k = n <;> simp [fins, fget, h]
  | cons x r ih =>
    obtain ⟨a, w⟩ := x
    unfold fins
    by_cases h1 : n < a
    · by_cases hk : k = n <;> simp [h1, fget, hk]
    · by_cases h2 : n = a
      · subst h2
        by_cases hk : k = n <;> simp [fget, hk]
      · by_cases hk : k = a
        · simp only [h1, h2, if_false, fget, hk, if_true]
          rw [if_neg (fun e => h2 e.symm)]
        · simp [h1, h2, fget, hk, ih]

variable [DecidableEq α]

/-- Reading a map after a write. -/
theorem fget_fset (d : Nat → α) (m : Fmap α) (n k : Nat) (v : α) :
    fget d (fset d m n v) k = if k = n then v else fget d m k := by
  unfold fset
  by_cases h : v = d n
  · simp only [h, if_true, fget_fdel]
    by_cases hk : k = n <;> simp [hk]
  · simp only [h, if_false, fget_fins]

@[simp] theorem fget_fset_same (d : Nat → α) (m : Fmap α) (n : Nat) (v : α) : fget d (fset d m n v) n = v := by
  simp [fget_fset]

theorem fget_fset_other (d : Nat → α) (m : Fmap α) {n k : Nat} (v : α) (h : k ≠ n) :
    fget d (fset d m n v) k = fget d m k := by
  simp [fget_fset, h]

theorem fwfFrom_mono (d : Nat → α) (m : Fmap α) {a b : Nat} (h : a ≤ b) (w : fwfFrom d b m = true) :
    fwfFrom d a m = true := by
  cases m with
  | nil => rfl
  | cons x r =>
    obtain ⟨k, v⟩ := x
    simp only [fwfFrom, Bool.and_eq_true, decide_eq_true_eq] at w ⊢
    exact ⟨le_trans h w.1, w.2⟩

theorem fwfFrom_filter (d : Nat → α) (p : Nat × α → Bool) (m : Fmap α) (a : Nat) (w : fwfFrom d a m = true) :
    fwfFrom d a (m.filter p) = true := by
  induction m generalizing a with
  | nil => rfl
  | cons x r ih =>
    obtain ⟨k, v⟩ := x
    simp only [fwfFrom, Bool.and_eq_true, decide_eq_true_eq] at w
    by_cases hp : p (k, v) = true
    · simp only [List.filter_cons, hp, if_true, fwfFrom, Bool.and_eq_true, decide_eq_true_eq]
      exact ⟨w.1, w.2.1, ih _ w.2.2⟩
    · simp only [List.filter_cons, hp]
      exact fwfFrom_mono d _ (by omega) (ih _ w.2.2)

/-- Leaving entries out keeps the canonical form. -/
theorem fwf_filter (d : Nat → α) (p : Nat × α → Bool) (m : Fmap α) (w : fwf d m = true) : fwf d (m.filter p) = true :=
  fwfFrom_filter d p m 0 w

omit [DecidableEq α] in
theorem fdel_eq_filter (m : Fmap α) (n : Nat) : fdel m n = m.filter fun x => !decide (n = x.1) := by
  induction m with
  | nil => rfl
  | cons x r ih =>
    obtain ⟨k, v⟩ := x
    by_cases h : n = k
    · subst h; simp [fdel, ih]
    · simp [fdel, h, ih]

theorem fwfFrom_fins (d : Nat → α) (m : Fmap α) (a n : Nat) (v : α) (hv : v ≠ d n) (ha : a ≤ n)
    (w : fwfFrom d a m = true) : fwfFrom d a (fins m n v) = true := by
  induction m generalizing a with
  | nil => simp [fins, fwfFrom, ha, hv]
  | cons x r ih =>
    obtain ⟨k, u⟩ := x
    simp only [fwfFrom, Bool.and_eq_true, decide_eq_true_eq] at w
    unfold fins
    by_cases h1 : n < k
    · simp only [h1, if_true, fwfFrom, Bool.and_eq_true, decide_eq_true_eq]
      exact ⟨ha, by simp [hv], by omega, w.2.1, w.2.2⟩
    · by_cases h2 : n = k
      · subst h2
        simp only [lt_irrefl, if_false, if_true, fwfFrom, Bool.and_eq_true, decide_eq_true_eq]
        exact ⟨ha, by simp [hv], w.2.2⟩
      · simp only [h1, h2, if_false, fwfFrom, Bool.and_eq_true, decide_eq_true_eq]
        exact ⟨w.1, w.2.1, ih _ (by omega) w.2.2⟩

/-- A write keeps the canonical form. -/
theorem fwf_fset (d : Nat → α) (m : Fmap α) (n : Nat) (v : α) (w : fwf d m = true) : fwf d (fset d m n v) = true := by
  unfold fset
  by_cases h : v = d n
  · simp only [h, if_true, fdel_eq_filter]
    exact fwf_filter d _ m w
  · simp only [h, if_false]
    exact fwfFrom_fins d m 0 n v h (Nat.zero_le _) w

theorem fwfFrom_head (d : Nat → α) (m : Fmap α) (a n : Nat) (h : n < a) (w : fwfFrom d a m = true) : fget d m n = d n := by
  induction m generalizing a with
  | nil => rfl
  | cons x r ih =>
    obtain ⟨k, v⟩ := x
    simp only [fwfFrom, Bool.and_eq_true, decide_eq_true_eq] at w
    simp only [fget]
    rw [if_neg (by omega)]
    exact ih (k + 1) (by omega) w.2.2

theorem fwfFrom_ext (d : Nat → α) (m m' : Fmap α) (a : Nat) (w : fwfFrom d a m = true) (w' : fwfFrom d a m' = true)
    (h : ∀ n, a ≤ n → fget d m n = fget d m' n) : m = m' := by
  induction m generalizing a m' with
  | nil =>
    cases m' with
    | nil => rfl
    | cons x r =>
      obtain ⟨k, v⟩ := x
      simp only [fwfFrom, Bool.and_eq_true, decide_eq_true_eq, Bool.not_eq_true', decide_eq_false_iff_not] at w'
      exact absurd (by simpa [fget] using (h k w'.1).symm) w'.2.1
  | cons x r ih =>
    obtain ⟨k, v⟩ := x
    simp only [fwfFrom, Bool.and_eq_true, decide_eq_true_eq, Bool.not_eq_true', decide_eq_false_iff_not] at w
    cases m' with
    | nil => exact absurd (by simpa [fget] using h k w.1) w.2.1
    | cons y r' =>
      obtain ⟨k', v'⟩ := y
      simp only [fwfFrom, Bool.and_eq_true, decide_eq_true_eq, Bool.not_eq_true', decide_eq_false_iff_not] at w'
      have hk : k = k' := by
        by_contra hne
        rcases Nat.lt_or_gt_of_ne hne with hlt | hgt
        · have := h k w.1
          rw [show fget d ((k', v') :: r') k = d k from by
            simp only [fget]; rw [if_neg (by omega)]; exact fwfFrom_head d r' (k' + 1) k (by omega) w'.2.2] at this
          exact w.2.1 (by simpa [fget] using this)
        · have := h k' w'.1
          rw [show fget d ((k, v) :: r) k' = d k' from by
            simp only [fget]; rw [if_neg (by omega)]; exact fwfFrom_head d r (k + 1) k' (by omega) w.2.2] at this
          exact w'.2.1 (by simpa [fget] using this.symm)
      subst hk
      have hv : v = v' := by simpa [fget] using h k w.1
      subst hv
      congr 1
      refine ih r' (k + 1) w.2.2 w'.2.2 fun n hn => ?_
      have := h n (by omega)
      simpa [fget, show n ≠ k from by omega] using this

/-- Canonical maps that read the same are the same data. -/
theorem fwf_ext (d : Nat → α) (m m' : Fmap α) (w : fwf d m = true) (w' : fwf d m' = true)
    (h : ∀ n, fget d m n = fget d m' n) : m = m' :=
  fwfFrom_ext d m m' 0 w w' fun n _ => h n

/-! Byte memories. -/

/-- Reading one byte after a write of bytes: the byte written inside the range, the old one outside it. -/
theorem fget_mwrite (d : Nat → Byte) (m : Fmap Byte) (a : Nat) (bs : List Byte) (k : Nat) :
    fget d (mwrite d m a bs) k = if a ≤ k ∧ k < a + bs.length then bs.getD (k - a) 0 else fget d m k := by
  induction bs generalizing m a with
  | nil => simp [mwrite]
  | cons b r ih =>
    simp only [mwrite, ih, fget_fset, List.length_cons]
    by_cases h1 : k = a
    · subst h1; simp
    · by_cases h2 : a + 1 ≤ k ∧ k < a + 1 + r.length
      · rw [if_pos h2, if_pos (by omega)]
        obtain ⟨j, hj⟩ : ∃ j, k - a = j + 1 := ⟨k - a - 1, by omega⟩
        have : k - (a + 1) = j := by omega
        simp [hj, this]
      · rw [if_neg h2, if_neg h1, if_neg (by omega)]

theorem fwf_mwrite (d : Nat → Byte) (m : Fmap Byte) (a : Nat) (bs : List Byte) (w : fwf d m = true) :
    fwf d (mwrite d m a bs) = true := by
  induction bs generalizing m a with
  | nil => exact w
  | cons b r ih => exact ih _ _ (fwf_fset d m a b w)

theorem fwf_mclear (d : Nat → α) (m : Fmap α) (a n : Nat) (w : fwf d m = true) : fwf d (mclear m a n) = true :=
  fwf_filter d _ m w

@[simp] theorem mread_length (d : Nat → Byte) (m : Fmap Byte) (a n : Nat) : (mread d m a n).length = n := by
  induction n generalizing a with
  | zero => rfl
  | succ n ih => simp [mread, ih]

/-- Reading bytes right after writing them gives what was written. -/
theorem mread_mwrite_same (d : Nat → Byte) (m : Fmap Byte) (a : Nat) (bs : List Byte) :
    mread d (mwrite d m a bs) a bs.length = bs := by
  have key : ∀ (n o : Nat), o + n = bs.length → mread d (mwrite d m a bs) (a + o) n = bs.drop o := by
    intro n
    induction n with
    | zero => intro o h; simp [mread, List.drop_eq_nil_of_le (show bs.length ≤ o by omega)]
    | succ n ih =>
      intro o h
      have ho : o < bs.length := by omega
      simp only [mread, fget_mwrite]
      rw [if_pos (by omega), show a + o + 1 = a + (o + 1) from rfl, ih (o + 1) (by omega), List.drop_eq_getElem_cons ho]
      simp [ho]
  simpa using key bs.length 0 (by omega)

end Sys2Proof.Machine
end

