-- ==== Sys2Proof/Laws/State.lean ====
section
/-! SUPPORT. What each update of the state leaves as it was, field by field, and what a register reads after a write. -/
namespace Sys2Proof.Machine
open Sys2Proof

variable (s : State)

@[simp] theorem setWord_pending (a : Nat) (w : Word) : (s.setWord a w).pending = s.pending := rfl
@[simp] theorem setWord_freeCtr (a : Nat) (w : Word) : (s.setWord a w).freeCtr = s.freeCtr := rfl
@[simp] theorem setWord_met (a : Nat) (w : Word) : (s.setWord a w).met = s.met := rfl
@[simp] theorem setWord_fuses (a : Nat) (w : Word) : (s.setWord a w).fuses = s.fuses := rfl
@[simp] theorem setWord_chip (a : Nat) (w : Word) : (s.setWord a w).chip = s.chip := rfl
@[simp] theorem setWord_evl (a : Nat) (w : Word) : (s.setWord a w).evl = s.evl := rfl
@[simp] theorem setWord_lopArgs (a : Nat) (w : Word) : (s.setWord a w).lopArgs = s.lopArgs := rfl
@[simp] theorem setWord_rink (a : Nat) (w : Word) : (s.setWord a w).rink = s.rink := rfl
@[simp] theorem setWord_egress (a : Nat) (w : Word) : (s.setWord a w).egress = s.egress := rfl
@[simp] theorem setWord_snp (a : Nat) (w : Word) : (s.setWord a w).snp = s.snp := rfl
@[simp] theorem setWord_msi (a : Nat) (w : Word) : (s.setWord a w).msi = s.msi := rfl
@[simp] theorem setWord_pwr (a : Nat) (w : Word) : (s.setWord a w).pwr = s.pwr := rfl
@[simp] theorem setWord_ticks (a : Nat) (w : Word) : (s.setWord a w).ticks = s.ticks := rfl
@[simp] theorem setWord_doneTicks (a : Nat) (w : Word) : (s.setWord a w).doneTicks = s.doneTicks := rfl
@[simp] theorem setWord_hbm (a : Nat) (w : Word) : (s.setWord a w).hbm = s.hbm := rfl
@[simp] theorem setWord_poison (a : Nat) (w : Word) : (s.setWord a w).poison = s.poison := rfl
@[simp] theorem setWord_flash (a : Nat) (w : Word) : (s.setWord a w).flash = s.flash := rfl
@[simp] theorem setWord_devs (a : Nat) (w : Word) : (s.setWord a w).devs = s.devs := rfl
@[simp] theorem setWord_plan (a : Nat) (w : Word) : (s.setWord a w).plan = s.plan := rfl
@[simp] theorem setWord_bootOps (a : Nat) (w : Word) : (s.setWord a w).bootOps = s.bootOps := rfl
@[simp] theorem setWord_jtag (a : Nat) (w : Word) : (s.setWord a w).jtag = s.jtag := rfl
@[simp] theorem setWord_outst (a : Nat) (w : Word) : (s.setWord a w).outst = s.outst := rfl
@[simp] theorem setWord_granOwner (a : Nat) (w : Word) : (s.setWord a w).granOwner = s.granOwner := rfl
@[simp] theorem setWord_sram (a : Nat) (w : Word) : (s.setWord a w).sram = s.sram := rfl
@[simp] theorem setWord_sramErr (a : Nat) (w : Word) : (s.setWord a w).sramErr = s.sramErr := rfl
@[simp] theorem setWord_tiles (a : Nat) (w : Word) : (s.setWord a w).tiles = s.tiles := rfl
@[simp] theorem setWord_hbmErr (a : Nat) (w : Word) : (s.setWord a w).hbmErr = s.hbmErr := rfl
@[simp] theorem setWord_hbmFree (a : Nat) (w : Word) : (s.setWord a w).hbmFree = s.hbmFree := rfl
@[simp] theorem setWord_mcus (a : Nat) (w : Word) : (s.setWord a w).mcus = s.mcus := rfl
@[simp] theorem setWord_ports (a : Nat) (w : Word) : (s.setWord a w).ports = s.ports := rfl
@[simp] theorem setWord_stall (a : Nat) (w : Word) : (s.setWord a w).stall = s.stall := rfl
@[simp] theorem setWord_rotate (a : Nat) (w : Word) : (s.setWord a w).rotate = s.rotate := rfl
@[simp] theorem setWord_sync (a : Nat) (w : Word) : (s.setWord a w).sync = s.sync := rfl
@[simp] theorem setWord_parent (a : Nat) (w : Word) : (s.setWord a w).parent = s.parent := rfl
@[simp] theorem setWord_joinPort (a : Nat) (w : Word) : (s.setWord a w).joinPort = s.joinPort := rfl
@[simp] theorem setWord_fabSeq (a : Nat) (w : Word) : (s.setWord a w).fabSeq = s.fabSeq := rfl
@[simp] theorem setWord_heads (a : Nat) (w : Word) : (s.setWord a w).heads = s.heads := rfl
@[simp] theorem setWord_prot (a : Nat) (w : Word) : (s.setWord a w).prot = s.prot := rfl
@[simp] theorem setWord_lsLast (a : Nat) (w : Word) : (s.setWord a w).lsLast = s.lsLast := rfl
@[simp] theorem setWord_blt (a : Nat) (w : Word) : (s.setWord a w).blt = s.blt := rfl
@[simp] theorem setWord_cams (a : Nat) (w : Word) : (s.setWord a w).cams = s.cams := rfl
@[simp] theorem setWord_hqs (a : Nat) (w : Word) : (s.setWord a w).hqs = s.hqs := rfl
@[simp] theorem setWord_streams (a : Nat) (w : Word) : (s.setWord a w).streams = s.streams := rfl
@[simp] theorem setWord_host (a : Nat) (w : Word) : (s.setWord a w).host = s.host := rfl
@[simp] theorem setWord_drain (a : Nat) (w : Word) : (s.setWord a w).drain = s.drain := rfl
@[simp] theorem setWord_fab (a : Nat) (w : Word) : (s.setWord a w).fab = s.fab := rfl
@[simp] theorem setWord_outbox (a : Nat) (w : Word) : (s.setWord a w).outbox = s.outbox := rfl

@[simp] theorem wr_pending (pg : Nat) (f : Fld) (v i b : Nat) : (s.wr pg f v i b).pending = s.pending := rfl
@[simp] theorem wr_freeCtr (pg : Nat) (f : Fld) (v i b : Nat) : (s.wr pg f v i b).freeCtr = s.freeCtr := rfl
@[simp] theorem wr_met (pg : Nat) (f : Fld) (v i b : Nat) : (s.wr pg f v i b).met = s.met := rfl
@[simp] theorem wr_fuses (pg : Nat) (f : Fld) (v i b : Nat) : (s.wr pg f v i b).fuses = s.fuses := rfl
@[simp] theorem wr_chip (pg : Nat) (f : Fld) (v i b : Nat) : (s.wr pg f v i b).chip = s.chip := rfl
@[simp] theorem wr_evl (pg : Nat) (f : Fld) (v i b : Nat) : (s.wr pg f v i b).evl = s.evl := rfl
@[simp] theorem wr_lopArgs (pg : Nat) (f : Fld) (v i b : Nat) : (s.wr pg f v i b).lopArgs = s.lopArgs := rfl
@[simp] theorem wr_rink (pg : Nat) (f : Fld) (v i b : Nat) : (s.wr pg f v i b).rink = s.rink := rfl
@[simp] theorem wr_egress (pg : Nat) (f : Fld) (v i b : Nat) : (s.wr pg f v i b).egress = s.egress := rfl
@[simp] theorem wr_snp (pg : Nat) (f : Fld) (v i b : Nat) : (s.wr pg f v i b).snp = s.snp := rfl
@[simp] theorem wr_msi (pg : Nat) (f : Fld) (v i b : Nat) : (s.wr pg f v i b).msi = s.msi := rfl
@[simp] theorem wr_pwr (pg : Nat) (f : Fld) (v i b : Nat) : (s.wr pg f v i b).pwr = s.pwr := rfl
@[simp] theorem wr_ticks (pg : Nat) (f : Fld) (v i b : Nat) : (s.wr pg f v i b).ticks = s.ticks := rfl
@[simp] theorem wr_doneTicks (pg : Nat) (f : Fld) (v i b : Nat) : (s.wr pg f v i b).doneTicks = s.doneTicks := rfl
@[simp] theorem wr_hbm (pg : Nat) (f : Fld) (v i b : Nat) : (s.wr pg f v i b).hbm = s.hbm := rfl
@[simp] theorem wr_poison (pg : Nat) (f : Fld) (v i b : Nat) : (s.wr pg f v i b).poison = s.poison := rfl
@[simp] theorem wr_flash (pg : Nat) (f : Fld) (v i b : Nat) : (s.wr pg f v i b).flash = s.flash := rfl
@[simp] theorem wr_devs (pg : Nat) (f : Fld) (v i b : Nat) : (s.wr pg f v i b).devs = s.devs := rfl
@[simp] theorem wr_plan (pg : Nat) (f : Fld) (v i b : Nat) : (s.wr pg f v i b).plan = s.plan := rfl
@[simp] theorem wr_bootOps (pg : Nat) (f : Fld) (v i b : Nat) : (s.wr pg f v i b).bootOps = s.bootOps := rfl
@[simp] theorem wr_jtag (pg : Nat) (f : Fld) (v i b : Nat) : (s.wr pg f v i b).jtag = s.jtag := rfl
@[simp] theorem wr_outst (pg : Nat) (f : Fld) (v i b : Nat) : (s.wr pg f v i b).outst = s.outst := rfl
@[simp] theorem wr_granOwner (pg : Nat) (f : Fld) (v i b : Nat) : (s.wr pg f v i b).granOwner = s.granOwner := rfl
@[simp] theorem wr_sram (pg : Nat) (f : Fld) (v i b : Nat) : (s.wr pg f v i b).sram = s.sram := rfl
@[simp] theorem wr_sramErr (pg : Nat) (f : Fld) (v i b : Nat) : (s.wr pg f v i b).sramErr = s.sramErr := rfl
@[simp] theorem wr_tiles (pg : Nat) (f : Fld) (v i b : Nat) : (s.wr pg f v i b).tiles = s.tiles := rfl
@[simp] theorem wr_hbmErr (pg : Nat) (f : Fld) (v i b : Nat) : (s.wr pg f v i b).hbmErr = s.hbmErr := rfl
@[simp] theorem wr_hbmFree (pg : Nat) (f : Fld) (v i b : Nat) : (s.wr pg f v i b).hbmFree = s.hbmFree := rfl
@[simp] theorem wr_mcus (pg : Nat) (f : Fld) (v i b : Nat) : (s.wr pg f v i b).mcus = s.mcus := rfl
@[simp] theorem wr_ports (pg : Nat) (f : Fld) (v i b : Nat) : (s.wr pg f v i b).ports = s.ports := rfl
@[simp] theorem wr_stall (pg : Nat) (f : Fld) (v i b : Nat) : (s.wr pg f v i b).stall = s.stall := rfl
@[simp] theorem wr_rotate (pg : Nat) (f : Fld) (v i b : Nat) : (s.wr pg f v i b).rotate = s.rotate := rfl
@[simp] theorem wr_sync (pg : Nat) (f : Fld) (v i b : Nat) : (s.wr pg f v i b).sync = s.sync := rfl
@[simp] theorem wr_parent (pg : Nat) (f : Fld) (v i b : Nat) : (s.wr pg f v i b).parent = s.parent := rfl
@[simp] theorem wr_joinPort (pg : Nat) (f : Fld) (v i b : Nat) : (s.wr pg f v i b).joinPort = s.joinPort := rfl
@[simp] theorem wr_fabSeq (pg : Nat) (f : Fld) (v i b : Nat) : (s.wr pg f v i b).fabSeq = s.fabSeq := rfl
@[simp] theorem wr_heads (pg : Nat) (f : Fld) (v i b : Nat) : (s.wr pg f v i b).heads = s.heads := rfl
@[simp] theorem wr_prot (pg : Nat) (f : Fld) (v i b : Nat) : (s.wr pg f v i b).prot = s.prot := rfl
@[simp] theorem wr_lsLast (pg : Nat) (f : Fld) (v i b : Nat) : (s.wr pg f v i b).lsLast = s.lsLast := rfl
@[simp] theorem wr_blt (pg : Nat) (f : Fld) (v i b : Nat) : (s.wr pg f v i b).blt = s.blt := rfl
@[simp] theorem wr_cams (pg : Nat) (f : Fld) (v i b : Nat) : (s.wr pg f v i b).cams = s.cams := rfl
@[simp] theorem wr_hqs (pg : Nat) (f : Fld) (v i b : Nat) : (s.wr pg f v i b).hqs = s.hqs := rfl
@[simp] theorem wr_streams (pg : Nat) (f : Fld) (v i b : Nat) : (s.wr pg f v i b).streams = s.streams := rfl
@[simp] theorem wr_host (pg : Nat) (f : Fld) (v i b : Nat) : (s.wr pg f v i b).host = s.host := rfl
@[simp] theorem wr_drain (pg : Nat) (f : Fld) (v i b : Nat) : (s.wr pg f v i b).drain = s.drain := rfl
@[simp] theorem wr_fab (pg : Nat) (f : Fld) (v i b : Nat) : (s.wr pg f v i b).fab = s.fab := rfl
@[simp] theorem wr_outbox (pg : Nat) (f : Fld) (v i b : Nat) : (s.wr pg f v i b).outbox = s.outbox := rfl

@[simp] theorem bump_pending (pg : Nat) (f : Fld) (n i b : Nat) : (s.bump pg f n i b).pending = s.pending := rfl
@[simp] theorem bump_freeCtr (pg : Nat) (f : Fld) (n i b : Nat) : (s.bump pg f n i b).freeCtr = s.freeCtr := rfl
@[simp] theorem bump_met (pg : Nat) (f : Fld) (n i b : Nat) : (s.bump pg f n i b).met = s.met := rfl
@[simp] theorem bump_fuses (pg : Nat) (f : Fld) (n i b : Nat) : (s.bump pg f n i b).fuses = s.fuses := rfl
@[simp] theorem bump_chip (pg : Nat) (f : Fld) (n i b : Nat) : (s.bump pg f n i b).chip = s.chip := rfl
@[simp] theorem bump_evl (pg : Nat) (f : Fld) (n i b : Nat) : (s.bump pg f n i b).evl = s.evl := rfl
@[simp] theorem bump_lopArgs (pg : Nat) (f : Fld) (n i b : Nat) : (s.bump pg f n i b).lopArgs = s.lopArgs := rfl
@[simp] theorem bump_rink (pg : Nat) (f : Fld) (n i b : Nat) : (s.bump pg f n i b).rink = s.rink := rfl
@[simp] theorem bump_egress (pg : Nat) (f : Fld) (n i b : Nat) : (s.bump pg f n i b).egress = s.egress := rfl
@[simp] theorem bump_snp (pg : Nat) (f : Fld) (n i b : Nat) : (s.bump pg f n i b).snp = s.snp := rfl
@[simp] theorem bump_msi (pg : Nat) (f : Fld) (n i b : Nat) : (s.bump pg f n i b).msi = s.msi := rfl
@[simp] theorem bump_pwr (pg : Nat) (f : Fld) (n i b : Nat) : (s.bump pg f n i b).pwr = s.pwr := rfl
@[simp] theorem bump_ticks (pg : Nat) (f : Fld) (n i b : Nat) : (s.bump pg f n i b).ticks = s.ticks := rfl
@[simp] theorem bump_doneTicks (pg : Nat) (f : Fld) (n i b : Nat) : (s.bump pg f n i b).doneTicks = s.doneTicks := rfl
@[simp] theorem bump_hbm (pg : Nat) (f : Fld) (n i b : Nat) : (s.bump pg f n i b).hbm = s.hbm := rfl
@[simp] theorem bump_poison (pg : Nat) (f : Fld) (n i b : Nat) : (s.bump pg f n i b).poison = s.poison := rfl
@[simp] theorem bump_flash (pg : Nat) (f : Fld) (n i b : Nat) : (s.bump pg f n i b).flash = s.flash := rfl
@[simp] theorem bump_devs (pg : Nat) (f : Fld) (n i b : Nat) : (s.bump pg f n i b).devs = s.devs := rfl
@[simp] theorem bump_plan (pg : Nat) (f : Fld) (n i b : Nat) : (s.bump pg f n i b).plan = s.plan := rfl
@[simp] theorem bump_bootOps (pg : Nat) (f : Fld) (n i b : Nat) : (s.bump pg f n i b).bootOps = s.bootOps := rfl
@[simp] theorem bump_jtag (pg : Nat) (f : Fld) (n i b : Nat) : (s.bump pg f n i b).jtag = s.jtag := rfl
@[simp] theorem bump_outst (pg : Nat) (f : Fld) (n i b : Nat) : (s.bump pg f n i b).outst = s.outst := rfl
@[simp] theorem bump_granOwner (pg : Nat) (f : Fld) (n i b : Nat) : (s.bump pg f n i b).granOwner = s.granOwner := rfl
@[simp] theorem bump_sram (pg : Nat) (f : Fld) (n i b : Nat) : (s.bump pg f n i b).sram = s.sram := rfl
@[simp] theorem bump_sramErr (pg : Nat) (f : Fld) (n i b : Nat) : (s.bump pg f n i b).sramErr = s.sramErr := rfl
@[simp] theorem bump_tiles (pg : Nat) (f : Fld) (n i b : Nat) : (s.bump pg f n i b).tiles = s.tiles := rfl
@[simp] theorem bump_hbmErr (pg : Nat) (f : Fld) (n i b : Nat) : (s.bump pg f n i b).hbmErr = s.hbmErr := rfl
@[simp] theorem bump_hbmFree (pg : Nat) (f : Fld) (n i b : Nat) : (s.bump pg f n i b).hbmFree = s.hbmFree := rfl
@[simp] theorem bump_mcus (pg : Nat) (f : Fld) (n i b : Nat) : (s.bump pg f n i b).mcus = s.mcus := rfl
@[simp] theorem bump_ports (pg : Nat) (f : Fld) (n i b : Nat) : (s.bump pg f n i b).ports = s.ports := rfl
@[simp] theorem bump_stall (pg : Nat) (f : Fld) (n i b : Nat) : (s.bump pg f n i b).stall = s.stall := rfl
@[simp] theorem bump_rotate (pg : Nat) (f : Fld) (n i b : Nat) : (s.bump pg f n i b).rotate = s.rotate := rfl
@[simp] theorem bump_sync (pg : Nat) (f : Fld) (n i b : Nat) : (s.bump pg f n i b).sync = s.sync := rfl
@[simp] theorem bump_parent (pg : Nat) (f : Fld) (n i b : Nat) : (s.bump pg f n i b).parent = s.parent := rfl
@[simp] theorem bump_joinPort (pg : Nat) (f : Fld) (n i b : Nat) : (s.bump pg f n i b).joinPort = s.joinPort := rfl
@[simp] theorem bump_fabSeq (pg : Nat) (f : Fld) (n i b : Nat) : (s.bump pg f n i b).fabSeq = s.fabSeq := rfl
@[simp] theorem bump_heads (pg : Nat) (f : Fld) (n i b : Nat) : (s.bump pg f n i b).heads = s.heads := rfl
@[simp] theorem bump_prot (pg : Nat) (f : Fld) (n i b : Nat) : (s.bump pg f n i b).prot = s.prot := rfl
@[simp] theorem bump_lsLast (pg : Nat) (f : Fld) (n i b : Nat) : (s.bump pg f n i b).lsLast = s.lsLast := rfl
@[simp] theorem bump_blt (pg : Nat) (f : Fld) (n i b : Nat) : (s.bump pg f n i b).blt = s.blt := rfl
@[simp] theorem bump_cams (pg : Nat) (f : Fld) (n i b : Nat) : (s.bump pg f n i b).cams = s.cams := rfl
@[simp] theorem bump_hqs (pg : Nat) (f : Fld) (n i b : Nat) : (s.bump pg f n i b).hqs = s.hqs := rfl
@[simp] theorem bump_streams (pg : Nat) (f : Fld) (n i b : Nat) : (s.bump pg f n i b).streams = s.streams := rfl
@[simp] theorem bump_host (pg : Nat) (f : Fld) (n i b : Nat) : (s.bump pg f n i b).host = s.host := rfl
@[simp] theorem bump_drain (pg : Nat) (f : Fld) (n i b : Nat) : (s.bump pg f n i b).drain = s.drain := rfl
@[simp] theorem bump_fab (pg : Nat) (f : Fld) (n i b : Nat) : (s.bump pg f n i b).fab = s.fab := rfl
@[simp] theorem bump_outbox (pg : Nat) (f : Fld) (n i b : Nat) : (s.bump pg f n i b).outbox = s.outbox := rfl

@[simp] theorem inc_pending (pg : Nat) (f : Fld) (i b : Nat) : (s.inc pg f i b).pending = s.pending := rfl
@[simp] theorem inc_freeCtr (pg : Nat) (f : Fld) (i b : Nat) : (s.inc pg f i b).freeCtr = s.freeCtr := rfl
@[simp] theorem inc_met (pg : Nat) (f : Fld) (i b : Nat) : (s.inc pg f i b).met = s.met := rfl
@[simp] theorem inc_fuses (pg : Nat) (f : Fld) (i b : Nat) : (s.inc pg f i b).fuses = s.fuses := rfl
@[simp] theorem inc_chip (pg : Nat) (f : Fld) (i b : Nat) : (s.inc pg f i b).chip = s.chip := rfl
@[simp] theorem inc_evl (pg : Nat) (f : Fld) (i b : Nat) : (s.inc pg f i b).evl = s.evl := rfl
@[simp] theorem inc_lopArgs (pg : Nat) (f : Fld) (i b : Nat) : (s.inc pg f i b).lopArgs = s.lopArgs := rfl
@[simp] theorem inc_rink (pg : Nat) (f : Fld) (i b : Nat) : (s.inc pg f i b).rink = s.rink := rfl
@[simp] theorem inc_egress (pg : Nat) (f : Fld) (i b : Nat) : (s.inc pg f i b).egress = s.egress := rfl
@[simp] theorem inc_snp (pg : Nat) (f : Fld) (i b : Nat) : (s.inc pg f i b).snp = s.snp := rfl
@[simp] theorem inc_msi (pg : Nat) (f : Fld) (i b : Nat) : (s.inc pg f i b).msi = s.msi := rfl
@[simp] theorem inc_pwr (pg : Nat) (f : Fld) (i b : Nat) : (s.inc pg f i b).pwr = s.pwr := rfl
@[simp] theorem inc_ticks (pg : Nat) (f : Fld) (i b : Nat) : (s.inc pg f i b).ticks = s.ticks := rfl
@[simp] theorem inc_doneTicks (pg : Nat) (f : Fld) (i b : Nat) : (s.inc pg f i b).doneTicks = s.doneTicks := rfl
@[simp] theorem inc_hbm (pg : Nat) (f : Fld) (i b : Nat) : (s.inc pg f i b).hbm = s.hbm := rfl
@[simp] theorem inc_poison (pg : Nat) (f : Fld) (i b : Nat) : (s.inc pg f i b).poison = s.poison := rfl
@[simp] theorem inc_flash (pg : Nat) (f : Fld) (i b : Nat) : (s.inc pg f i b).flash = s.flash := rfl
@[simp] theorem inc_devs (pg : Nat) (f : Fld) (i b : Nat) : (s.inc pg f i b).devs = s.devs := rfl
@[simp] theorem inc_plan (pg : Nat) (f : Fld) (i b : Nat) : (s.inc pg f i b).plan = s.plan := rfl
@[simp] theorem inc_bootOps (pg : Nat) (f : Fld) (i b : Nat) : (s.inc pg f i b).bootOps = s.bootOps := rfl
@[simp] theorem inc_jtag (pg : Nat) (f : Fld) (i b : Nat) : (s.inc pg f i b).jtag = s.jtag := rfl
@[simp] theorem inc_outst (pg : Nat) (f : Fld) (i b : Nat) : (s.inc pg f i b).outst = s.outst := rfl
@[simp] theorem inc_granOwner (pg : Nat) (f : Fld) (i b : Nat) : (s.inc pg f i b).granOwner = s.granOwner := rfl
@[simp] theorem inc_sram (pg : Nat) (f : Fld) (i b : Nat) : (s.inc pg f i b).sram = s.sram := rfl
@[simp] theorem inc_sramErr (pg : Nat) (f : Fld) (i b : Nat) : (s.inc pg f i b).sramErr = s.sramErr := rfl
@[simp] theorem inc_tiles (pg : Nat) (f : Fld) (i b : Nat) : (s.inc pg f i b).tiles = s.tiles := rfl
@[simp] theorem inc_hbmErr (pg : Nat) (f : Fld) (i b : Nat) : (s.inc pg f i b).hbmErr = s.hbmErr := rfl
@[simp] theorem inc_hbmFree (pg : Nat) (f : Fld) (i b : Nat) : (s.inc pg f i b).hbmFree = s.hbmFree := rfl
@[simp] theorem inc_mcus (pg : Nat) (f : Fld) (i b : Nat) : (s.inc pg f i b).mcus = s.mcus := rfl
@[simp] theorem inc_ports (pg : Nat) (f : Fld) (i b : Nat) : (s.inc pg f i b).ports = s.ports := rfl
@[simp] theorem inc_stall (pg : Nat) (f : Fld) (i b : Nat) : (s.inc pg f i b).stall = s.stall := rfl
@[simp] theorem inc_rotate (pg : Nat) (f : Fld) (i b : Nat) : (s.inc pg f i b).rotate = s.rotate := rfl
@[simp] theorem inc_sync (pg : Nat) (f : Fld) (i b : Nat) : (s.inc pg f i b).sync = s.sync := rfl
@[simp] theorem inc_parent (pg : Nat) (f : Fld) (i b : Nat) : (s.inc pg f i b).parent = s.parent := rfl
@[simp] theorem inc_joinPort (pg : Nat) (f : Fld) (i b : Nat) : (s.inc pg f i b).joinPort = s.joinPort := rfl
@[simp] theorem inc_fabSeq (pg : Nat) (f : Fld) (i b : Nat) : (s.inc pg f i b).fabSeq = s.fabSeq := rfl
@[simp] theorem inc_heads (pg : Nat) (f : Fld) (i b : Nat) : (s.inc pg f i b).heads = s.heads := rfl
@[simp] theorem inc_prot (pg : Nat) (f : Fld) (i b : Nat) : (s.inc pg f i b).prot = s.prot := rfl
@[simp] theorem inc_lsLast (pg : Nat) (f : Fld) (i b : Nat) : (s.inc pg f i b).lsLast = s.lsLast := rfl
@[simp] theorem inc_blt (pg : Nat) (f : Fld) (i b : Nat) : (s.inc pg f i b).blt = s.blt := rfl
@[simp] theorem inc_cams (pg : Nat) (f : Fld) (i b : Nat) : (s.inc pg f i b).cams = s.cams := rfl
@[simp] theorem inc_hqs (pg : Nat) (f : Fld) (i b : Nat) : (s.inc pg f i b).hqs = s.hqs := rfl
@[simp] theorem inc_streams (pg : Nat) (f : Fld) (i b : Nat) : (s.inc pg f i b).streams = s.streams := rfl
@[simp] theorem inc_host (pg : Nat) (f : Fld) (i b : Nat) : (s.inc pg f i b).host = s.host := rfl
@[simp] theorem inc_drain (pg : Nat) (f : Fld) (i b : Nat) : (s.inc pg f i b).drain = s.drain := rfl
@[simp] theorem inc_fab (pg : Nat) (f : Fld) (i b : Nat) : (s.inc pg f i b).fab = s.fab := rfl
@[simp] theorem inc_outbox (pg : Nat) (f : Fld) (i b : Nat) : (s.inc pg f i b).outbox = s.outbox := rfl

@[simp] theorem wr64_pending (pg : Nat) (lo hi : Fld) (v i b : Nat) : (s.wr64 pg lo hi v i b).pending = s.pending := rfl
@[simp] theorem wr64_freeCtr (pg : Nat) (lo hi : Fld) (v i b : Nat) : (s.wr64 pg lo hi v i b).freeCtr = s.freeCtr := rfl
@[simp] theorem wr64_met (pg : Nat) (lo hi : Fld) (v i b : Nat) : (s.wr64 pg lo hi v i b).met = s.met := rfl
@[simp] theorem wr64_fuses (pg : Nat) (lo hi : Fld) (v i b : Nat) : (s.wr64 pg lo hi v i b).fuses = s.fuses := rfl
@[simp] theorem wr64_chip (pg : Nat) (lo hi : Fld) (v i b : Nat) : (s.wr64 pg lo hi v i b).chip = s.chip := rfl
@[simp] theorem wr64_evl (pg : Nat) (lo hi : Fld) (v i b : Nat) : (s.wr64 pg lo hi v i b).evl = s.evl := rfl
@[simp] theorem wr64_lopArgs (pg : Nat) (lo hi : Fld) (v i b : Nat) : (s.wr64 pg lo hi v i b).lopArgs = s.lopArgs := rfl
@[simp] theorem wr64_rink (pg : Nat) (lo hi : Fld) (v i b : Nat) : (s.wr64 pg lo hi v i b).rink = s.rink := rfl
@[simp] theorem wr64_egress (pg : Nat) (lo hi : Fld) (v i b : Nat) : (s.wr64 pg lo hi v i b).egress = s.egress := rfl
@[simp] theorem wr64_snp (pg : Nat) (lo hi : Fld) (v i b : Nat) : (s.wr64 pg lo hi v i b).snp = s.snp := rfl
@[simp] theorem wr64_msi (pg : Nat) (lo hi : Fld) (v i b : Nat) : (s.wr64 pg lo hi v i b).msi = s.msi := rfl
@[simp] theorem wr64_pwr (pg : Nat) (lo hi : Fld) (v i b : Nat) : (s.wr64 pg lo hi v i b).pwr = s.pwr := rfl
@[simp] theorem wr64_ticks (pg : Nat) (lo hi : Fld) (v i b : Nat) : (s.wr64 pg lo hi v i b).ticks = s.ticks := rfl
@[simp] theorem wr64_doneTicks (pg : Nat) (lo hi : Fld) (v i b : Nat) : (s.wr64 pg lo hi v i b).doneTicks = s.doneTicks := rfl
@[simp] theorem wr64_hbm (pg : Nat) (lo hi : Fld) (v i b : Nat) : (s.wr64 pg lo hi v i b).hbm = s.hbm := rfl
@[simp] theorem wr64_poison (pg : Nat) (lo hi : Fld) (v i b : Nat) : (s.wr64 pg lo hi v i b).poison = s.poison := rfl
@[simp] theorem wr64_flash (pg : Nat) (lo hi : Fld) (v i b : Nat) : (s.wr64 pg lo hi v i b).flash = s.flash := rfl
@[simp] theorem wr64_devs (pg : Nat) (lo hi : Fld) (v i b : Nat) : (s.wr64 pg lo hi v i b).devs = s.devs := rfl
@[simp] theorem wr64_plan (pg : Nat) (lo hi : Fld) (v i b : Nat) : (s.wr64 pg lo hi v i b).plan = s.plan := rfl
@[simp] theorem wr64_bootOps (pg : Nat) (lo hi : Fld) (v i b : Nat) : (s.wr64 pg lo hi v i b).bootOps = s.bootOps := rfl
@[simp] theorem wr64_jtag (pg : Nat) (lo hi : Fld) (v i b : Nat) : (s.wr64 pg lo hi v i b).jtag = s.jtag := rfl
@[simp] theorem wr64_outst (pg : Nat) (lo hi : Fld) (v i b : Nat) : (s.wr64 pg lo hi v i b).outst = s.outst := rfl
@[simp] theorem wr64_granOwner (pg : Nat) (lo hi : Fld) (v i b : Nat) : (s.wr64 pg lo hi v i b).granOwner = s.granOwner := rfl
@[simp] theorem wr64_sram (pg : Nat) (lo hi : Fld) (v i b : Nat) : (s.wr64 pg lo hi v i b).sram = s.sram := rfl
@[simp] theorem wr64_sramErr (pg : Nat) (lo hi : Fld) (v i b : Nat) : (s.wr64 pg lo hi v i b).sramErr = s.sramErr := rfl
@[simp] theorem wr64_tiles (pg : Nat) (lo hi : Fld) (v i b : Nat) : (s.wr64 pg lo hi v i b).tiles = s.tiles := rfl
@[simp] theorem wr64_hbmErr (pg : Nat) (lo hi : Fld) (v i b : Nat) : (s.wr64 pg lo hi v i b).hbmErr = s.hbmErr := rfl
@[simp] theorem wr64_hbmFree (pg : Nat) (lo hi : Fld) (v i b : Nat) : (s.wr64 pg lo hi v i b).hbmFree = s.hbmFree := rfl
@[simp] theorem wr64_mcus (pg : Nat) (lo hi : Fld) (v i b : Nat) : (s.wr64 pg lo hi v i b).mcus = s.mcus := rfl
@[simp] theorem wr64_ports (pg : Nat) (lo hi : Fld) (v i b : Nat) : (s.wr64 pg lo hi v i b).ports = s.ports := rfl
@[simp] theorem wr64_stall (pg : Nat) (lo hi : Fld) (v i b : Nat) : (s.wr64 pg lo hi v i b).stall = s.stall := rfl
@[simp] theorem wr64_rotate (pg : Nat) (lo hi : Fld) (v i b : Nat) : (s.wr64 pg lo hi v i b).rotate = s.rotate := rfl
@[simp] theorem wr64_sync (pg : Nat) (lo hi : Fld) (v i b : Nat) : (s.wr64 pg lo hi v i b).sync = s.sync := rfl
@[simp] theorem wr64_parent (pg : Nat) (lo hi : Fld) (v i b : Nat) : (s.wr64 pg lo hi v i b).parent = s.parent := rfl
@[simp] theorem wr64_joinPort (pg : Nat) (lo hi : Fld) (v i b : Nat) : (s.wr64 pg lo hi v i b).joinPort = s.joinPort := rfl
@[simp] theorem wr64_fabSeq (pg : Nat) (lo hi : Fld) (v i b : Nat) : (s.wr64 pg lo hi v i b).fabSeq = s.fabSeq := rfl
@[simp] theorem wr64_heads (pg : Nat) (lo hi : Fld) (v i b : Nat) : (s.wr64 pg lo hi v i b).heads = s.heads := rfl
@[simp] theorem wr64_prot (pg : Nat) (lo hi : Fld) (v i b : Nat) : (s.wr64 pg lo hi v i b).prot = s.prot := rfl
@[simp] theorem wr64_lsLast (pg : Nat) (lo hi : Fld) (v i b : Nat) : (s.wr64 pg lo hi v i b).lsLast = s.lsLast := rfl
@[simp] theorem wr64_blt (pg : Nat) (lo hi : Fld) (v i b : Nat) : (s.wr64 pg lo hi v i b).blt = s.blt := rfl
@[simp] theorem wr64_cams (pg : Nat) (lo hi : Fld) (v i b : Nat) : (s.wr64 pg lo hi v i b).cams = s.cams := rfl
@[simp] theorem wr64_hqs (pg : Nat) (lo hi : Fld) (v i b : Nat) : (s.wr64 pg lo hi v i b).hqs = s.hqs := rfl
@[simp] theorem wr64_streams (pg : Nat) (lo hi : Fld) (v i b : Nat) : (s.wr64 pg lo hi v i b).streams = s.streams := rfl
@[simp] theorem wr64_host (pg : Nat) (lo hi : Fld) (v i b : Nat) : (s.wr64 pg lo hi v i b).host = s.host := rfl
@[simp] theorem wr64_drain (pg : Nat) (lo hi : Fld) (v i b : Nat) : (s.wr64 pg lo hi v i b).drain = s.drain := rfl
@[simp] theorem wr64_fab (pg : Nat) (lo hi : Fld) (v i b : Nat) : (s.wr64 pg lo hi v i b).fab = s.fab := rfl
@[simp] theorem wr64_outbox (pg : Nat) (lo hi : Fld) (v i b : Nat) : (s.wr64 pg lo hi v i b).outbox = s.outbox := rfl

@[simp] theorem put_pending (p : Packet) : (s.put p).pending = s.pending := rfl
@[simp] theorem put_regs (p : Packet) : (s.put p).regs = s.regs := rfl
@[simp] theorem put_freeCtr (p : Packet) : (s.put p).freeCtr = s.freeCtr := rfl
@[simp] theorem put_met (p : Packet) : (s.put p).met = s.met := rfl
@[simp] theorem put_fuses (p : Packet) : (s.put p).fuses = s.fuses := rfl
@[simp] theorem put_chip (p : Packet) : (s.put p).chip = s.chip := rfl
@[simp] theorem put_evl (p : Packet) : (s.put p).evl = s.evl := rfl
@[simp] theorem put_lopArgs (p : Packet) : (s.put p).lopArgs = s.lopArgs := rfl
@[simp] theorem put_egress (p : Packet) : (s.put p).egress = s.egress := rfl
@[simp] theorem put_snp (p : Packet) : (s.put p).snp = s.snp := rfl
@[simp] theorem put_msi (p : Packet) : (s.put p).msi = s.msi := rfl
@[simp] theorem put_pwr (p : Packet) : (s.put p).pwr = s.pwr := rfl
@[simp] theorem put_ticks (p : Packet) : (s.put p).ticks = s.ticks := rfl
@[simp] theorem put_doneTicks (p : Packet) : (s.put p).doneTicks = s.doneTicks := rfl
@[simp] theorem put_hbm (p : Packet) : (s.put p).hbm = s.hbm := rfl
@[simp] theorem put_poison (p : Packet) : (s.put p).poison = s.poison := rfl
@[simp] theorem put_flash (p : Packet) : (s.put p).flash = s.flash := rfl
@[simp] theorem put_devs (p : Packet) : (s.put p).devs = s.devs := rfl
@[simp] theorem put_plan (p : Packet) : (s.put p).plan = s.plan := rfl
@[simp] theorem put_bootOps (p : Packet) : (s.put p).bootOps = s.bootOps := rfl
@[simp] theorem put_jtag (p : Packet) : (s.put p).jtag = s.jtag := rfl
@[simp] theorem put_outst (p : Packet) : (s.put p).outst = s.outst := rfl
@[simp] theorem put_granOwner (p : Packet) : (s.put p).granOwner = s.granOwner := rfl
@[simp] theorem put_sram (p : Packet) : (s.put p).sram = s.sram := rfl
@[simp] theorem put_sramErr (p : Packet) : (s.put p).sramErr = s.sramErr := rfl
@[simp] theorem put_tiles (p : Packet) : (s.put p).tiles = s.tiles := rfl
@[simp] theorem put_hbmErr (p : Packet) : (s.put p).hbmErr = s.hbmErr := rfl
@[simp] theorem put_hbmFree (p : Packet) : (s.put p).hbmFree = s.hbmFree := rfl
@[simp] theorem put_mcus (p : Packet) : (s.put p).mcus = s.mcus := rfl
@[simp] theorem put_ports (p : Packet) : (s.put p).ports = s.ports := rfl
@[simp] theorem put_stall (p : Packet) : (s.put p).stall = s.stall := rfl
@[simp] theorem put_rotate (p : Packet) : (s.put p).rotate = s.rotate := rfl
@[simp] theorem put_sync (p : Packet) : (s.put p).sync = s.sync := rfl
@[simp] theorem put_parent (p : Packet) : (s.put p).parent = s.parent := rfl
@[simp] theorem put_joinPort (p : Packet) : (s.put p).joinPort = s.joinPort := rfl
@[simp] theorem put_fabSeq (p : Packet) : (s.put p).fabSeq = s.fabSeq := rfl
@[simp] theorem put_heads (p : Packet) : (s.put p).heads = s.heads := rfl
@[simp] theorem put_prot (p : Packet) : (s.put p).prot = s.prot := rfl
@[simp] theorem put_lsLast (p : Packet) : (s.put p).lsLast = s.lsLast := rfl
@[simp] theorem put_blt (p : Packet) : (s.put p).blt = s.blt := rfl
@[simp] theorem put_cams (p : Packet) : (s.put p).cams = s.cams := rfl
@[simp] theorem put_hqs (p : Packet) : (s.put p).hqs = s.hqs := rfl
@[simp] theorem put_streams (p : Packet) : (s.put p).streams = s.streams := rfl
@[simp] theorem put_host (p : Packet) : (s.put p).host = s.host := rfl
@[simp] theorem put_drain (p : Packet) : (s.put p).drain = s.drain := rfl
@[simp] theorem put_fab (p : Packet) : (s.put p).fab = s.fab := rfl
@[simp] theorem put_outbox (p : Packet) : (s.put p).outbox = s.outbox := rfl

@[simp] theorem put_word (p : Packet) (x' : Nat) : (s.put p).word x' = s.word x' := rfl
@[simp] theorem put_rd (p : Packet) (pg' : Nat) (f' : Fld) (i' b' : Nat) :
    (s.put p).rd pg' f' i' b' = s.rd pg' f' i' b' := rfl
@[simp] theorem put_flag (p : Packet) (pg' : Nat) (f' : Fld) (i' b' : Nat) :
    (s.put p).flag pg' f' i' b' = s.flag pg' f' i' b' := rfl

@[simp] theorem emit_pending (o : Output) : (s.emit o).pending = s.pending := rfl
@[simp] theorem emit_regs (o : Output) : (s.emit o).regs = s.regs := rfl
@[simp] theorem emit_freeCtr (o : Output) : (s.emit o).freeCtr = s.freeCtr := rfl
@[simp] theorem emit_met (o : Output) : (s.emit o).met = s.met := rfl
@[simp] theorem emit_fuses (o : Output) : (s.emit o).fuses = s.fuses := rfl
@[simp] theorem emit_chip (o : Output) : (s.emit o).chip = s.chip := rfl
@[simp] theorem emit_evl (o : Output) : (s.emit o).evl = s.evl := rfl
@[simp] theorem emit_lopArgs (o : Output) : (s.emit o).lopArgs = s.lopArgs := rfl
@[simp] theorem emit_rink (o : Output) : (s.emit o).rink = s.rink := rfl
@[simp] theorem emit_egress (o : Output) : (s.emit o).egress = s.egress := rfl
@[simp] theorem emit_snp (o : Output) : (s.emit o).snp = s.snp := rfl
@[simp] theorem emit_msi (o : Output) : (s.emit o).msi = s.msi := rfl
@[simp] theorem emit_pwr (o : Output) : (s.emit o).pwr = s.pwr := rfl
@[simp] theorem emit_ticks (o : Output) : (s.emit o).ticks = s.ticks := rfl
@[simp] theorem emit_doneTicks (o : Output) : (s.emit o).doneTicks = s.doneTicks := rfl
@[simp] theorem emit_hbm (o : Output) : (s.emit o).hbm = s.hbm := rfl
@[simp] theorem emit_poison (o : Output) : (s.emit o).poison = s.poison := rfl
@[simp] theorem emit_flash (o : Output) : (s.emit o).flash = s.flash := rfl
@[simp] theorem emit_devs (o : Output) : (s.emit o).devs = s.devs := rfl
@[simp] theorem emit_plan (o : Output) : (s.emit o).plan = s.plan := rfl
@[simp] theorem emit_bootOps (o : Output) : (s.emit o).bootOps = s.bootOps := rfl
@[simp] theorem emit_jtag (o : Output) : (s.emit o).jtag = s.jtag := rfl
@[simp] theorem emit_outst (o : Output) : (s.emit o).outst = s.outst := rfl
@[simp] theorem emit_granOwner (o : Output) : (s.emit o).granOwner = s.granOwner := rfl
@[simp] theorem emit_sram (o : Output) : (s.emit o).sram = s.sram := rfl
@[simp] theorem emit_sramErr (o : Output) : (s.emit o).sramErr = s.sramErr := rfl
@[simp] theorem emit_tiles (o : Output) : (s.emit o).tiles = s.tiles := rfl
@[simp] theorem emit_hbmErr (o : Output) : (s.emit o).hbmErr = s.hbmErr := rfl
@[simp] theorem emit_hbmFree (o : Output) : (s.emit o).hbmFree = s.hbmFree := rfl
@[simp] theorem emit_mcus (o : Output) : (s.emit o).mcus = s.mcus := rfl
@[simp] theorem emit_ports (o : Output) : (s.emit o).ports = s.ports := rfl
@[simp] theorem emit_stall (o : Output) : (s.emit o).stall = s.stall := rfl
@[simp] theorem emit_rotate (o : Output) : (s.emit o).rotate = s.rotate := rfl
@[simp] theorem emit_sync (o : Output) : (s.emit o).sync = s.sync := rfl
@[simp] theorem emit_parent (o : Output) : (s.emit o).parent = s.parent := rfl
@[simp] theorem emit_joinPort (o : Output) : (s.emit o).joinPort = s.joinPort := rfl
@[simp] theorem emit_fabSeq (o : Output) : (s.emit o).fabSeq = s.fabSeq := rfl
@[simp] theorem emit_heads (o : Output) : (s.emit o).heads = s.heads := rfl
@[simp] theorem emit_prot (o : Output) : (s.emit o).prot = s.prot := rfl
@[simp] theorem emit_lsLast (o : Output) : (s.emit o).lsLast = s.lsLast := rfl
@[simp] theorem emit_blt (o : Output) : (s.emit o).blt = s.blt := rfl
@[simp] theorem emit_cams (o : Output) : (s.emit o).cams = s.cams := rfl
@[simp] theorem emit_hqs (o : Output) : (s.emit o).hqs = s.hqs := rfl
@[simp] theorem emit_streams (o : Output) : (s.emit o).streams = s.streams := rfl
@[simp] theorem emit_host (o : Output) : (s.emit o).host = s.host := rfl
@[simp] theorem emit_drain (o : Output) : (s.emit o).drain = s.drain := rfl
@[simp] theorem emit_fab (o : Output) : (s.emit o).fab = s.fab := rfl

@[simp] theorem emit_word (o : Output) (x' : Nat) : (s.emit o).word x' = s.word x' := rfl
@[simp] theorem emit_rd (o : Output) (pg' : Nat) (f' : Fld) (i' b' : Nat) :
    (s.emit o).rd pg' f' i' b' = s.rd pg' f' i' b' := rfl
@[simp] theorem emit_flag (o : Output) (pg' : Nat) (f' : Fld) (i' b' : Nat) :
    (s.emit o).flag pg' f' i' b' = s.flag pg' f' i' b' := rfl

@[simp] theorem setPort_pending (g : Nat) (p : Port) : (s.setPort g p).pending = s.pending := rfl
@[simp] theorem setPort_regs (g : Nat) (p : Port) : (s.setPort g p).regs = s.regs := rfl
@[simp] theorem setPort_freeCtr (g : Nat) (p : Port) : (s.setPort g p).freeCtr = s.freeCtr := rfl
@[simp] theorem setPort_met (g : Nat) (p : Port) : (s.setPort g p).met = s.met := rfl
@[simp] theorem setPort_fuses (g : Nat) (p : Port) : (s.setPort g p).fuses = s.fuses := rfl
@[simp] theorem setPort_chip (g : Nat) (p : Port) : (s.setPort g p).chip = s.chip := rfl
@[simp] theorem setPort_evl (g : Nat) (p : Port) : (s.setPort g p).evl = s.evl := rfl
@[simp] theorem setPort_lopArgs (g : Nat) (p : Port) : (s.setPort g p).lopArgs = s.lopArgs := rfl
@[simp] theorem setPort_rink (g : Nat) (p : Port) : (s.setPort g p).rink = s.rink := rfl
@[simp] theorem setPort_egress (g : Nat) (p : Port) : (s.setPort g p).egress = s.egress := rfl
@[simp] theorem setPort_snp (g : Nat) (p : Port) : (s.setPort g p).snp = s.snp := rfl
@[simp] theorem setPort_msi (g : Nat) (p : Port) : (s.setPort g p).msi = s.msi := rfl
@[simp] theorem setPort_pwr (g : Nat) (p : Port) : (s.setPort g p).pwr = s.pwr := rfl
@[simp] theorem setPort_ticks (g : Nat) (p : Port) : (s.setPort g p).ticks = s.ticks := rfl
@[simp] theorem setPort_doneTicks (g : Nat) (p : Port) : (s.setPort g p).doneTicks = s.doneTicks := rfl
@[simp] theorem setPort_hbm (g : Nat) (p : Port) : (s.setPort g p).hbm = s.hbm := rfl
@[simp] theorem setPort_poison (g : Nat) (p : Port) : (s.setPort g p).poison = s.poison := rfl
@[simp] theorem setPort_flash (g : Nat) (p : Port) : (s.setPort g p).flash = s.flash := rfl
@[simp] theorem setPort_devs (g : Nat) (p : Port) : (s.setPort g p).devs = s.devs := rfl
@[simp] theorem setPort_plan (g : Nat) (p : Port) : (s.setPort g p).plan = s.plan := rfl
@[simp] theorem setPort_bootOps (g : Nat) (p : Port) : (s.setPort g p).bootOps = s.bootOps := rfl
@[simp] theorem setPort_jtag (g : Nat) (p : Port) : (s.setPort g p).jtag = s.jtag := rfl
@[simp] theorem setPort_outst (g : Nat) (p : Port) : (s.setPort g p).outst = s.outst := rfl
@[simp] theorem setPort_granOwner (g : Nat) (p : Port) : (s.setPort g p).granOwner = s.granOwner := rfl
@[simp] theorem setPort_sram (g : Nat) (p : Port) : (s.setPort g p).sram = s.sram := rfl
@[simp] theorem setPort_sramErr (g : Nat) (p : Port) : (s.setPort g p).sramErr = s.sramErr := rfl
@[simp] theorem setPort_tiles (g : Nat) (p : Port) : (s.setPort g p).tiles = s.tiles := rfl
@[simp] theorem setPort_hbmErr (g : Nat) (p : Port) : (s.setPort g p).hbmErr = s.hbmErr := rfl
@[simp] theorem setPort_hbmFree (g : Nat) (p : Port) : (s.setPort g p).hbmFree = s.hbmFree := rfl
@[simp] theorem setPort_mcus (g : Nat) (p : Port) : (s.setPort g p).mcus = s.mcus := rfl
@[simp] theorem setPort_stall (g : Nat) (p : Port) : (s.setPort g p).stall = s.stall := rfl
@[simp] theorem setPort_rotate (g : Nat) (p : Port) : (s.setPort g p).rotate = s.rotate := rfl
@[simp] theorem setPort_sync (g : Nat) (p : Port) : (s.setPort g p).sync = s.sync := rfl
@[simp] theorem setPort_parent (g : Nat) (p : Port) : (s.setPort g p).parent = s.parent := rfl
@[simp] theorem setPort_joinPort (g : Nat) (p : Port) : (s.setPort g p).joinPort = s.joinPort := rfl
@[simp] theorem setPort_fabSeq (g : Nat) (p : Port) : (s.setPort g p).fabSeq = s.fabSeq := rfl
@[simp] theorem setPort_heads (g : Nat) (p : Port) : (s.setPort g p).heads = s.heads := rfl
@[simp] theorem setPort_prot (g : Nat) (p : Port) : (s.setPort g p).prot = s.prot := rfl
@[simp] theorem setPort_lsLast (g : Nat) (p : Port) : (s.setPort g p).lsLast = s.lsLast := rfl
@[simp] theorem setPort_blt (g : Nat) (p : Port) : (s.setPort g p).blt = s.blt := rfl
@[simp] theorem setPort_cams (g : Nat) (p : Port) : (s.setPort g p).cams = s.cams := rfl
@[simp] theorem setPort_hqs (g : Nat) (p : Port) : (s.setPort g p).hqs = s.hqs := rfl
@[simp] theorem setPort_streams (g : Nat) (p : Port) : (s.setPort g p).streams = s.streams := rfl
@[simp] theorem setPort_host (g : Nat) (p : Port) : (s.setPort g p).host = s.host := rfl
@[simp] theorem setPort_drain (g : Nat) (p : Port) : (s.setPort g p).drain = s.drain := rfl
@[simp] theorem setPort_fab (g : Nat) (p : Port) : (s.setPort g p).fab = s.fab := rfl
@[simp] theorem setPort_outbox (g : Nat) (p : Port) : (s.setPort g p).outbox = s.outbox := rfl

@[simp] theorem setPort_word (g : Nat) (p : Port) (x' : Nat) : (s.setPort g p).word x' = s.word x' := rfl
@[simp] theorem setPort_rd (g : Nat) (p : Port) (pg' : Nat) (f' : Fld) (i' b' : Nat) :
    (s.setPort g p).rd pg' f' i' b' = s.rd pg' f' i' b' := rfl
@[simp] theorem setPort_flag (g : Nat) (p : Port) (pg' : Nat) (f' : Fld) (i' b' : Nat) :
    (s.setPort g p).flag pg' f' i' b' = s.flag pg' f' i' b' := rfl

@[simp] theorem modPort_pending (g : Nat) (f : Port → Port) : (s.modPort g f).pending = s.pending := rfl
@[simp] theorem modPort_regs (g : Nat) (f : Port → Port) : (s.modPort g f).regs = s.regs := rfl
@[simp] theorem modPort_freeCtr (g : Nat) (f : Port → Port) : (s.modPort g f).freeCtr = s.freeCtr := rfl
@[simp] theorem modPort_met (g : Nat) (f : Port → Port) : (s.modPort g f).met = s.met := rfl
@[simp] theorem modPort_fuses (g : Nat) (f : Port → Port) : (s.modPort g f).fuses = s.fuses := rfl
@[simp] theorem modPort_chip (g : Nat) (f : Port → Port) : (s.modPort g f).chip = s.chip := rfl
@[simp] theorem modPort_evl (g : Nat) (f : Port → Port) : (s.modPort g f).evl = s.evl := rfl
@[simp] theorem modPort_lopArgs (g : Nat) (f : Port → Port) : (s.modPort g f).lopArgs = s.lopArgs := rfl
@[simp] theorem modPort_rink (g : Nat) (f : Port → Port) : (s.modPort g f).rink = s.rink := rfl
@[simp] theorem modPort_egress (g : Nat) (f : Port → Port) : (s.modPort g f).egress = s.egress := rfl
@[simp] theorem modPort_snp (g : Nat) (f : Port → Port) : (s.modPort g f).snp = s.snp := rfl
@[simp] theorem modPort_msi (g : Nat) (f : Port → Port) : (s.modPort g f).msi = s.msi := rfl
@[simp] theorem modPort_pwr (g : Nat) (f : Port → Port) : (s.modPort g f).pwr = s.pwr := rfl
@[simp] theorem modPort_ticks (g : Nat) (f : Port → Port) : (s.modPort g f).ticks = s.ticks := rfl
@[simp] theorem modPort_doneTicks (g : Nat) (f : Port → Port) : (s.modPort g f).doneTicks = s.doneTicks := rfl
@[simp] theorem modPort_hbm (g : Nat) (f : Port → Port) : (s.modPort g f).hbm = s.hbm := rfl
@[simp] theorem modPort_poison (g : Nat) (f : Port → Port) : (s.modPort g f).poison = s.poison := rfl
@[simp] theorem modPort_flash (g : Nat) (f : Port → Port) : (s.modPort g f).flash = s.flash := rfl
@[simp] theorem modPort_devs (g : Nat) (f : Port → Port) : (s.modPort g f).devs = s.devs := rfl
@[simp] theorem modPort_plan (g : Nat) (f : Port → Port) : (s.modPort g f).plan = s.plan := rfl
@[simp] theorem modPort_bootOps (g : Nat) (f : Port → Port) : (s.modPort g f).bootOps = s.bootOps := rfl
@[simp] theorem modPort_jtag (g : Nat) (f : Port → Port) : (s.modPort g f).jtag = s.jtag := rfl
@[simp] theorem modPort_outst (g : Nat) (f : Port → Port) : (s.modPort g f).outst = s.outst := rfl
@[simp] theorem modPort_granOwner (g : Nat) (f : Port → Port) : (s.modPort g f).granOwner = s.granOwner := rfl
@[simp] theorem modPort_sram (g : Nat) (f : Port → Port) : (s.modPort g f).sram = s.sram := rfl
@[simp] theorem modPort_sramErr (g : Nat) (f : Port → Port) : (s.modPort g f).sramErr = s.sramErr := rfl
@[simp] theorem modPort_tiles (g : Nat) (f : Port → Port) : (s.modPort g f).tiles = s.tiles := rfl
@[simp] theorem modPort_hbmErr (g : Nat) (f : Port → Port) : (s.modPort g f).hbmErr = s.hbmErr := rfl
@[simp] theorem modPort_hbmFree (g : Nat) (f : Port → Port) : (s.modPort g f).hbmFree = s.hbmFree := rfl
@[simp] theorem modPort_mcus (g : Nat) (f : Port → Port) : (s.modPort g f).mcus = s.mcus := rfl
@[simp] theorem modPort_stall (g : Nat) (f : Port → Port) : (s.modPort g f).stall = s.stall := rfl
@[simp] theorem modPort_rotate (g : Nat) (f : Port → Port) : (s.modPort g f).rotate = s.rotate := rfl
@[simp] theorem modPort_sync (g : Nat) (f : Port → Port) : (s.modPort g f).sync = s.sync := rfl
@[simp] theorem modPort_parent (g : Nat) (f : Port → Port) : (s.modPort g f).parent = s.parent := rfl
@[simp] theorem modPort_joinPort (g : Nat) (f : Port → Port) : (s.modPort g f).joinPort = s.joinPort := rfl
@[simp] theorem modPort_fabSeq (g : Nat) (f : Port → Port) : (s.modPort g f).fabSeq = s.fabSeq := rfl
@[simp] theorem modPort_heads (g : Nat) (f : Port → Port) : (s.modPort g f).heads = s.heads := rfl
@[simp] theorem modPort_prot (g : Nat) (f : Port → Port) : (s.modPort g f).prot = s.prot := rfl
@[simp] theorem modPort_lsLast (g : Nat) (f : Port → Port) : (s.modPort g f).lsLast = s.lsLast := rfl
@[simp] theorem modPort_blt (g : Nat) (f : Port → Port) : (s.modPort g f).blt = s.blt := rfl
@[simp] theorem modPort_cams (g : Nat) (f : Port → Port) : (s.modPort g f).cams = s.cams := rfl
@[simp] theorem modPort_hqs (g : Nat) (f : Port → Port) : (s.modPort g f).hqs = s.hqs := rfl
@[simp] theorem modPort_streams (g : Nat) (f : Port → Port) : (s.modPort g f).streams = s.streams := rfl
@[simp] theorem modPort_host (g : Nat) (f : Port → Port) : (s.modPort g f).host = s.host := rfl
@[simp] theorem modPort_drain (g : Nat) (f : Port → Port) : (s.modPort g f).drain = s.drain := rfl
@[simp] theorem modPort_fab (g : Nat) (f : Port → Port) : (s.modPort g f).fab = s.fab := rfl
@[simp] theorem modPort_outbox (g : Nat) (f : Port → Port) : (s.modPort g f).outbox = s.outbox := rfl

@[simp] theorem modPort_word (g : Nat) (f : Port → Port) (x' : Nat) : (s.modPort g f).word x' = s.word x' := rfl
@[simp] theorem modPort_rd (g : Nat) (f : Port → Port) (pg' : Nat) (f' : Fld) (i' b' : Nat) :
    (s.modPort g f).rd pg' f' i' b' = s.rd pg' f' i' b' := rfl
@[simp] theorem modPort_flag (g : Nat) (f : Port → Port) (pg' : Nat) (f' : Fld) (i' b' : Nat) :
    (s.modPort g f).flag pg' f' i' b' = s.flag pg' f' i' b' := rfl

@[simp] theorem setTile_pending (t : Nat) (x : Tile) : (s.setTile t x).pending = s.pending := rfl
@[simp] theorem setTile_regs (t : Nat) (x : Tile) : (s.setTile t x).regs = s.regs := rfl
@[simp] theorem setTile_freeCtr (t : Nat) (x : Tile) : (s.setTile t x).freeCtr = s.freeCtr := rfl
@[simp] theorem setTile_met (t : Nat) (x : Tile) : (s.setTile t x).met = s.met := rfl
@[simp] theorem setTile_fuses (t : Nat) (x : Tile) : (s.setTile t x).fuses = s.fuses := rfl
@[simp] theorem setTile_chip (t : Nat) (x : Tile) : (s.setTile t x).chip = s.chip := rfl
@[simp] theorem setTile_evl (t : Nat) (x : Tile) : (s.setTile t x).evl = s.evl := rfl
@[simp] theorem setTile_lopArgs (t : Nat) (x : Tile) : (s.setTile t x).lopArgs = s.lopArgs := rfl
@[simp] theorem setTile_rink (t : Nat) (x : Tile) : (s.setTile t x).rink = s.rink := rfl
@[simp] theorem setTile_egress (t : Nat) (x : Tile) : (s.setTile t x).egress = s.egress := rfl
@[simp] theorem setTile_snp (t : Nat) (x : Tile) : (s.setTile t x).snp = s.snp := rfl
@[simp] theorem setTile_msi (t : Nat) (x : Tile) : (s.setTile t x).msi = s.msi := rfl
@[simp] theorem setTile_pwr (t : Nat) (x : Tile) : (s.setTile t x).pwr = s.pwr := rfl
@[simp] theorem setTile_ticks (t : Nat) (x : Tile) : (s.setTile t x).ticks = s.ticks := rfl
@[simp] theorem setTile_doneTicks (t : Nat) (x : Tile) : (s.setTile t x).doneTicks = s.doneTicks := rfl
@[simp] theorem setTile_hbm (t : Nat) (x : Tile) : (s.setTile t x).hbm = s.hbm := rfl
@[simp] theorem setTile_poison (t : Nat) (x : Tile) : (s.setTile t x).poison = s.poison := rfl
@[simp] theorem setTile_flash (t : Nat) (x : Tile) : (s.setTile t x).flash = s.flash := rfl
@[simp] theorem setTile_devs (t : Nat) (x : Tile) : (s.setTile t x).devs = s.devs := rfl
@[simp] theorem setTile_plan (t : Nat) (x : Tile) : (s.setTile t x).plan = s.plan := rfl
@[simp] theorem setTile_bootOps (t : Nat) (x : Tile) : (s.setTile t x).bootOps = s.bootOps := rfl
@[simp] theorem setTile_jtag (t : Nat) (x : Tile) : (s.setTile t x).jtag = s.jtag := rfl
@[simp] theorem setTile_outst (t : Nat) (x : Tile) : (s.setTile t x).outst = s.outst := rfl
@[simp] theorem setTile_granOwner (t : Nat) (x : Tile) : (s.setTile t x).granOwner = s.granOwner := rfl
@[simp] theorem setTile_sram (t : Nat) (x : Tile) : (s.setTile t x).sram = s.sram := rfl
@[simp] theorem setTile_sramErr (t : Nat) (x : Tile) : (s.setTile t x).sramErr = s.sramErr := rfl
@[simp] theorem setTile_hbmErr (t : Nat) (x : Tile) : (s.setTile t x).hbmErr = s.hbmErr := rfl
@[simp] theorem setTile_hbmFree (t : Nat) (x : Tile) : (s.setTile t x).hbmFree = s.hbmFree := rfl
@[simp] theorem setTile_mcus (t : Nat) (x : Tile) : (s.setTile t x).mcus = s.mcus := rfl
@[simp] theorem setTile_ports (t : Nat) (x : Tile) : (s.setTile t x).ports = s.ports := rfl
@[simp] theorem setTile_stall (t : Nat) (x : Tile) : (s.setTile t x).stall = s.stall := rfl
@[simp] theorem setTile_rotate (t : Nat) (x : Tile) : (s.setTile t x).rotate = s.rotate := rfl
@[simp] theorem setTile_sync (t : Nat) (x : Tile) : (s.setTile t x).sync = s.sync := rfl
@[simp] theorem setTile_parent (t : Nat) (x : Tile) : (s.setTile t x).parent = s.parent := rfl
@[simp] theorem setTile_joinPort (t : Nat) (x : Tile) : (s.setTile t x).joinPort = s.joinPort := rfl
@[simp] theorem setTile_fabSeq (t : Nat) (x : Tile) : (s.setTile t x).fabSeq = s.fabSeq := rfl
@[simp] theorem setTile_heads (t : Nat) (x : Tile) : (s.setTile t x).heads = s.heads := rfl
@[simp] theorem setTile_prot (t : Nat) (x : Tile) : (s.setTile t x).prot = s.prot := rfl
@[simp] theorem setTile_lsLast (t : Nat) (x : Tile) : (s.setTile t x).lsLast = s.lsLast := rfl
@[simp] theorem setTile_blt (t : Nat) (x : Tile) : (s.setTile t x).blt = s.blt := rfl
@[simp] theorem setTile_cams (t : Nat) (x : Tile) : (s.setTile t x).cams = s.cams := rfl
@[simp] theorem setTile_hqs (t : Nat) (x : Tile) : (s.setTile t x).hqs = s.hqs := rfl
@[simp] theorem setTile_streams (t : Nat) (x : Tile) : (s.setTile t x).streams = s.streams := rfl
@[simp] theorem setTile_host (t : Nat) (x : Tile) : (s.setTile t x).host = s.host := rfl
@[simp] theorem setTile_drain (t : Nat) (x : Tile) : (s.setTile t x).drain = s.drain := rfl
@[simp] theorem setTile_fab (t : Nat) (x : Tile) : (s.setTile t x).fab = s.fab := rfl
@[simp] theorem setTile_outbox (t : Nat) (x : Tile) : (s.setTile t x).outbox = s.outbox := rfl

@[simp] theorem setTile_word (t : Nat) (x : Tile) (x' : Nat) : (s.setTile t x).word x' = s.word x' := rfl
@[simp] theorem setTile_rd (t : Nat) (x : Tile) (pg' : Nat) (f' : Fld) (i' b' : Nat) :
    (s.setTile t x).rd pg' f' i' b' = s.rd pg' f' i' b' := rfl
@[simp] theorem setTile_flag (t : Nat) (x : Tile) (pg' : Nat) (f' : Fld) (i' b' : Nat) :
    (s.setTile t x).flag pg' f' i' b' = s.flag pg' f' i' b' := rfl

@[simp] theorem modTile_pending (t : Nat) (f : Tile → Tile) : (s.modTile t f).pending = s.pending := rfl
@[simp] theorem modTile_regs (t : Nat) (f : Tile → Tile) : (s.modTile t f).regs = s.regs := rfl
@[simp] theorem modTile_freeCtr (t : Nat) (f : Tile → Tile) : (s.modTile t f).freeCtr = s.freeCtr := rfl
@[simp] theorem modTile_met (t : Nat) (f : Tile → Tile) : (s.modTile t f).met = s.met := rfl
@[simp] theorem modTile_fuses (t : Nat) (f : Tile → Tile) : (s.modTile t f).fuses = s.fuses := rfl
@[simp] theorem modTile_chip (t : Nat) (f : Tile → Tile) : (s.modTile t f).chip = s.chip := rfl
@[simp] theorem modTile_evl (t : Nat) (f : Tile → Tile) : (s.modTile t f).evl = s.evl := rfl
@[simp] theorem modTile_lopArgs (t : Nat) (f : Tile → Tile) : (s.modTile t f).lopArgs = s.lopArgs := rfl
@[simp] theorem modTile_rink (t : Nat) (f : Tile → Tile) : (s.modTile t f).rink = s.rink := rfl
@[simp] theorem modTile_egress (t : Nat) (f : Tile → Tile) : (s.modTile t f).egress = s.egress := rfl
@[simp] theorem modTile_snp (t : Nat) (f : Tile → Tile) : (s.modTile t f).snp = s.snp := rfl
@[simp] theorem modTile_msi (t : Nat) (f : Tile → Tile) : (s.modTile t f).msi = s.msi := rfl
@[simp] theorem modTile_pwr (t : Nat) (f : Tile → Tile) : (s.modTile t f).pwr = s.pwr := rfl
@[simp] theorem modTile_ticks (t : Nat) (f : Tile → Tile) : (s.modTile t f).ticks = s.ticks := rfl
@[simp] theorem modTile_doneTicks (t : Nat) (f : Tile → Tile) : (s.modTile t f).doneTicks = s.doneTicks := rfl
@[simp] theorem modTile_hbm (t : Nat) (f : Tile → Tile) : (s.modTile t f).hbm = s.hbm := rfl
@[simp] theorem modTile_poison (t : Nat) (f : Tile → Tile) : (s.modTile t f).poison = s.poison := rfl
@[simp] theorem modTile_flash (t : Nat) (f : Tile → Tile) : (s.modTile t f).flash = s.flash := rfl
@[simp] theorem modTile_devs (t : Nat) (f : Tile → Tile) : (s.modTile t f).devs = s.devs := rfl
@[simp] theorem modTile_plan (t : Nat) (f : Tile → Tile) : (s.modTile t f).plan = s.plan := rfl
@[simp] theorem modTile_bootOps (t : Nat) (f : Tile → Tile) : (s.modTile t f).bootOps = s.bootOps := rfl
@[simp] theorem modTile_jtag (t : Nat) (f : Tile → Tile) : (s.modTile t f).jtag = s.jtag := rfl
@[simp] theorem modTile_outst (t : Nat) (f : Tile → Tile) : (s.modTile t f).outst = s.outst := rfl
@[simp] theorem modTile_granOwner (t : Nat) (f : Tile → Tile) : (s.modTile t f).granOwner = s.granOwner := rfl
@[simp] theorem modTile_sram (t : Nat) (f : Tile → Tile) : (s.modTile t f).sram = s.sram := rfl
@[simp] theorem modTile_sramErr (t : Nat) (f : Tile → Tile) : (s.modTile t f).sramErr = s.sramErr := rfl
@[simp] theorem modTile_hbmErr (t : Nat) (f : Tile → Tile) : (s.modTile t f).hbmErr = s.hbmErr := rfl
@[simp] theorem modTile_hbmFree (t : Nat) (f : Tile → Tile) : (s.modTile t f).hbmFree = s.hbmFree := rfl
@[simp] theorem modTile_mcus (t : Nat) (f : Tile → Tile) : (s.modTile t f).mcus = s.mcus := rfl
@[simp] theorem modTile_ports (t : Nat) (f : Tile → Tile) : (s.modTile t f).ports = s.ports := rfl
@[simp] theorem modTile_stall (t : Nat) (f : Tile → Tile) : (s.modTile t f).stall = s.stall := rfl
@[simp] theorem modTile_rotate (t : Nat) (f : Tile → Tile) : (s.modTile t f).rotate = s.rotate := rfl
@[simp] theorem modTile_sync (t : Nat) (f : Tile → Tile) : (s.modTile t f).sync = s.sync := rfl
@[simp] theorem modTile_parent (t : Nat) (f : Tile → Tile) : (s.modTile t f).parent = s.parent := rfl
@[simp] theorem modTile_joinPort (t : Nat) (f : Tile → Tile) : (s.modTile t f).joinPort = s.joinPort := rfl
@[simp] theorem modTile_fabSeq (t : Nat) (f : Tile → Tile) : (s.modTile t f).fabSeq = s.fabSeq := rfl
@[simp] theorem modTile_heads (t : Nat) (f : Tile → Tile) : (s.modTile t f).heads = s.heads := rfl
@[simp] theorem modTile_prot (t : Nat) (f : Tile → Tile) : (s.modTile t f).prot = s.prot := rfl
@[simp] theorem modTile_lsLast (t : Nat) (f : Tile → Tile) : (s.modTile t f).lsLast = s.lsLast := rfl
@[simp] theorem modTile_blt (t : Nat) (f : Tile → Tile) : (s.modTile t f).blt = s.blt := rfl
@[simp] theorem modTile_cams (t : Nat) (f : Tile → Tile) : (s.modTile t f).cams = s.cams := rfl
@[simp] theorem modTile_hqs (t : Nat) (f : Tile → Tile) : (s.modTile t f).hqs = s.hqs := rfl
@[simp] theorem modTile_streams (t : Nat) (f : Tile → Tile) : (s.modTile t f).streams = s.streams := rfl
@[simp] theorem modTile_host (t : Nat) (f : Tile → Tile) : (s.modTile t f).host = s.host := rfl
@[simp] theorem modTile_drain (t : Nat) (f : Tile → Tile) : (s.modTile t f).drain = s.drain := rfl
@[simp] theorem modTile_fab (t : Nat) (f : Tile → Tile) : (s.modTile t f).fab = s.fab := rfl
@[simp] theorem modTile_outbox (t : Nat) (f : Tile → Tile) : (s.modTile t f).outbox = s.outbox := rfl

@[simp] theorem modTile_word (t : Nat) (f : Tile → Tile) (x' : Nat) : (s.modTile t f).word x' = s.word x' := rfl
@[simp] theorem modTile_rd (t : Nat) (f : Tile → Tile) (pg' : Nat) (f' : Fld) (i' b' : Nat) :
    (s.modTile t f).rd pg' f' i' b' = s.rd pg' f' i' b' := rfl
@[simp] theorem modTile_flag (t : Nat) (f : Tile → Tile) (pg' : Nat) (f' : Fld) (i' b' : Nat) :
    (s.modTile t f).flag pg' f' i' b' = s.flag pg' f' i' b' := rfl

@[simp] theorem modHead_pending (n : Nat) (f : Head → Head) : (s.modHead n f).pending = s.pending := rfl
@[simp] theorem modHead_regs (n : Nat) (f : Head → Head) : (s.modHead n f).regs = s.regs := rfl
@[simp] theorem modHead_freeCtr (n : Nat) (f : Head → Head) : (s.modHead n f).freeCtr = s.freeCtr := rfl
@[simp] theorem modHead_met (n : Nat) (f : Head → Head) : (s.modHead n f).met = s.met := rfl
@[simp] theorem modHead_fuses (n : Nat) (f : Head → Head) : (s.modHead n f).fuses = s.fuses := rfl
@[simp] theorem modHead_chip (n : Nat) (f : Head → Head) : (s.modHead n f).chip = s.chip := rfl
@[simp] theorem modHead_evl (n : Nat) (f : Head → Head) : (s.modHead n f).evl = s.evl := rfl
@[simp] theorem modHead_lopArgs (n : Nat) (f : Head → Head) : (s.modHead n f).lopArgs = s.lopArgs := rfl
@[simp] theorem modHead_rink (n : Nat) (f : Head → Head) : (s.modHead n f).rink = s.rink := rfl
@[simp] theorem modHead_egress (n : Nat) (f : Head → Head) : (s.modHead n f).egress = s.egress := rfl
@[simp] theorem modHead_snp (n : Nat) (f : Head → Head) : (s.modHead n f).snp = s.snp := rfl
@[simp] theorem modHead_msi (n : Nat) (f : Head → Head) : (s.modHead n f).msi = s.msi := rfl
@[simp] theorem modHead_pwr (n : Nat) (f : Head → Head) : (s.modHead n f).pwr = s.pwr := rfl
@[simp] theorem modHead_ticks (n : Nat) (f : Head → Head) : (s.modHead n f).ticks = s.ticks := rfl
@[simp] theorem modHead_doneTicks (n : Nat) (f : Head → Head) : (s.modHead n f).doneTicks = s.doneTicks := rfl
@[simp] theorem modHead_hbm (n : Nat) (f : Head → Head) : (s.modHead n f).hbm = s.hbm := rfl
@[simp] theorem modHead_poison (n : Nat) (f : Head → Head) : (s.modHead n f).poison = s.poison := rfl
@[simp] theorem modHead_flash (n : Nat) (f : Head → Head) : (s.modHead n f).flash = s.flash := rfl
@[simp] theorem modHead_devs (n : Nat) (f : Head → Head) : (s.modHead n f).devs = s.devs := rfl
@[simp] theorem modHead_plan (n : Nat) (f : Head → Head) : (s.modHead n f).plan = s.plan := rfl
@[simp] theorem modHead_bootOps (n : Nat) (f : Head → Head) : (s.modHead n f).bootOps = s.bootOps := rfl
@[simp] theorem modHead_jtag (n : Nat) (f : Head → Head) : (s.modHead n f).jtag = s.jtag := rfl
@[simp] theorem modHead_outst (n : Nat) (f : Head → Head) : (s.modHead n f).outst = s.outst := rfl
@[simp] theorem modHead_granOwner (n : Nat) (f : Head → Head) : (s.modHead n f).granOwner = s.granOwner := rfl
@[simp] theorem modHead_sram (n : Nat) (f : Head → Head) : (s.modHead n f).sram = s.sram := rfl
@[simp] theorem modHead_sramErr (n : Nat) (f : Head → Head) : (s.modHead n f).sramErr = s.sramErr := rfl
@[simp] theorem modHead_tiles (n : Nat) (f : Head → Head) : (s.modHead n f).tiles = s.tiles := rfl
@[simp] theorem modHead_hbmErr (n : Nat) (f : Head → Head) : (s.modHead n f).hbmErr = s.hbmErr := rfl
@[simp] theorem modHead_hbmFree (n : Nat) (f : Head → Head) : (s.modHead n f).hbmFree = s.hbmFree := rfl
@[simp] theorem modHead_mcus (n : Nat) (f : Head → Head) : (s.modHead n f).mcus = s.mcus := rfl
@[simp] theorem modHead_ports (n : Nat) (f : Head → Head) : (s.modHead n f).ports = s.ports := rfl
@[simp] theorem modHead_stall (n : Nat) (f : Head → Head) : (s.modHead n f).stall = s.stall := rfl
@[simp] theorem modHead_rotate (n : Nat) (f : Head → Head) : (s.modHead n f).rotate = s.rotate := rfl
@[simp] theorem modHead_sync (n : Nat) (f : Head → Head) : (s.modHead n f).sync = s.sync := rfl
@[simp] theorem modHead_parent (n : Nat) (f : Head → Head) : (s.modHead n f).parent = s.parent := rfl
@[simp] theorem modHead_joinPort (n : Nat) (f : Head → Head) : (s.modHead n f).joinPort = s.joinPort := rfl
@[simp] theorem modHead_fabSeq (n : Nat) (f : Head → Head) : (s.modHead n f).fabSeq = s.fabSeq := rfl
@[simp] theorem modHead_prot (n : Nat) (f : Head → Head) : (s.modHead n f).prot = s.prot := rfl
@[simp] theorem modHead_lsLast (n : Nat) (f : Head → Head) : (s.modHead n f).lsLast = s.lsLast := rfl
@[simp] theorem modHead_blt (n : Nat) (f : Head → Head) : (s.modHead n f).blt = s.blt := rfl
@[simp] theorem modHead_cams (n : Nat) (f : Head → Head) : (s.modHead n f).cams = s.cams := rfl
@[simp] theorem modHead_hqs (n : Nat) (f : Head → Head) : (s.modHead n f).hqs = s.hqs := rfl
@[simp] theorem modHead_streams (n : Nat) (f : Head → Head) : (s.modHead n f).streams = s.streams := rfl
@[simp] theorem modHead_host (n : Nat) (f : Head → Head) : (s.modHead n f).host = s.host := rfl
@[simp] theorem modHead_drain (n : Nat) (f : Head → Head) : (s.modHead n f).drain = s.drain := rfl
@[simp] theorem modHead_fab (n : Nat) (f : Head → Head) : (s.modHead n f).fab = s.fab := rfl
@[simp] theorem modHead_outbox (n : Nat) (f : Head → Head) : (s.modHead n f).outbox = s.outbox := rfl

@[simp] theorem modHead_word (n : Nat) (f : Head → Head) (x' : Nat) : (s.modHead n f).word x' = s.word x' := rfl
@[simp] theorem modHead_rd (n : Nat) (f : Head → Head) (pg' : Nat) (f' : Fld) (i' b' : Nat) :
    (s.modHead n f).rd pg' f' i' b' = s.rd pg' f' i' b' := rfl
@[simp] theorem modHead_flag (n : Nat) (f : Head → Head) (pg' : Nat) (f' : Fld) (i' b' : Nat) :
    (s.modHead n f).flag pg' f' i' b' = s.flag pg' f' i' b' := rfl

@[simp] theorem modCam_pending (n : Nat) (f : Cam → Cam) : (s.modCam n f).pending = s.pending := rfl
@[simp] theorem modCam_regs (n : Nat) (f : Cam → Cam) : (s.modCam n f).regs = s.regs := rfl
@[simp] theorem modCam_freeCtr (n : Nat) (f : Cam → Cam) : (s.modCam n f).freeCtr = s.freeCtr := rfl
@[simp] theorem modCam_met (n : Nat) (f : Cam → Cam) : (s.modCam n f).met = s.met := rfl
@[simp] theorem modCam_fuses (n : Nat) (f : Cam → Cam) : (s.modCam n f).fuses = s.fuses := rfl
@[simp] theorem modCam_chip (n : Nat) (f : Cam → Cam) : (s.modCam n f).chip = s.chip := rfl
@[simp] theorem modCam_evl (n : Nat) (f : Cam → Cam) : (s.modCam n f).evl = s.evl := rfl
@[simp] theorem modCam_lopArgs (n : Nat) (f : Cam → Cam) : (s.modCam n f).lopArgs = s.lopArgs := rfl
@[simp] theorem modCam_rink (n : Nat) (f : Cam → Cam) : (s.modCam n f).rink = s.rink := rfl
@[simp] theorem modCam_egress (n : Nat) (f : Cam → Cam) : (s.modCam n f).egress = s.egress := rfl
@[simp] theorem modCam_snp (n : Nat) (f : Cam → Cam) : (s.modCam n f).snp = s.snp := rfl
@[simp] theorem modCam_msi (n : Nat) (f : Cam → Cam) : (s.modCam n f).msi = s.msi := rfl
@[simp] theorem modCam_pwr (n : Nat) (f : Cam → Cam) : (s.modCam n f).pwr = s.pwr := rfl
@[simp] theorem modCam_ticks (n : Nat) (f : Cam → Cam) : (s.modCam n f).ticks = s.ticks := rfl
@[simp] theorem modCam_doneTicks (n : Nat) (f : Cam → Cam) : (s.modCam n f).doneTicks = s.doneTicks := rfl
@[simp] theorem modCam_hbm (n : Nat) (f : Cam → Cam) : (s.modCam n f).hbm = s.hbm := rfl
@[simp] theorem modCam_poison (n : Nat) (f : Cam → Cam) : (s.modCam n f).poison = s.poison := rfl
@[simp] theorem modCam_flash (n : Nat) (f : Cam → Cam) : (s.modCam n f).flash = s.flash := rfl
@[simp] theorem modCam_devs (n : Nat) (f : Cam → Cam) : (s.modCam n f).devs = s.devs := rfl
@[simp] theorem modCam_plan (n : Nat) (f : Cam → Cam) : (s.modCam n f).plan = s.plan := rfl
@[simp] theorem modCam_bootOps (n : Nat) (f : Cam → Cam) : (s.modCam n f).bootOps = s.bootOps := rfl
@[simp] theorem modCam_jtag (n : Nat) (f : Cam → Cam) : (s.modCam n f).jtag = s.jtag := rfl
@[simp] theorem modCam_outst (n : Nat) (f : Cam → Cam) : (s.modCam n f).outst = s.outst := rfl
@[simp] theorem modCam_granOwner (n : Nat) (f : Cam → Cam) : (s.modCam n f).granOwner = s.granOwner := rfl
@[simp] theorem modCam_sram (n : Nat) (f : Cam → Cam) : (s.modCam n f).sram = s.sram := rfl
@[simp] theorem modCam_sramErr (n : Nat) (f : Cam → Cam) : (s.modCam n f).sramErr = s.sramErr := rfl
@[simp] theorem modCam_tiles (n : Nat) (f : Cam → Cam) : (s.modCam n f).tiles = s.tiles := rfl
@[simp] theorem modCam_hbmErr (n : Nat) (f : Cam → Cam) : (s.modCam n f).hbmErr = s.hbmErr := rfl
@[simp] theorem modCam_hbmFree (n : Nat) (f : Cam → Cam) : (s.modCam n f).hbmFree = s.hbmFree := rfl
@[simp] theorem modCam_mcus (n : Nat) (f : Cam → Cam) : (s.modCam n f).mcus = s.mcus := rfl
@[simp] theorem modCam_ports (n : Nat) (f : Cam → Cam) : (s.modCam n f).ports = s.ports := rfl
@[simp] theorem modCam_stall (n : Nat) (f : Cam → Cam) : (s.modCam n f).stall = s.stall := rfl
@[simp] theorem modCam_rotate (n : Nat) (f : Cam → Cam) : (s.modCam n f).rotate = s.rotate := rfl
@[simp] theorem modCam_sync (n : Nat) (f : Cam → Cam) : (s.modCam n f).sync = s.sync := rfl
@[simp] theorem modCam_parent (n : Nat) (f : Cam → Cam) : (s.modCam n f).parent = s.parent := rfl
@[simp] theorem modCam_joinPort (n : Nat) (f : Cam → Cam) : (s.modCam n f).joinPort = s.joinPort := rfl
@[simp] theorem modCam_fabSeq (n : Nat) (f : Cam → Cam) : (s.modCam n f).fabSeq = s.fabSeq := rfl
@[simp] theorem modCam_heads (n : Nat) (f : Cam → Cam) : (s.modCam n f).heads = s.heads := rfl
@[simp] theorem modCam_prot (n : Nat) (f : Cam → Cam) : (s.modCam n f).prot = s.prot := rfl
@[simp] theorem modCam_lsLast (n : Nat) (f : Cam → Cam) : (s.modCam n f).lsLast = s.lsLast := rfl
@[simp] theorem modCam_blt (n : Nat) (f : Cam → Cam) : (s.modCam n f).blt = s.blt := rfl
@[simp] theorem modCam_hqs (n : Nat) (f : Cam → Cam) : (s.modCam n f).hqs = s.hqs := rfl
@[simp] theorem modCam_streams (n : Nat) (f : Cam → Cam) : (s.modCam n f).streams = s.streams := rfl
@[simp] theorem modCam_host (n : Nat) (f : Cam → Cam) : (s.modCam n f).host = s.host := rfl
@[simp] theorem modCam_drain (n : Nat) (f : Cam → Cam) : (s.modCam n f).drain = s.drain := rfl
@[simp] theorem modCam_fab (n : Nat) (f : Cam → Cam) : (s.modCam n f).fab = s.fab := rfl
@[simp] theorem modCam_outbox (n : Nat) (f : Cam → Cam) : (s.modCam n f).outbox = s.outbox := rfl

@[simp] theorem modCam_word (n : Nat) (f : Cam → Cam) (x' : Nat) : (s.modCam n f).word x' = s.word x' := rfl
@[simp] theorem modCam_rd (n : Nat) (f : Cam → Cam) (pg' : Nat) (f' : Fld) (i' b' : Nat) :
    (s.modCam n f).rd pg' f' i' b' = s.rd pg' f' i' b' := rfl
@[simp] theorem modCam_flag (n : Nat) (f : Cam → Cam) (pg' : Nat) (f' : Fld) (i' b' : Nat) :
    (s.modCam n f).flag pg' f' i' b' = s.flag pg' f' i' b' := rfl

@[simp] theorem modHq_pending (q : Nat) (f : HostQ → HostQ) : (s.modHq q f).pending = s.pending := rfl
@[simp] theorem modHq_regs (q : Nat) (f : HostQ → HostQ) : (s.modHq q f).regs = s.regs := rfl
@[simp] theorem modHq_freeCtr (q : Nat) (f : HostQ → HostQ) : (s.modHq q f).freeCtr = s.freeCtr := rfl
@[simp] theorem modHq_met (q : Nat) (f : HostQ → HostQ) : (s.modHq q f).met = s.met := rfl
@[simp] theorem modHq_fuses (q : Nat) (f : HostQ → HostQ) : (s.modHq q f).fuses = s.fuses := rfl
@[simp] theorem modHq_chip (q : Nat) (f : HostQ → HostQ) : (s.modHq q f).chip = s.chip := rfl
@[simp] theorem modHq_evl (q : Nat) (f : HostQ → HostQ) : (s.modHq q f).evl = s.evl := rfl
@[simp] theorem modHq_lopArgs (q : Nat) (f : HostQ → HostQ) : (s.modHq q f).lopArgs = s.lopArgs := rfl
@[simp] theorem modHq_rink (q : Nat) (f : HostQ → HostQ) : (s.modHq q f).rink = s.rink := rfl
@[simp] theorem modHq_egress (q : Nat) (f : HostQ → HostQ) : (s.modHq q f).egress = s.egress := rfl
@[simp] theorem modHq_snp (q : Nat) (f : HostQ → HostQ) : (s.modHq q f).snp = s.snp := rfl
@[simp] theorem modHq_msi (q : Nat) (f : HostQ → HostQ) : (s.modHq q f).msi = s.msi := rfl
@[simp] theorem modHq_pwr (q : Nat) (f : HostQ → HostQ) : (s.modHq q f).pwr = s.pwr := rfl
@[simp] theorem modHq_ticks (q : Nat) (f : HostQ → HostQ) : (s.modHq q f).ticks = s.ticks := rfl
@[simp] theorem modHq_doneTicks (q : Nat) (f : HostQ → HostQ) : (s.modHq q f).doneTicks = s.doneTicks := rfl
@[simp] theorem modHq_hbm (q : Nat) (f : HostQ → HostQ) : (s.modHq q f).hbm = s.hbm := rfl
@[simp] theorem modHq_poison (q : Nat) (f : HostQ → HostQ) : (s.modHq q f).poison = s.poison := rfl
@[simp] theorem modHq_flash (q : Nat) (f : HostQ → HostQ) : (s.modHq q f).flash = s.flash := rfl
@[simp] theorem modHq_devs (q : Nat) (f : HostQ → HostQ) : (s.modHq q f).devs = s.devs := rfl
@[simp] theorem modHq_plan (q : Nat) (f : HostQ → HostQ) : (s.modHq q f).plan = s.plan := rfl
@[simp] theorem modHq_bootOps (q : Nat) (f : HostQ → HostQ) : (s.modHq q f).bootOps = s.bootOps := rfl
@[simp] theorem modHq_jtag (q : Nat) (f : HostQ → HostQ) : (s.modHq q f).jtag = s.jtag := rfl
@[simp] theorem modHq_outst (q : Nat) (f : HostQ → HostQ) : (s.modHq q f).outst = s.outst := rfl
@[simp] theorem modHq_granOwner (q : Nat) (f : HostQ → HostQ) : (s.modHq q f).granOwner = s.granOwner := rfl
@[simp] theorem modHq_sram (q : Nat) (f : HostQ → HostQ) : (s.modHq q f).sram = s.sram := rfl
@[simp] theorem modHq_sramErr (q : Nat) (f : HostQ → HostQ) : (s.modHq q f).sramErr = s.sramErr := rfl
@[simp] theorem modHq_tiles (q : Nat) (f : HostQ → HostQ) : (s.modHq q f).tiles = s.tiles := rfl
@[simp] theorem modHq_hbmErr (q : Nat) (f : HostQ → HostQ) : (s.modHq q f).hbmErr = s.hbmErr := rfl
@[simp] theorem modHq_hbmFree (q : Nat) (f : HostQ → HostQ) : (s.modHq q f).hbmFree = s.hbmFree := rfl
@[simp] theorem modHq_mcus (q : Nat) (f : HostQ → HostQ) : (s.modHq q f).mcus = s.mcus := rfl
@[simp] theorem modHq_ports (q : Nat) (f : HostQ → HostQ) : (s.modHq q f).ports = s.ports := rfl
@[simp] theorem modHq_stall (q : Nat) (f : HostQ → HostQ) : (s.modHq q f).stall = s.stall := rfl
@[simp] theorem modHq_rotate (q : Nat) (f : HostQ → HostQ) : (s.modHq q f).rotate = s.rotate := rfl
@[simp] theorem modHq_sync (q : Nat) (f : HostQ → HostQ) : (s.modHq q f).sync = s.sync := rfl
@[simp] theorem modHq_parent (q : Nat) (f : HostQ → HostQ) : (s.modHq q f).parent = s.parent := rfl
@[simp] theorem modHq_joinPort (q : Nat) (f : HostQ → HostQ) : (s.modHq q f).joinPort = s.joinPort := rfl
@[simp] theorem modHq_fabSeq (q : Nat) (f : HostQ → HostQ) : (s.modHq q f).fabSeq = s.fabSeq := rfl
@[simp] theorem modHq_heads (q : Nat) (f : HostQ → HostQ) : (s.modHq q f).heads = s.heads := rfl
@[simp] theorem modHq_prot (q : Nat) (f : HostQ → HostQ) : (s.modHq q f).prot = s.prot := rfl
@[simp] theorem modHq_lsLast (q : Nat) (f : HostQ → HostQ) : (s.modHq q f).lsLast = s.lsLast := rfl
@[simp] theorem modHq_blt (q : Nat) (f : HostQ → HostQ) : (s.modHq q f).blt = s.blt := rfl
@[simp] theorem modHq_cams (q : Nat) (f : HostQ → HostQ) : (s.modHq q f).cams = s.cams := rfl
@[simp] theorem modHq_streams (q : Nat) (f : HostQ → HostQ) : (s.modHq q f).streams = s.streams := rfl
@[simp] theorem modHq_host (q : Nat) (f : HostQ → HostQ) : (s.modHq q f).host = s.host := rfl
@[simp] theorem modHq_drain (q : Nat) (f : HostQ → HostQ) : (s.modHq q f).drain = s.drain := rfl
@[simp] theorem modHq_fab (q : Nat) (f : HostQ → HostQ) : (s.modHq q f).fab = s.fab := rfl
@[simp] theorem modHq_outbox (q : Nat) (f : HostQ → HostQ) : (s.modHq q f).outbox = s.outbox := rfl

@[simp] theorem modHq_word (q : Nat) (f : HostQ → HostQ) (x' : Nat) : (s.modHq q f).word x' = s.word x' := rfl
@[simp] theorem modHq_rd (q : Nat) (f : HostQ → HostQ) (pg' : Nat) (f' : Fld) (i' b' : Nat) :
    (s.modHq q f).rd pg' f' i' b' = s.rd pg' f' i' b' := rfl
@[simp] theorem modHq_flag (q : Nat) (f : HostQ → HostQ) (pg' : Nat) (f' : Fld) (i' b' : Nat) :
    (s.modHq q f).flag pg' f' i' b' = s.flag pg' f' i' b' := rfl

@[simp] theorem modMcu_pending (n : Nat) (f : Mcu → Mcu) : (s.modMcu n f).pending = s.pending := rfl
@[simp] theorem modMcu_regs (n : Nat) (f : Mcu → Mcu) : (s.modMcu n f).regs = s.regs := rfl
@[simp] theorem modMcu_freeCtr (n : Nat) (f : Mcu → Mcu) : (s.modMcu n f).freeCtr = s.freeCtr := rfl
@[simp] theorem modMcu_met (n : Nat) (f : Mcu → Mcu) : (s.modMcu n f).met = s.met := rfl
@[simp] theorem modMcu_fuses (n : Nat) (f : Mcu → Mcu) : (s.modMcu n f).fuses = s.fuses := rfl
@[simp] theorem modMcu_chip (n : Nat) (f : Mcu → Mcu) : (s.modMcu n f).chip = s.chip := rfl
@[simp] theorem modMcu_evl (n : Nat) (f : Mcu → Mcu) : (s.modMcu n f).evl = s.evl := rfl
@[simp] theorem modMcu_lopArgs (n : Nat) (f : Mcu → Mcu) : (s.modMcu n f).lopArgs = s.lopArgs := rfl
@[simp] theorem modMcu_rink (n : Nat) (f : Mcu → Mcu) : (s.modMcu n f).rink = s.rink := rfl
@[simp] theorem modMcu_egress (n : Nat) (f : Mcu → Mcu) : (s.modMcu n f).egress = s.egress := rfl
@[simp] theorem modMcu_snp (n : Nat) (f : Mcu → Mcu) : (s.modMcu n f).snp = s.snp := rfl
@[simp] theorem modMcu_msi (n : Nat) (f : Mcu → Mcu) : (s.modMcu n f).msi = s.msi := rfl
@[simp] theorem modMcu_pwr (n : Nat) (f : Mcu → Mcu) : (s.modMcu n f).pwr = s.pwr := rfl
@[simp] theorem modMcu_ticks (n : Nat) (f : Mcu → Mcu) : (s.modMcu n f).ticks = s.ticks := rfl
@[simp] theorem modMcu_doneTicks (n : Nat) (f : Mcu → Mcu) : (s.modMcu n f).doneTicks = s.doneTicks := rfl
@[simp] theorem modMcu_hbm (n : Nat) (f : Mcu → Mcu) : (s.modMcu n f).hbm = s.hbm := rfl
@[simp] theorem modMcu_poison (n : Nat) (f : Mcu → Mcu) : (s.modMcu n f).poison = s.poison := rfl
@[simp] theorem modMcu_flash (n : Nat) (f : Mcu → Mcu) : (s.modMcu n f).flash = s.flash := rfl
@[simp] theorem modMcu_devs (n : Nat) (f : Mcu → Mcu) : (s.modMcu n f).devs = s.devs := rfl
@[simp] theorem modMcu_plan (n : Nat) (f : Mcu → Mcu) : (s.modMcu n f).plan = s.plan := rfl
@[simp] theorem modMcu_bootOps (n : Nat) (f : Mcu → Mcu) : (s.modMcu n f).bootOps = s.bootOps := rfl
@[simp] theorem modMcu_jtag (n : Nat) (f : Mcu → Mcu) : (s.modMcu n f).jtag = s.jtag := rfl
@[simp] theorem modMcu_outst (n : Nat) (f : Mcu → Mcu) : (s.modMcu n f).outst = s.outst := rfl
@[simp] theorem modMcu_granOwner (n : Nat) (f : Mcu → Mcu) : (s.modMcu n f).granOwner = s.granOwner := rfl
@[simp] theorem modMcu_sram (n : Nat) (f : Mcu → Mcu) : (s.modMcu n f).sram = s.sram := rfl
@[simp] theorem modMcu_sramErr (n : Nat) (f : Mcu → Mcu) : (s.modMcu n f).sramErr = s.sramErr := rfl
@[simp] theorem modMcu_tiles (n : Nat) (f : Mcu → Mcu) : (s.modMcu n f).tiles = s.tiles := rfl
@[simp] theorem modMcu_hbmErr (n : Nat) (f : Mcu → Mcu) : (s.modMcu n f).hbmErr = s.hbmErr := rfl
@[simp] theorem modMcu_hbmFree (n : Nat) (f : Mcu → Mcu) : (s.modMcu n f).hbmFree = s.hbmFree := rfl
@[simp] theorem modMcu_ports (n : Nat) (f : Mcu → Mcu) : (s.modMcu n f).ports = s.ports := rfl
@[simp] theorem modMcu_stall (n : Nat) (f : Mcu → Mcu) : (s.modMcu n f).stall = s.stall := rfl
@[simp] theorem modMcu_rotate (n : Nat) (f : Mcu → Mcu) : (s.modMcu n f).rotate = s.rotate := rfl
@[simp] theorem modMcu_sync (n : Nat) (f : Mcu → Mcu) : (s.modMcu n f).sync = s.sync := rfl
@[simp] theorem modMcu_parent (n : Nat) (f : Mcu → Mcu) : (s.modMcu n f).parent = s.parent := rfl
@[simp] theorem modMcu_joinPort (n : Nat) (f : Mcu → Mcu) : (s.modMcu n f).joinPort = s.joinPort := rfl
@[simp] theorem modMcu_fabSeq (n : Nat) (f : Mcu → Mcu) : (s.modMcu n f).fabSeq = s.fabSeq := rfl
@[simp] theorem modMcu_heads (n : Nat) (f : Mcu → Mcu) : (s.modMcu n f).heads = s.heads := rfl
@[simp] theorem modMcu_prot (n : Nat) (f : Mcu → Mcu) : (s.modMcu n f).prot = s.prot := rfl
@[simp] theorem modMcu_lsLast (n : Nat) (f : Mcu → Mcu) : (s.modMcu n f).lsLast = s.lsLast := rfl
@[simp] theorem modMcu_blt (n : Nat) (f : Mcu → Mcu) : (s.modMcu n f).blt = s.blt := rfl
@[simp] theorem modMcu_cams (n : Nat) (f : Mcu → Mcu) : (s.modMcu n f).cams = s.cams := rfl
@[simp] theorem modMcu_hqs (n : Nat) (f : Mcu → Mcu) : (s.modMcu n f).hqs = s.hqs := rfl
@[simp] theorem modMcu_streams (n : Nat) (f : Mcu → Mcu) : (s.modMcu n f).streams = s.streams := rfl
@[simp] theorem modMcu_host (n : Nat) (f : Mcu → Mcu) : (s.modMcu n f).host = s.host := rfl
@[simp] theorem modMcu_drain (n : Nat) (f : Mcu → Mcu) : (s.modMcu n f).drain = s.drain := rfl
@[simp] theorem modMcu_fab (n : Nat) (f : Mcu → Mcu) : (s.modMcu n f).fab = s.fab := rfl
@[simp] theorem modMcu_outbox (n : Nat) (f : Mcu → Mcu) : (s.modMcu n f).outbox = s.outbox := rfl

@[simp] theorem modMcu_word (n : Nat) (f : Mcu → Mcu) (x' : Nat) : (s.modMcu n f).word x' = s.word x' := rfl
@[simp] theorem modMcu_rd (n : Nat) (f : Mcu → Mcu) (pg' : Nat) (f' : Fld) (i' b' : Nat) :
    (s.modMcu n f).rd pg' f' i' b' = s.rd pg' f' i' b' := rfl
@[simp] theorem modMcu_flag (n : Nat) (f : Mcu → Mcu) (pg' : Nat) (f' : Fld) (i' b' : Nat) :
    (s.modMcu n f).flag pg' f' i' b' = s.flag pg' f' i' b' := rfl

@[simp] theorem modStream_pending (k : Nat) (f : HostStream → HostStream) : (s.modStream k f).pending = s.pending := rfl
@[simp] theorem modStream_regs (k : Nat) (f : HostStream → HostStream) : (s.modStream k f).regs = s.regs := rfl
@[simp] theorem modStream_freeCtr (k : Nat) (f : HostStream → HostStream) : (s.modStream k f).freeCtr = s.freeCtr := rfl
@[simp] theorem modStream_met (k : Nat) (f : HostStream → HostStream) : (s.modStream k f).met = s.met := rfl
@[simp] theorem modStream_fuses (k : Nat) (f : HostStream → HostStream) : (s.modStream k f).fuses = s.fuses := rfl
@[simp] theorem modStream_chip (k : Nat) (f : HostStream → HostStream) : (s.modStream k f).chip = s.chip := rfl
@[simp] theorem modStream_evl (k : Nat) (f : HostStream → HostStream) : (s.modStream k f).evl = s.evl := rfl
@[simp] theorem modStream_lopArgs (k : Nat) (f : HostStream → HostStream) : (s.modStream k f).lopArgs = s.lopArgs := rfl
@[simp] theorem modStream_rink (k : Nat) (f : HostStream → HostStream) : (s.modStream k f).rink = s.rink := rfl
@[simp] theorem modStream_egress (k : Nat) (f : HostStream → HostStream) : (s.modStream k f).egress = s.egress := rfl
@[simp] theorem modStream_snp (k : Nat) (f : HostStream → HostStream) : (s.modStream k f).snp = s.snp := rfl
@[simp] theorem modStream_msi (k : Nat) (f : HostStream → HostStream) : (s.modStream k f).msi = s.msi := rfl
@[simp] theorem modStream_pwr (k : Nat) (f : HostStream → HostStream) : (s.modStream k f).pwr = s.pwr := rfl
@[simp] theorem modStream_ticks (k : Nat) (f : HostStream → HostStream) : (s.modStream k f).ticks = s.ticks := rfl
@[simp] theorem modStream_doneTicks (k : Nat) (f : HostStream → HostStream) : (s.modStream k f).doneTicks = s.doneTicks := rfl
@[simp] theorem modStream_hbm (k : Nat) (f : HostStream → HostStream) : (s.modStream k f).hbm = s.hbm := rfl
@[simp] theorem modStream_poison (k : Nat) (f : HostStream → HostStream) : (s.modStream k f).poison = s.poison := rfl
@[simp] theorem modStream_flash (k : Nat) (f : HostStream → HostStream) : (s.modStream k f).flash = s.flash := rfl
@[simp] theorem modStream_devs (k : Nat) (f : HostStream → HostStream) : (s.modStream k f).devs = s.devs := rfl
@[simp] theorem modStream_plan (k : Nat) (f : HostStream → HostStream) : (s.modStream k f).plan = s.plan := rfl
@[simp] theorem modStream_bootOps (k : Nat) (f : HostStream → HostStream) : (s.modStream k f).bootOps = s.bootOps := rfl
@[simp] theorem modStream_jtag (k : Nat) (f : HostStream → HostStream) : (s.modStream k f).jtag = s.jtag := rfl
@[simp] theorem modStream_outst (k : Nat) (f : HostStream → HostStream) : (s.modStream k f).outst = s.outst := rfl
@[simp] theorem modStream_granOwner (k : Nat) (f : HostStream → HostStream) : (s.modStream k f).granOwner = s.granOwner := rfl
@[simp] theorem modStream_sram (k : Nat) (f : HostStream → HostStream) : (s.modStream k f).sram = s.sram := rfl
@[simp] theorem modStream_sramErr (k : Nat) (f : HostStream → HostStream) : (s.modStream k f).sramErr = s.sramErr := rfl
@[simp] theorem modStream_tiles (k : Nat) (f : HostStream → HostStream) : (s.modStream k f).tiles = s.tiles := rfl
@[simp] theorem modStream_hbmErr (k : Nat) (f : HostStream → HostStream) : (s.modStream k f).hbmErr = s.hbmErr := rfl
@[simp] theorem modStream_hbmFree (k : Nat) (f : HostStream → HostStream) : (s.modStream k f).hbmFree = s.hbmFree := rfl
@[simp] theorem modStream_mcus (k : Nat) (f : HostStream → HostStream) : (s.modStream k f).mcus = s.mcus := rfl
@[simp] theorem modStream_ports (k : Nat) (f : HostStream → HostStream) : (s.modStream k f).ports = s.ports := rfl
@[simp] theorem modStream_stall (k : Nat) (f : HostStream → HostStream) : (s.modStream k f).stall = s.stall := rfl
@[simp] theorem modStream_rotate (k : Nat) (f : HostStream → HostStream) : (s.modStream k f).rotate = s.rotate := rfl
@[simp] theorem modStream_sync (k : Nat) (f : HostStream → HostStream) : (s.modStream k f).sync = s.sync := rfl
@[simp] theorem modStream_parent (k : Nat) (f : HostStream → HostStream) : (s.modStream k f).parent = s.parent := rfl
@[simp] theorem modStream_joinPort (k : Nat) (f : HostStream → HostStream) : (s.modStream k f).joinPort = s.joinPort := rfl
@[simp] theorem modStream_fabSeq (k : Nat) (f : HostStream → HostStream) : (s.modStream k f).fabSeq = s.fabSeq := rfl
@[simp] theorem modStream_heads (k : Nat) (f : HostStream → HostStream) : (s.modStream k f).heads = s.heads := rfl
@[simp] theorem modStream_prot (k : Nat) (f : HostStream → HostStream) : (s.modStream k f).prot = s.prot := rfl
@[simp] theorem modStream_lsLast (k : Nat) (f : HostStream → HostStream) : (s.modStream k f).lsLast = s.lsLast := rfl
@[simp] theorem modStream_blt (k : Nat) (f : HostStream → HostStream) : (s.modStream k f).blt = s.blt := rfl
@[simp] theorem modStream_cams (k : Nat) (f : HostStream → HostStream) : (s.modStream k f).cams = s.cams := rfl
@[simp] theorem modStream_hqs (k : Nat) (f : HostStream → HostStream) : (s.modStream k f).hqs = s.hqs := rfl
@[simp] theorem modStream_host (k : Nat) (f : HostStream → HostStream) : (s.modStream k f).host = s.host := rfl
@[simp] theorem modStream_drain (k : Nat) (f : HostStream → HostStream) : (s.modStream k f).drain = s.drain := rfl
@[simp] theorem modStream_fab (k : Nat) (f : HostStream → HostStream) : (s.modStream k f).fab = s.fab := rfl
@[simp] theorem modStream_outbox (k : Nat) (f : HostStream → HostStream) : (s.modStream k f).outbox = s.outbox := rfl

@[simp] theorem modStream_word (k : Nat) (f : HostStream → HostStream) (x' : Nat) : (s.modStream k f).word x' = s.word x' := rfl
@[simp] theorem modStream_rd (k : Nat) (f : HostStream → HostStream) (pg' : Nat) (f' : Fld) (i' b' : Nat) :
    (s.modStream k f).rd pg' f' i' b' = s.rd pg' f' i' b' := rfl
@[simp] theorem modStream_flag (k : Nat) (f : HostStream → HostStream) (pg' : Nat) (f' : Fld) (i' b' : Nat) :
    (s.modStream k f).flag pg' f' i' b' = s.flag pg' f' i' b' := rfl

@[simp] theorem modFab_pending (f : Fab → Fab) : (s.modFab f).pending = s.pending := rfl
@[simp] theorem modFab_regs (f : Fab → Fab) : (s.modFab f).regs = s.regs := rfl
@[simp] theorem modFab_freeCtr (f : Fab → Fab) : (s.modFab f).freeCtr = s.freeCtr := rfl
@[simp] theorem modFab_met (f : Fab → Fab) : (s.modFab f).met = s.met := rfl
@[simp] theorem modFab_fuses (f : Fab → Fab) : (s.modFab f).fuses = s.fuses := rfl
@[simp] theorem modFab_chip (f : Fab → Fab) : (s.modFab f).chip = s.chip := rfl
@[simp] theorem modFab_evl (f : Fab → Fab) : (s.modFab f).evl = s.evl := rfl
@[simp] theorem modFab_lopArgs (f : Fab → Fab) : (s.modFab f).lopArgs = s.lopArgs := rfl
@[simp] theorem modFab_rink (f : Fab → Fab) : (s.modFab f).rink = s.rink := rfl
@[simp] theorem modFab_egress (f : Fab → Fab) : (s.modFab f).egress = s.egress := rfl
@[simp] theorem modFab_snp (f : Fab → Fab) : (s.modFab f).snp = s.snp := rfl
@[simp] theorem modFab_msi (f : Fab → Fab) : (s.modFab f).msi = s.msi := rfl
@[simp] theorem modFab_pwr (f : Fab → Fab) : (s.modFab f).pwr = s.pwr := rfl
@[simp] theorem modFab_ticks (f : Fab → Fab) : (s.modFab f).ticks = s.ticks := rfl
@[simp] theorem modFab_doneTicks (f : Fab → Fab) : (s.modFab f).doneTicks = s.doneTicks := rfl
@[simp] theorem modFab_hbm (f : Fab → Fab) : (s.modFab f).hbm = s.hbm := rfl
@[simp] theorem modFab_poison (f : Fab → Fab) : (s.modFab f).poison = s.poison := rfl
@[simp] theorem modFab_flash (f : Fab → Fab) : (s.modFab f).flash = s.flash := rfl
@[simp] theorem modFab_devs (f : Fab → Fab) : (s.modFab f).devs = s.devs := rfl
@[simp] theorem modFab_plan (f : Fab → Fab) : (s.modFab f).plan = s.plan := rfl
@[simp] theorem modFab_bootOps (f : Fab → Fab) : (s.modFab f).bootOps = s.bootOps := rfl
@[simp] theorem modFab_jtag (f : Fab → Fab) : (s.modFab f).jtag = s.jtag := rfl
@[simp] theorem modFab_outst (f : Fab → Fab) : (s.modFab f).outst = s.outst := rfl
@[simp] theorem modFab_granOwner (f : Fab → Fab) : (s.modFab f).granOwner = s.granOwner := rfl
@[simp] theorem modFab_sram (f : Fab → Fab) : (s.modFab f).sram = s.sram := rfl
@[simp] theorem modFab_sramErr (f : Fab → Fab) : (s.modFab f).sramErr = s.sramErr := rfl
@[simp] theorem modFab_tiles (f : Fab → Fab) : (s.modFab f).tiles = s.tiles := rfl
@[simp] theorem modFab_hbmErr (f : Fab → Fab) : (s.modFab f).hbmErr = s.hbmErr := rfl
@[simp] theorem modFab_hbmFree (f : Fab → Fab) : (s.modFab f).hbmFree = s.hbmFree := rfl
@[simp] theorem modFab_mcus (f : Fab → Fab) : (s.modFab f).mcus = s.mcus := rfl
@[simp] theorem modFab_ports (f : Fab → Fab) : (s.modFab f).ports = s.ports := rfl
@[simp] theorem modFab_stall (f : Fab → Fab) : (s.modFab f).stall = s.stall := rfl
@[simp] theorem modFab_rotate (f : Fab → Fab) : (s.modFab f).rotate = s.rotate := rfl
@[simp] theorem modFab_sync (f : Fab → Fab) : (s.modFab f).sync = s.sync := rfl
@[simp] theorem modFab_parent (f : Fab → Fab) : (s.modFab f).parent = s.parent := rfl
@[simp] theorem modFab_joinPort (f : Fab → Fab) : (s.modFab f).joinPort = s.joinPort := rfl
@[simp] theorem modFab_fabSeq (f : Fab → Fab) : (s.modFab f).fabSeq = s.fabSeq := rfl
@[simp] theorem modFab_heads (f : Fab → Fab) : (s.modFab f).heads = s.heads := rfl
@[simp] theorem modFab_prot (f : Fab → Fab) : (s.modFab f).prot = s.prot := rfl
@[simp] theorem modFab_lsLast (f : Fab → Fab) : (s.modFab f).lsLast = s.lsLast := rfl
@[simp] theorem modFab_blt (f : Fab → Fab) : (s.modFab f).blt = s.blt := rfl
@[simp] theorem modFab_cams (f : Fab → Fab) : (s.modFab f).cams = s.cams := rfl
@[simp] theorem modFab_hqs (f : Fab → Fab) : (s.modFab f).hqs = s.hqs := rfl
@[simp] theorem modFab_streams (f : Fab → Fab) : (s.modFab f).streams = s.streams := rfl
@[simp] theorem modFab_host (f : Fab → Fab) : (s.modFab f).host = s.host := rfl
@[simp] theorem modFab_drain (f : Fab → Fab) : (s.modFab f).drain = s.drain := rfl
@[simp] theorem modFab_outbox (f : Fab → Fab) : (s.modFab f).outbox = s.outbox := rfl

@[simp] theorem modFab_word (f : Fab → Fab) (x' : Nat) : (s.modFab f).word x' = s.word x' := rfl
@[simp] theorem modFab_rd (f : Fab → Fab) (pg' : Nat) (f' : Fld) (i' b' : Nat) :
    (s.modFab f).rd pg' f' i' b' = s.rd pg' f' i' b' := rfl
@[simp] theorem modFab_flag (f : Fab → Fab) (pg' : Nat) (f' : Fld) (i' b' : Nat) :
    (s.modFab f).flag pg' f' i' b' = s.flag pg' f' i' b' := rfl

@[simp] theorem setSramErr_pending (t k v : Nat) : (s.setSramErr t k v).pending = s.pending := rfl
@[simp] theorem setSramErr_regs (t k v : Nat) : (s.setSramErr t k v).regs = s.regs := rfl
@[simp] theorem setSramErr_freeCtr (t k v : Nat) : (s.setSramErr t k v).freeCtr = s.freeCtr := rfl
@[simp] theorem setSramErr_met (t k v : Nat) : (s.setSramErr t k v).met = s.met := rfl
@[simp] theorem setSramErr_fuses (t k v : Nat) : (s.setSramErr t k v).fuses = s.fuses := rfl
@[simp] theorem setSramErr_chip (t k v : Nat) : (s.setSramErr t k v).chip = s.chip := rfl
@[simp] theorem setSramErr_evl (t k v : Nat) : (s.setSramErr t k v).evl = s.evl := rfl
@[simp] theorem setSramErr_lopArgs (t k v : Nat) : (s.setSramErr t k v).lopArgs = s.lopArgs := rfl
@[simp] theorem setSramErr_rink (t k v : Nat) : (s.setSramErr t k v).rink = s.rink := rfl
@[simp] theorem setSramErr_egress (t k v : Nat) : (s.setSramErr t k v).egress = s.egress := rfl
@[simp] theorem setSramErr_snp (t k v : Nat) : (s.setSramErr t k v).snp = s.snp := rfl
@[simp] theorem setSramErr_msi (t k v : Nat) : (s.setSramErr t k v).msi = s.msi := rfl
@[simp] theorem setSramErr_pwr (t k v : Nat) : (s.setSramErr t k v).pwr = s.pwr := rfl
@[simp] theorem setSramErr_ticks (t k v : Nat) : (s.setSramErr t k v).ticks = s.ticks := rfl
@[simp] theorem setSramErr_doneTicks (t k v : Nat) : (s.setSramErr t k v).doneTicks = s.doneTicks := rfl
@[simp] theorem setSramErr_hbm (t k v : Nat) : (s.setSramErr t k v).hbm = s.hbm := rfl
@[simp] theorem setSramErr_poison (t k v : Nat) : (s.setSramErr t k v).poison = s.poison := rfl
@[simp] theorem setSramErr_flash (t k v : Nat) : (s.setSramErr t k v).flash = s.flash := rfl
@[simp] theorem setSramErr_devs (t k v : Nat) : (s.setSramErr t k v).devs = s.devs := rfl
@[simp] theorem setSramErr_plan (t k v : Nat) : (s.setSramErr t k v).plan = s.plan := rfl
@[simp] theorem setSramErr_bootOps (t k v : Nat) : (s.setSramErr t k v).bootOps = s.bootOps := rfl
@[simp] theorem setSramErr_jtag (t k v : Nat) : (s.setSramErr t k v).jtag = s.jtag := rfl
@[simp] theorem setSramErr_outst (t k v : Nat) : (s.setSramErr t k v).outst = s.outst := rfl
@[simp] theorem setSramErr_granOwner (t k v : Nat) : (s.setSramErr t k v).granOwner = s.granOwner := rfl
@[simp] theorem setSramErr_sram (t k v : Nat) : (s.setSramErr t k v).sram = s.sram := rfl
@[simp] theorem setSramErr_tiles (t k v : Nat) : (s.setSramErr t k v).tiles = s.tiles := rfl
@[simp] theorem setSramErr_hbmErr (t k v : Nat) : (s.setSramErr t k v).hbmErr = s.hbmErr := rfl
@[simp] theorem setSramErr_hbmFree (t k v : Nat) : (s.setSramErr t k v).hbmFree = s.hbmFree := rfl
@[simp] theorem setSramErr_mcus (t k v : Nat) : (s.setSramErr t k v).mcus = s.mcus := rfl
@[simp] theorem setSramErr_ports (t k v : Nat) : (s.setSramErr t k v).ports = s.ports := rfl
@[simp] theorem setSramErr_stall (t k v : Nat) : (s.setSramErr t k v).stall = s.stall := rfl
@[simp] theorem setSramErr_rotate (t k v : Nat) : (s.setSramErr t k v).rotate = s.rotate := rfl
@[simp] theorem setSramErr_sync (t k v : Nat) : (s.setSramErr t k v).sync = s.sync := rfl
@[simp] theorem setSramErr_parent (t k v : Nat) : (s.setSramErr t k v).parent = s.parent := rfl
@[simp] theorem setSramErr_joinPort (t k v : Nat) : (s.setSramErr t k v).joinPort = s.joinPort := rfl
@[simp] theorem setSramErr_fabSeq (t k v : Nat) : (s.setSramErr t k v).fabSeq = s.fabSeq := rfl
@[simp] theorem setSramErr_heads (t k v : Nat) : (s.setSramErr t k v).heads = s.heads := rfl
@[simp] theorem setSramErr_prot (t k v : Nat) : (s.setSramErr t k v).prot = s.prot := rfl
@[simp] theorem setSramErr_lsLast (t k v : Nat) : (s.setSramErr t k v).lsLast = s.lsLast := rfl
@[simp] theorem setSramErr_blt (t k v : Nat) : (s.setSramErr t k v).blt = s.blt := rfl
@[simp] theorem setSramErr_cams (t k v : Nat) : (s.setSramErr t k v).cams = s.cams := rfl
@[simp] theorem setSramErr_hqs (t k v : Nat) : (s.setSramErr t k v).hqs = s.hqs := rfl
@[simp] theorem setSramErr_streams (t k v : Nat) : (s.setSramErr t k v).streams = s.streams := rfl
@[simp] theorem setSramErr_host (t k v : Nat) : (s.setSramErr t k v).host = s.host := rfl
@[simp] theorem setSramErr_drain (t k v : Nat) : (s.setSramErr t k v).drain = s.drain := rfl
@[simp] theorem setSramErr_fab (t k v : Nat) : (s.setSramErr t k v).fab = s.fab := rfl
@[simp] theorem setSramErr_outbox (t k v : Nat) : (s.setSramErr t k v).outbox = s.outbox := rfl

@[simp] theorem setSramErr_word (t k v : Nat) (x' : Nat) : (s.setSramErr t k v).word x' = s.word x' := rfl
@[simp] theorem setSramErr_rd (t k v : Nat) (pg' : Nat) (f' : Fld) (i' b' : Nat) :
    (s.setSramErr t k v).rd pg' f' i' b' = s.rd pg' f' i' b' := rfl
@[simp] theorem setSramErr_flag (t k v : Nat) (pg' : Nat) (f' : Fld) (i' b' : Nat) :
    (s.setSramErr t k v).flag pg' f' i' b' = s.flag pg' f' i' b' := rfl

@[simp] theorem setHbmErr_pending (k v : Nat) : (s.setHbmErr k v).pending = s.pending := rfl
@[simp] theorem setHbmErr_regs (k v : Nat) : (s.setHbmErr k v).regs = s.regs := rfl
@[simp] theorem setHbmErr_freeCtr (k v : Nat) : (s.setHbmErr k v).freeCtr = s.freeCtr := rfl
@[simp] theorem setHbmErr_met (k v : Nat) : (s.setHbmErr k v).met = s.met := rfl
@[simp] theorem setHbmErr_fuses (k v : Nat) : (s.setHbmErr k v).fuses = s.fuses := rfl
@[simp] theorem setHbmErr_chip (k v : Nat) : (s.setHbmErr k v).chip = s.chip := rfl
@[simp] theorem setHbmErr_evl (k v : Nat) : (s.setHbmErr k v).evl = s.evl := rfl
@[simp] theorem setHbmErr_lopArgs (k v : Nat) : (s.setHbmErr k v).lopArgs = s.lopArgs := rfl
@[simp] theorem setHbmErr_rink (k v : Nat) : (s.setHbmErr k v).rink = s.rink := rfl
@[simp] theorem setHbmErr_egress (k v : Nat) : (s.setHbmErr k v).egress = s.egress := rfl
@[simp] theorem setHbmErr_snp (k v : Nat) : (s.setHbmErr k v).snp = s.snp := rfl
@[simp] theorem setHbmErr_msi (k v : Nat) : (s.setHbmErr k v).msi = s.msi := rfl
@[simp] theorem setHbmErr_pwr (k v : Nat) : (s.setHbmErr k v).pwr = s.pwr := rfl
@[simp] theorem setHbmErr_ticks (k v : Nat) : (s.setHbmErr k v).ticks = s.ticks := rfl
@[simp] theorem setHbmErr_doneTicks (k v : Nat) : (s.setHbmErr k v).doneTicks = s.doneTicks := rfl
@[simp] theorem setHbmErr_hbm (k v : Nat) : (s.setHbmErr k v).hbm = s.hbm := rfl
@[simp] theorem setHbmErr_poison (k v : Nat) : (s.setHbmErr k v).poison = s.poison := rfl
@[simp] theorem setHbmErr_flash (k v : Nat) : (s.setHbmErr k v).flash = s.flash := rfl
@[simp] theorem setHbmErr_devs (k v : Nat) : (s.setHbmErr k v).devs = s.devs := rfl
@[simp] theorem setHbmErr_plan (k v : Nat) : (s.setHbmErr k v).plan = s.plan := rfl
@[simp] theorem setHbmErr_bootOps (k v : Nat) : (s.setHbmErr k v).bootOps = s.bootOps := rfl
@[simp] theorem setHbmErr_jtag (k v : Nat) : (s.setHbmErr k v).jtag = s.jtag := rfl
@[simp] theorem setHbmErr_outst (k v : Nat) : (s.setHbmErr k v).outst = s.outst := rfl
@[simp] theorem setHbmErr_granOwner (k v : Nat) : (s.setHbmErr k v).granOwner = s.granOwner := rfl
@[simp] theorem setHbmErr_sram (k v : Nat) : (s.setHbmErr k v).sram = s.sram := rfl
@[simp] theorem setHbmErr_sramErr (k v : Nat) : (s.setHbmErr k v).sramErr = s.sramErr := rfl
@[simp] theorem setHbmErr_tiles (k v : Nat) : (s.setHbmErr k v).tiles = s.tiles := rfl
@[simp] theorem setHbmErr_hbmFree (k v : Nat) : (s.setHbmErr k v).hbmFree = s.hbmFree := rfl
@[simp] theorem setHbmErr_mcus (k v : Nat) : (s.setHbmErr k v).mcus = s.mcus := rfl
@[simp] theorem setHbmErr_ports (k v : Nat) : (s.setHbmErr k v).ports = s.ports := rfl
@[simp] theorem setHbmErr_stall (k v : Nat) : (s.setHbmErr k v).stall = s.stall := rfl
@[simp] theorem setHbmErr_rotate (k v : Nat) : (s.setHbmErr k v).rotate = s.rotate := rfl
@[simp] theorem setHbmErr_sync (k v : Nat) : (s.setHbmErr k v).sync = s.sync := rfl
@[simp] theorem setHbmErr_parent (k v : Nat) : (s.setHbmErr k v).parent = s.parent := rfl
@[simp] theorem setHbmErr_joinPort (k v : Nat) : (s.setHbmErr k v).joinPort = s.joinPort := rfl
@[simp] theorem setHbmErr_fabSeq (k v : Nat) : (s.setHbmErr k v).fabSeq = s.fabSeq := rfl
@[simp] theorem setHbmErr_heads (k v : Nat) : (s.setHbmErr k v).heads = s.heads := rfl
@[simp] theorem setHbmErr_prot (k v : Nat) : (s.setHbmErr k v).prot = s.prot := rfl
@[simp] theorem setHbmErr_lsLast (k v : Nat) : (s.setHbmErr k v).lsLast = s.lsLast := rfl
@[simp] theorem setHbmErr_blt (k v : Nat) : (s.setHbmErr k v).blt = s.blt := rfl
@[simp] theorem setHbmErr_cams (k v : Nat) : (s.setHbmErr k v).cams = s.cams := rfl
@[simp] theorem setHbmErr_hqs (k v : Nat) : (s.setHbmErr k v).hqs = s.hqs := rfl
@[simp] theorem setHbmErr_streams (k v : Nat) : (s.setHbmErr k v).streams = s.streams := rfl
@[simp] theorem setHbmErr_host (k v : Nat) : (s.setHbmErr k v).host = s.host := rfl
@[simp] theorem setHbmErr_drain (k v : Nat) : (s.setHbmErr k v).drain = s.drain := rfl
@[simp] theorem setHbmErr_fab (k v : Nat) : (s.setHbmErr k v).fab = s.fab := rfl
@[simp] theorem setHbmErr_outbox (k v : Nat) : (s.setHbmErr k v).outbox = s.outbox := rfl

@[simp] theorem setHbmErr_word (k v : Nat) (x' : Nat) : (s.setHbmErr k v).word x' = s.word x' := rfl
@[simp] theorem setHbmErr_rd (k v : Nat) (pg' : Nat) (f' : Fld) (i' b' : Nat) :
    (s.setHbmErr k v).rd pg' f' i' b' = s.rd pg' f' i' b' := rfl
@[simp] theorem setHbmErr_flag (k v : Nat) (pg' : Nat) (f' : Fld) (i' b' : Nat) :
    (s.setHbmErr k v).flag pg' f' i' b' = s.flag pg' f' i' b' := rfl

@[simp] theorem setPoison_pending (k : Nat) (v : Bool) : (s.setPoison k v).pending = s.pending := rfl
@[simp] theorem setPoison_regs (k : Nat) (v : Bool) : (s.setPoison k v).regs = s.regs := rfl
@[simp] theorem setPoison_freeCtr (k : Nat) (v : Bool) : (s.setPoison k v).freeCtr = s.freeCtr := rfl
@[simp] theorem setPoison_met (k : Nat) (v : Bool) : (s.setPoison k v).met = s.met := rfl
@[simp] theorem setPoison_fuses (k : Nat) (v : Bool) : (s.setPoison k v).fuses = s.fuses := rfl
@[simp] theorem setPoison_chip (k : Nat) (v : Bool) : (s.setPoison k v).chip = s.chip := rfl
@[simp] theorem setPoison_evl (k : Nat) (v : Bool) : (s.setPoison k v).evl = s.evl := rfl
@[simp] theorem setPoison_lopArgs (k : Nat) (v : Bool) : (s.setPoison k v).lopArgs = s.lopArgs := rfl
@[simp] theorem setPoison_rink (k : Nat) (v : Bool) : (s.setPoison k v).rink = s.rink := rfl
@[simp] theorem setPoison_egress (k : Nat) (v : Bool) : (s.setPoison k v).egress = s.egress := rfl
@[simp] theorem setPoison_snp (k : Nat) (v : Bool) : (s.setPoison k v).snp = s.snp := rfl
@[simp] theorem setPoison_msi (k : Nat) (v : Bool) : (s.setPoison k v).msi = s.msi := rfl
@[simp] theorem setPoison_pwr (k : Nat) (v : Bool) : (s.setPoison k v).pwr = s.pwr := rfl
@[simp] theorem setPoison_ticks (k : Nat) (v : Bool) : (s.setPoison k v).ticks = s.ticks := rfl
@[simp] theorem setPoison_doneTicks (k : Nat) (v : Bool) : (s.setPoison k v).doneTicks = s.doneTicks := rfl
@[simp] theorem setPoison_hbm (k : Nat) (v : Bool) : (s.setPoison k v).hbm = s.hbm := rfl
@[simp] theorem setPoison_flash (k : Nat) (v : Bool) : (s.setPoison k v).flash = s.flash := rfl
@[simp] theorem setPoison_devs (k : Nat) (v : Bool) : (s.setPoison k v).devs = s.devs := rfl
@[simp] theorem setPoison_plan (k : Nat) (v : Bool) : (s.setPoison k v).plan = s.plan := rfl
@[simp] theorem setPoison_bootOps (k : Nat) (v : Bool) : (s.setPoison k v).bootOps = s.bootOps := rfl
@[simp] theorem setPoison_jtag (k : Nat) (v : Bool) : (s.setPoison k v).jtag = s.jtag := rfl
@[simp] theorem setPoison_outst (k : Nat) (v : Bool) : (s.setPoison k v).outst = s.outst := rfl
@[simp] theorem setPoison_granOwner (k : Nat) (v : Bool) : (s.setPoison k v).granOwner = s.granOwner := rfl
@[simp] theorem setPoison_sram (k : Nat) (v : Bool) : (s.setPoison k v).sram = s.sram := rfl
@[simp] theorem setPoison_sramErr (k : Nat) (v : Bool) : (s.setPoison k v).sramErr = s.sramErr := rfl
@[simp] theorem setPoison_tiles (k : Nat) (v : Bool) : (s.setPoison k v).tiles = s.tiles := rfl
@[simp] theorem setPoison_hbmErr (k : Nat) (v : Bool) : (s.setPoison k v).hbmErr = s.hbmErr := rfl
@[simp] theorem setPoison_hbmFree (k : Nat) (v : Bool) : (s.setPoison k v).hbmFree = s.hbmFree := rfl
@[simp] theorem setPoison_mcus (k : Nat) (v : Bool) : (s.setPoison k v).mcus = s.mcus := rfl
@[simp] theorem setPoison_ports (k : Nat) (v : Bool) : (s.setPoison k v).ports = s.ports := rfl
@[simp] theorem setPoison_stall (k : Nat) (v : Bool) : (s.setPoison k v).stall = s.stall := rfl
@[simp] theorem setPoison_rotate (k : Nat) (v : Bool) : (s.setPoison k v).rotate = s.rotate := rfl
@[simp] theorem setPoison_sync (k : Nat) (v : Bool) : (s.setPoison k v).sync = s.sync := rfl
@[simp] theorem setPoison_parent (k : Nat) (v : Bool) : (s.setPoison k v).parent = s.parent := rfl
@[simp] theorem setPoison_joinPort (k : Nat) (v : Bool) : (s.setPoison k v).joinPort = s.joinPort := rfl
@[simp] theorem setPoison_fabSeq (k : Nat) (v : Bool) : (s.setPoison k v).fabSeq = s.fabSeq := rfl
@[simp] theorem setPoison_heads (k : Nat) (v : Bool) : (s.setPoison k v).heads = s.heads := rfl
@[simp] theorem setPoison_prot (k : Nat) (v : Bool) : (s.setPoison k v).prot = s.prot := rfl
@[simp] theorem setPoison_lsLast (k : Nat) (v : Bool) : (s.setPoison k v).lsLast = s.lsLast := rfl
@[simp] theorem setPoison_blt (k : Nat) (v : Bool) : (s.setPoison k v).blt = s.blt := rfl
@[simp] theorem setPoison_cams (k : Nat) (v : Bool) : (s.setPoison k v).cams = s.cams := rfl
@[simp] theorem setPoison_hqs (k : Nat) (v : Bool) : (s.setPoison k v).hqs = s.hqs := rfl
@[simp] theorem setPoison_streams (k : Nat) (v : Bool) : (s.setPoison k v).streams = s.streams := rfl
@[simp] theorem setPoison_host (k : Nat) (v : Bool) : (s.setPoison k v).host = s.host := rfl
@[simp] theorem setPoison_drain (k : Nat) (v : Bool) : (s.setPoison k v).drain = s.drain := rfl
@[simp] theorem setPoison_fab (k : Nat) (v : Bool) : (s.setPoison k v).fab = s.fab := rfl
@[simp] theorem setPoison_outbox (k : Nat) (v : Bool) : (s.setPoison k v).outbox = s.outbox := rfl

@[simp] theorem setPoison_word (k : Nat) (v : Bool) (x' : Nat) : (s.setPoison k v).word x' = s.word x' := rfl
@[simp] theorem setPoison_rd (k : Nat) (v : Bool) (pg' : Nat) (f' : Fld) (i' b' : Nat) :
    (s.setPoison k v).rd pg' f' i' b' = s.rd pg' f' i' b' := rfl
@[simp] theorem setPoison_flag (k : Nat) (v : Bool) (pg' : Nat) (f' : Fld) (i' b' : Nat) :
    (s.setPoison k v).flag pg' f' i' b' = s.flag pg' f' i' b' := rfl

@[simp] theorem hbmWrite_pending (a : Nat) (bs : List Byte) : (s.hbmWrite a bs).pending = s.pending := rfl
@[simp] theorem hbmWrite_regs (a : Nat) (bs : List Byte) : (s.hbmWrite a bs).regs = s.regs := rfl
@[simp] theorem hbmWrite_freeCtr (a : Nat) (bs : List Byte) : (s.hbmWrite a bs).freeCtr = s.freeCtr := rfl
@[simp] theorem hbmWrite_met (a : Nat) (bs : List Byte) : (s.hbmWrite a bs).met = s.met := rfl
@[simp] theorem hbmWrite_fuses (a : Nat) (bs : List Byte) : (s.hbmWrite a bs).fuses = s.fuses := rfl
@[simp] theorem hbmWrite_chip (a : Nat) (bs : List Byte) : (s.hbmWrite a bs).chip = s.chip := rfl
@[simp] theorem hbmWrite_evl (a : Nat) (bs : List Byte) : (s.hbmWrite a bs).evl = s.evl := rfl
@[simp] theorem hbmWrite_lopArgs (a : Nat) (bs : List Byte) : (s.hbmWrite a bs).lopArgs = s.lopArgs := rfl
@[simp] theorem hbmWrite_rink (a : Nat) (bs : List Byte) : (s.hbmWrite a bs).rink = s.rink := rfl
@[simp] theorem hbmWrite_egress (a : Nat) (bs : List Byte) : (s.hbmWrite a bs).egress = s.egress := rfl
@[simp] theorem hbmWrite_snp (a : Nat) (bs : List Byte) : (s.hbmWrite a bs).snp = s.snp := rfl
@[simp] theorem hbmWrite_msi (a : Nat) (bs : List Byte) : (s.hbmWrite a bs).msi = s.msi := rfl
@[simp] theorem hbmWrite_pwr (a : Nat) (bs : List Byte) : (s.hbmWrite a bs).pwr = s.pwr := rfl
@[simp] theorem hbmWrite_ticks (a : Nat) (bs : List Byte) : (s.hbmWrite a bs).ticks = s.ticks := rfl
@[simp] theorem hbmWrite_doneTicks (a : Nat) (bs : List Byte) : (s.hbmWrite a bs).doneTicks = s.doneTicks := rfl
@[simp] theorem hbmWrite_flash (a : Nat) (bs : List Byte) : (s.hbmWrite a bs).flash = s.flash := rfl
@[simp] theorem hbmWrite_devs (a : Nat) (bs : List Byte) : (s.hbmWrite a bs).devs = s.devs := rfl
@[simp] theorem hbmWrite_plan (a : Nat) (bs : List Byte) : (s.hbmWrite a bs).plan = s.plan := rfl
@[simp] theorem hbmWrite_bootOps (a : Nat) (bs : List Byte) : (s.hbmWrite a bs).bootOps = s.bootOps := rfl
@[simp] theorem hbmWrite_jtag (a : Nat) (bs : List Byte) : (s.hbmWrite a bs).jtag = s.jtag := rfl
@[simp] theorem hbmWrite_outst (a : Nat) (bs : List Byte) : (s.hbmWrite a bs).outst = s.outst := rfl
@[simp] theorem hbmWrite_granOwner (a : Nat) (bs : List Byte) : (s.hbmWrite a bs).granOwner = s.granOwner := rfl
@[simp] theorem hbmWrite_sram (a : Nat) (bs : List Byte) : (s.hbmWrite a bs).sram = s.sram := rfl
@[simp] theorem hbmWrite_sramErr (a : Nat) (bs : List Byte) : (s.hbmWrite a bs).sramErr = s.sramErr := rfl
@[simp] theorem hbmWrite_tiles (a : Nat) (bs : List Byte) : (s.hbmWrite a bs).tiles = s.tiles := rfl
@[simp] theorem hbmWrite_hbmErr (a : Nat) (bs : List Byte) : (s.hbmWrite a bs).hbmErr = s.hbmErr := rfl
@[simp] theorem hbmWrite_hbmFree (a : Nat) (bs : List Byte) : (s.hbmWrite a bs).hbmFree = s.hbmFree := rfl
@[simp] theorem hbmWrite_mcus (a : Nat) (bs : List Byte) : (s.hbmWrite a bs).mcus = s.mcus := rfl
@[simp] theorem hbmWrite_ports (a : Nat) (bs : List Byte) : (s.hbmWrite a bs).ports = s.ports := rfl
@[simp] theorem hbmWrite_stall (a : Nat) (bs : List Byte) : (s.hbmWrite a bs).stall = s.stall := rfl
@[simp] theorem hbmWrite_rotate (a : Nat) (bs : List Byte) : (s.hbmWrite a bs).rotate = s.rotate := rfl
@[simp] theorem hbmWrite_sync (a : Nat) (bs : List Byte) : (s.hbmWrite a bs).sync = s.sync := rfl
@[simp] theorem hbmWrite_parent (a : Nat) (bs : List Byte) : (s.hbmWrite a bs).parent = s.parent := rfl
@[simp] theorem hbmWrite_joinPort (a : Nat) (bs : List Byte) : (s.hbmWrite a bs).joinPort = s.joinPort := rfl
@[simp] theorem hbmWrite_fabSeq (a : Nat) (bs : List Byte) : (s.hbmWrite a bs).fabSeq = s.fabSeq := rfl
@[simp] theorem hbmWrite_heads (a : Nat) (bs : List Byte) : (s.hbmWrite a bs).heads = s.heads := rfl
@[simp] theorem hbmWrite_prot (a : Nat) (bs : List Byte) : (s.hbmWrite a bs).prot = s.prot := rfl
@[simp] theorem hbmWrite_lsLast (a : Nat) (bs : List Byte) : (s.hbmWrite a bs).lsLast = s.lsLast := rfl
@[simp] theorem hbmWrite_blt (a : Nat) (bs : List Byte) : (s.hbmWrite a bs).blt = s.blt := rfl
@[simp] theorem hbmWrite_cams (a : Nat) (bs : List Byte) : (s.hbmWrite a bs).cams = s.cams := rfl
@[simp] theorem hbmWrite_hqs (a : Nat) (bs : List Byte) : (s.hbmWrite a bs).hqs = s.hqs := rfl
@[simp] theorem hbmWrite_streams (a : Nat) (bs : List Byte) : (s.hbmWrite a bs).streams = s.streams := rfl
@[simp] theorem hbmWrite_host (a : Nat) (bs : List Byte) : (s.hbmWrite a bs).host = s.host := rfl
@[simp] theorem hbmWrite_drain (a : Nat) (bs : List Byte) : (s.hbmWrite a bs).drain = s.drain := rfl
@[simp] theorem hbmWrite_fab (a : Nat) (bs : List Byte) : (s.hbmWrite a bs).fab = s.fab := rfl
@[simp] theorem hbmWrite_outbox (a : Nat) (bs : List Byte) : (s.hbmWrite a bs).outbox = s.outbox := rfl

@[simp] theorem hbmWrite_word (a : Nat) (bs : List Byte) (x' : Nat) : (s.hbmWrite a bs).word x' = s.word x' := rfl
@[simp] theorem hbmWrite_rd (a : Nat) (bs : List Byte) (pg' : Nat) (f' : Fld) (i' b' : Nat) :
    (s.hbmWrite a bs).rd pg' f' i' b' = s.rd pg' f' i' b' := rfl
@[simp] theorem hbmWrite_flag (a : Nat) (bs : List Byte) (pg' : Nat) (f' : Fld) (i' b' : Nat) :
    (s.hbmWrite a bs).flag pg' f' i' b' = s.flag pg' f' i' b' := rfl

@[simp] theorem protWrite_pending (h o : Nat) (bs : List Byte) : (s.protWrite h o bs).pending = s.pending := rfl
@[simp] theorem protWrite_regs (h o : Nat) (bs : List Byte) : (s.protWrite h o bs).regs = s.regs := rfl
@[simp] theorem protWrite_freeCtr (h o : Nat) (bs : List Byte) : (s.protWrite h o bs).freeCtr = s.freeCtr := rfl
@[simp] theorem protWrite_met (h o : Nat) (bs : List Byte) : (s.protWrite h o bs).met = s.met := rfl
@[simp] theorem protWrite_fuses (h o : Nat) (bs : List Byte) : (s.protWrite h o bs).fuses = s.fuses := rfl
@[simp] theorem protWrite_chip (h o : Nat) (bs : List Byte) : (s.protWrite h o bs).chip = s.chip := rfl
@[simp] theorem protWrite_evl (h o : Nat) (bs : List Byte) : (s.protWrite h o bs).evl = s.evl := rfl
@[simp] theorem protWrite_lopArgs (h o : Nat) (bs : List Byte) : (s.protWrite h o bs).lopArgs = s.lopArgs := rfl
@[simp] theorem protWrite_rink (h o : Nat) (bs : List Byte) : (s.protWrite h o bs).rink = s.rink := rfl
@[simp] theorem protWrite_egress (h o : Nat) (bs : List Byte) : (s.protWrite h o bs).egress = s.egress := rfl
@[simp] theorem protWrite_snp (h o : Nat) (bs : List Byte) : (s.protWrite h o bs).snp = s.snp := rfl
@[simp] theorem protWrite_msi (h o : Nat) (bs : List Byte) : (s.protWrite h o bs).msi = s.msi := rfl
@[simp] theorem protWrite_pwr (h o : Nat) (bs : List Byte) : (s.protWrite h o bs).pwr = s.pwr := rfl
@[simp] theorem protWrite_ticks (h o : Nat) (bs : List Byte) : (s.protWrite h o bs).ticks = s.ticks := rfl
@[simp] theorem protWrite_doneTicks (h o : Nat) (bs : List Byte) : (s.protWrite h o bs).doneTicks = s.doneTicks := rfl
@[simp] theorem protWrite_hbm (h o : Nat) (bs : List Byte) : (s.protWrite h o bs).hbm = s.hbm := rfl
@[simp] theorem protWrite_poison (h o : Nat) (bs : List Byte) : (s.protWrite h o bs).poison = s.poison := rfl
@[simp] theorem protWrite_flash (h o : Nat) (bs : List Byte) : (s.protWrite h o bs).flash = s.flash := rfl
@[simp] theorem protWrite_devs (h o : Nat) (bs : List Byte) : (s.protWrite h o bs).devs = s.devs := rfl
@[simp] theorem protWrite_plan (h o : Nat) (bs : List Byte) : (s.protWrite h o bs).plan = s.plan := rfl
@[simp] theorem protWrite_bootOps (h o : Nat) (bs : List Byte) : (s.protWrite h o bs).bootOps = s.bootOps := rfl
@[simp] theorem protWrite_jtag (h o : Nat) (bs : List Byte) : (s.protWrite h o bs).jtag = s.jtag := rfl
@[simp] theorem protWrite_outst (h o : Nat) (bs : List Byte) : (s.protWrite h o bs).outst = s.outst := rfl
@[simp] theorem protWrite_granOwner (h o : Nat) (bs : List Byte) : (s.protWrite h o bs).granOwner = s.granOwner := rfl
@[simp] theorem protWrite_sram (h o : Nat) (bs : List Byte) : (s.protWrite h o bs).sram = s.sram := rfl
@[simp] theorem protWrite_sramErr (h o : Nat) (bs : List Byte) : (s.protWrite h o bs).sramErr = s.sramErr := rfl
@[simp] theorem protWrite_tiles (h o : Nat) (bs : List Byte) : (s.protWrite h o bs).tiles = s.tiles := rfl
@[simp] theorem protWrite_hbmErr (h o : Nat) (bs : List Byte) : (s.protWrite h o bs).hbmErr = s.hbmErr := rfl
@[simp] theorem protWrite_hbmFree (h o : Nat) (bs : List Byte) : (s.protWrite h o bs).hbmFree = s.hbmFree := rfl
@[simp] theorem protWrite_mcus (h o : Nat) (bs : List Byte) : (s.protWrite h o bs).mcus = s.mcus := rfl
@[simp] theorem protWrite_ports (h o : Nat) (bs : List Byte) : (s.protWrite h o bs).ports = s.ports := rfl
@[simp] theorem protWrite_stall (h o : Nat) (bs : List Byte) : (s.protWrite h o bs).stall = s.stall := rfl
@[simp] theorem protWrite_rotate (h o : Nat) (bs : List Byte) : (s.protWrite h o bs).rotate = s.rotate := rfl
@[simp] theorem protWrite_sync (h o : Nat) (bs : List Byte) : (s.protWrite h o bs).sync = s.sync := rfl
@[simp] theorem protWrite_parent (h o : Nat) (bs : List Byte) : (s.protWrite h o bs).parent = s.parent := rfl
@[simp] theorem protWrite_joinPort (h o : Nat) (bs : List Byte) : (s.protWrite h o bs).joinPort = s.joinPort := rfl
@[simp] theorem protWrite_fabSeq (h o : Nat) (bs : List Byte) : (s.protWrite h o bs).fabSeq = s.fabSeq := rfl
@[simp] theorem protWrite_heads (h o : Nat) (bs : List Byte) : (s.protWrite h o bs).heads = s.heads := rfl
@[simp] theorem protWrite_lsLast (h o : Nat) (bs : List Byte) : (s.protWrite h o bs).lsLast = s.lsLast := rfl
@[simp] theorem protWrite_blt (h o : Nat) (bs : List Byte) : (s.protWrite h o bs).blt = s.blt := rfl
@[simp] theorem protWrite_cams (h o : Nat) (bs : List Byte) : (s.protWrite h o bs).cams = s.cams := rfl
@[simp] theorem protWrite_hqs (h o : Nat) (bs : List Byte) : (s.protWrite h o bs).hqs = s.hqs := rfl
@[simp] theorem protWrite_streams (h o : Nat) (bs : List Byte) : (s.protWrite h o bs).streams = s.streams := rfl
@[simp] theorem protWrite_host (h o : Nat) (bs : List Byte) : (s.protWrite h o bs).host = s.host := rfl
@[simp] theorem protWrite_drain (h o : Nat) (bs : List Byte) : (s.protWrite h o bs).drain = s.drain := rfl
@[simp] theorem protWrite_fab (h o : Nat) (bs : List Byte) : (s.protWrite h o bs).fab = s.fab := rfl
@[simp] theorem protWrite_outbox (h o : Nat) (bs : List Byte) : (s.protWrite h o bs).outbox = s.outbox := rfl

@[simp] theorem protWrite_word (h o : Nat) (bs : List Byte) (x' : Nat) : (s.protWrite h o bs).word x' = s.word x' := rfl
@[simp] theorem protWrite_rd (h o : Nat) (bs : List Byte) (pg' : Nat) (f' : Fld) (i' b' : Nat) :
    (s.protWrite h o bs).rd pg' f' i' b' = s.rd pg' f' i' b' := rfl
@[simp] theorem protWrite_flag (h o : Nat) (bs : List Byte) (pg' : Nat) (f' : Fld) (i' b' : Nat) :
    (s.protWrite h o bs).flag pg' f' i' b' = s.flag pg' f' i' b' := rfl

/-! Registers. -/

@[simp] theorem word_setWord_same (a : Nat) (w : Word) : (s.setWord a w).word a = w := by
  simp [State.word, State.setWord]

theorem word_setWord_other (w : Word) {a x : Nat} (h : x ≠ a) : (s.setWord a w).word x = s.word x := by
  simp [State.word, State.setWord, fget_fset_other _ _ _ h]

/-- A write of a field changes one register word alone. -/
theorem word_wr_other (pg : Nat) (f : Fld) (v i b : Nat) {x : Nat} (h : x ≠ pg + fldOff f i b) :
    (s.wr pg f v i b).word x = s.word x := word_setWord_other s _ h

theorem word_wr_same (pg : Nat) (f : Fld) (v i b : Nat) :
    (s.wr pg f v i b).word (pg + fldOff f i b)
      = BitVec.ofNat 32 (putBits (s.word (pg + fldOff f i b)).toNat (fldBit f i) f.wid v) := word_setWord_same s _ _

/-- A field reads what was written to it. -/
theorem rd_wr_same (pg : Nat) (f : Fld) (v i b : Nat) (h : fldBit f i + f.wid ≤ 32) :
    (s.wr pg f v i b).rd pg f i b = v % 2 ^ f.wid := by
  simp only [State.rd, word_wr_same, BitVec.toNat_ofNat]
  rw [Nat.mod_eq_of_lt (putBits_lt _ _ _ _ (s.word (pg + fldOff f i b)).isLt h), getBits_putBits_same]

/-- A field of another word reads as before. -/
theorem rd_wr_other (pg : Nat) (f : Fld) (v i b pg' : Nat) (f' : Fld) (i' b' : Nat)
    (h : pg' + fldOff f' i' b' ≠ pg + fldOff f i b) : (s.wr pg f v i b).rd pg' f' i' b' = s.rd pg' f' i' b' := by
  simp only [State.rd, word_wr_other s pg f v i b h]

/-- A field of the same word that shares no bit with the one written reads as before. -/
theorem rd_wr_beside (pg : Nat) (f : Fld) (v i b : Nat) (f' : Fld) (i' b' : Nat) (ho : fldOff f' i' b' = fldOff f i b)
    (hw : fldBit f i + f.wid ≤ 32) (h : fldBit f' i' + f'.wid ≤ fldBit f i ∨ fldBit f i + f.wid ≤ fldBit f' i') :
    (s.wr pg f v i b).rd pg f' i' b' = s.rd pg f' i' b' := by
  simp only [State.rd, ho, word_wr_same, BitVec.toNat_ofNat]
  rw [Nat.mod_eq_of_lt (putBits_lt _ _ _ _ (s.word (pg + fldOff f i b)).isLt hw), getBits_putBits_other _ _ _ _ _ _ h]

/-- Writing registers keeps their canonical form. -/
theorem regs_setWord_wf (a : Nat) (w : Word) (h : fwf wordReset s.regs = true) : fwf wordReset (s.setWord a w).regs = true :=
  fwf_fset _ _ _ _ h

/-! Commands and the clock. -/

/-- Out of reset a command has its effect. -/
theorem live_next (f : State → State) (h : s.chip.inReset = false) : live s f = .next (f s) := by simp [live, h]

/-- In reset a command has none (R107). -/
theorem live_reset (f : State → State) (h : s.chip.inReset = true) : live s f = .next s := by simp [live, h]

theorem liveP_next (f : State → State) (h : s.chip.inReset = false) : liveP s f = .next (powerEval (f s)) := by
  simp [liveP, live, h]

theorem liveP_reset (f : State → State) (h : s.chip.inReset = true) : liveP s f = .next s := by simp [liveP, live, h]

/-- A register write whose checks pass has its effect, and marks CUSTOM (R81). -/
theorem regWrite_ok (req a : Nat) (eff : State → State) (h : checkWrite s req a = .ok) :
    regWrite req a eff s = customMark req (a - a % 0x1000) (a % 0x1000) (eff s) := by
  simp [regWrite, regWriteFrom, regWriteAs, h]

/-- A register write that Table 3.4 denies records the denial and changes nothing else (R674). -/
theorem regWrite_denied (req a : Nat) (eff : State → State) (h : checkWrite s req a = .denied) :
    regWrite req a eff s =
      denyCount req s.chipNum 5 (winBase + a) (pageFault (a - a % 0x1000) causeNotOwner req true (a % 0x1000) s) := by
  simp [regWrite, regWriteFrom, regWriteAs, h]

end Sys2Proof.Machine
end

