-- ==== Sys2Proof/Laws/Log.lean ====
section
/-! SUPPORT. Everything that logging an event, or recording a fault of a page access, can change: the logs, the downbeat table,
the egress queues, the message vectors, the record of outputs, and words of the ERR, EVL, SNP, HIF and TSP pages below their
ownership areas. -/
namespace Sys2Proof.Machine
open Sys2Proof

/-- A word that logging may write: in ERR, EVL, SNP, HIF or TSP below the ownership area, and outside the window of a long
operation; or of a function's block. -/
def logWord (a : Nat) : Bool :=
  decide (0x1000000 ≤ a) ||
    ([pgERR, pgEVL, pgSNP, pgHIF, pgTSP 0, pgTSP 1, pgTSP 2, pgTSP 3, pgTSP 4, pgTSP 5].contains (a - a % 0x1000) &&
      decide (a % 0x1000 < 0xF00) && !(decide (0x40 ≤ a % 0x1000) && decide (a % 0x1000 < 0x60)))

/-- The state without what logging may change. -/
def logErase (s : State) : State :=
  { s with regs := [], evl := State.reset.evl, snp := State.reset.snp, egress := [], stall := [], ports := [], msi := State.reset.msi,
           outbox := [], streams := [] }

/-- What holds between a state and the state after logging. -/
def LogFrame (s t : State) : Prop := logErase t = logErase s ∧ ∀ a, logWord a = false → t.word a = s.word a

theorem LogFrame.refl (s : State) : LogFrame s s := ⟨rfl, fun _ _ => rfl⟩

theorem LogFrame.trans {s t u : State} (h : LogFrame s t) (k : LogFrame t u) : LogFrame s u :=
  ⟨k.1.trans h.1, fun a ha => (k.2 a ha).trans (h.2 a ha)⟩

/-- A state that differs in its logs and queues alone, with the same registers. -/
theorem LogFrame.of_eq {s t : State} (e : logErase t = logErase s) (r : t.regs = s.regs) : LogFrame s t :=
  ⟨e, fun a _ => by simp [State.word, r]⟩

/-- A change made only when a condition holds. -/
theorem LogFrame.opt {s t u : State} {c : Prop} [Decidable c] (h : LogFrame s u) (k : LogFrame u t) :
    LogFrame s (if c then t else u) := by
  split
  · exact h.trans k
  · exact h

/-- A change made unless a condition holds. -/
theorem LogFrame.unless {s t u : State} {c : Prop} [Decidable c] (h : LogFrame s u) (k : LogFrame u t) :
    LogFrame s (if c then u else t) := by
  split
  · exact h
  · exact h.trans k

/-- One of two changes. -/
theorem LogFrame.ite {s t u : State} {c : Prop} [Decidable c] (h : LogFrame s t) (k : LogFrame s u) :
    LogFrame s (if c then t else u) := by
  split
  · exact h
  · exact k

theorem logFrame_setWord (s : State) {a : Nat} (w : Word) (h : logWord a = true) : LogFrame s (s.setWord a w) :=
  ⟨rfl, fun x hx => word_setWord_other s w (by rintro rfl; simp [h] at hx)⟩

theorem logFrame_wr (s : State) {pg : Nat} {f : Fld} (v : Nat) {i b : Nat} (h : logWord (pg + fldOff f i b) = true) :
    LogFrame s (s.wr pg f v i b) := logFrame_setWord s _ h

theorem logFrame_bump (s : State) {pg : Nat} {f : Fld} (n : Nat) {i b : Nat} (h : logWord (pg + fldOff f i b) = true) :
    LogFrame s (s.bump pg f n i b) := logFrame_wr s _ h

theorem logFrame_msixRaise (fn v : Nat) (s : State) : LogFrame s (msixRaise fn v s) := by
  unfold msixRaise
  have key : ∀ o ≤ 0xC, logWord (pgFN fn + o) = true := fun o _ => by
    have h : 0x1000000 ≤ pgFN fn + o := by unfold pgFN; exact Nat.le_trans (Nat.le_add_right _ _) (Nat.le_add_right _ _)
    simp only [logWord, decide_eq_true h, Bool.true_or]
  dsimp only
  split
  · exact logFrame_bump s 1 (key _ (by decide))
  · split
    · exact .refl s
    · split
      · exact .of_eq rfl rfl
      · split
        · exact .of_eq rfl rfl
        · split <;> exact .of_eq rfl rfl

theorem logFrame_pageVector (pg : Nat) (s : State) : LogFrame s (pageVector pg s) := by
  unfold pageVector
  dsimp only
  split
  · exact .refl s
  · split
    · split
      · exact logFrame_msixRaise _ _ s
      · exact .refl s
    · split
      · exact .refl s
      · exact logFrame_msixRaise _ _ s

theorem logFrame_irqSet (s : State) (pg : Nat) (bits : Word) (h : logWord (pg + 0x10) = true) : LogFrame s (irqSet pg bits s) := by
  unfold irqSet
  dsimp only
  split
  · exact (logFrame_setWord s _ h).trans (logFrame_pageVector _ _)
  · exact logFrame_setWord s _ h

theorem logFrame_irq (s : State) (pg bit : Nat) (h : logWord (pg + 0x10) = true) : LogFrame s (irq pg bit s) :=
  logFrame_irqSet s pg _ h

/-! The logs. -/

theorem logFrame_syncLog (l : Nat) (hl : l < 2) (s : State) : LogFrame s (syncLog l s) := by
  unfold syncLog
  have h : ∀ f ∈ [F.EVL_LOG_STATUS_COUNT, F.EVL_LOG_STATUS_FIRST, F.EVL_LOG_STATUS_FULL, F.EVL_LOG_OLDEST_SEQ_SEQ],
      logWord (pgEVL + fldOff f 0 l) = true := by
    interval_cases l <;> decide
  dsimp only
  refine .trans ?_ (logFrame_wr _ _ (h F.EVL_LOG_OLDEST_SEQ_SEQ (by simp)))
  refine .trans ?_ (logFrame_wr _ _ (h F.EVL_LOG_STATUS_FULL (by simp)))
  refine .trans ?_ (logFrame_wr _ _ (h F.EVL_LOG_STATUS_FIRST (by simp)))
  exact logFrame_wr _ _ (h F.EVL_LOG_STATUS_COUNT (by simp))

theorem logFrame_backlogPut (e : LogEntry) (s : State) : LogFrame s (backlogPut e s) := by
  unfold backlogPut
  dsimp only
  split
  · exact .refl s
  · split
    · exact LogFrame.trans (.of_eq rfl rfl) (logFrame_bump _ 1 (by decide))
    · exact .of_eq rfl rfl

theorem logFrame_logPut0 (e : LogEntry) (s : State) : LogFrame s (logPut0 e s) := by
  have mark : ∀ u : State, LogFrame u (if u.evl.lost0 then u else irq pgEVL 3 { u with evl := { u.evl with lost0 := true } }) := fun u =>
    .unless (.refl u) (.trans (.of_eq rfl rfl) (logFrame_irq _ _ _ (by decide)))
  have wrap : ∀ u : State, LogFrame u (if u.evl.wrapped0 then u else irq pgEVL 1 { u with evl := { u.evl with wrapped0 := true } }) := fun u =>
    .unless (.refl u) (.trans (.of_eq rfl rfl) (logFrame_irq _ _ _ (by decide)))
  have put : ∀ (u : State) (x : Evl), LogFrame u (backlogPut e (syncLog 0 { u with evl := x })) := fun u x => by
    refine .trans ?_ (logFrame_backlogPut e _)
    refine .trans ?_ (logFrame_syncLog 0 (by decide) _)
    exact .of_eq rfl rfl
  have lost : ∀ u : State, LogFrame u (u.bump pgEVL F.EVL_LOG_LOST_COUNT 1 0 0) := fun u => logFrame_bump u 1 (by decide)
  simp only [logPut0]
  split
  · exact put _ _
  · exact .unless ((mark s).trans (lost _)) ((wrap _).trans (put _ _))

theorem logFrame_logPut1 (e : LogEntry) (s : State) : LogFrame s (logPut1 e s) := by
  have mark : ∀ u : State, LogFrame u (if u.evl.lost1 then u else irq pgEVL 3 { u with evl := { u.evl with lost1 := true } }) := fun u =>
    .unless (.refl u) (.trans (.of_eq rfl rfl) (logFrame_irq _ _ _ (by decide)))
  have put : ∀ (u : State) (x : Evl), LogFrame u (irq pgEVL 0 (syncLog 1 { u with evl := x })) := fun u x => by
    refine .trans ?_ (logFrame_irq _ _ _ (by decide))
    refine .trans ?_ (logFrame_syncLog 1 (by decide) _)
    exact .of_eq rfl rfl
  have lost : ∀ u : State, LogFrame u (u.bump pgEVL F.EVL_LOG_LOST_COUNT 1 0 1) := fun u => logFrame_bump u 1 (by decide)
  simp only [logPut1]
  split
  · split
    · exact (put _ _).trans (logFrame_irq _ _ _ (by decide))
    · exact put _ _
  · exact .unless ((mark s).trans (lost _)) (put _ _)

theorem logFrame_logWrite (e : Event) (s : State) : LogFrame s (logWrite e s) := by
  unfold logWrite
  extract_lets x u v
  have hv : LogFrame s v := .opt (logFrame_wr s _ (by decide)) (logFrame_logPut0 x u)
  exact .opt hv (logFrame_logPut1 x v)

theorem logFrame_evOffer (e : Event) (s : State) : LogFrame s (evOffer e s) := by
  unfold evOffer
  dsimp only
  split
  · exact .of_eq rfl rfl
  · exact (logFrame_bump s 1 (by decide)).trans (logFrame_irq _ _ _ (by decide))

/-! Downbeats. -/

theorem logFrame_snpEnter (e : SnpEntry) (s : State) : LogFrame s (snpEnter e s) := by
  unfold snpEnter snpSync
  dsimp only
  split
  · exact .of_eq rfl rfl
  · split
    · exact LogFrame.trans (.of_eq rfl rfl) (logFrame_wr _ _ (by decide))
    · refine LogFrame.trans (logFrame_bump s 1 (by decide : logWord (pgSNP + fldOff F.SNP_PEND_FULL_COUNT 0 0) = true)) ?_
      refine (logFrame_irq _ pgSNP 3 (by decide)).trans ?_
      refine (logFrame_bump _ 1 (by decide : logWord (pgERR + fldOff F.ERR_CLASS_COUNT_COUNT 1 0) = true)).trans ?_
      exact (logFrame_irq _ pgERR 0 (by decide)).trans (logFrame_evOffer _ _)

theorem tsp_logWord {g : Nat} (hg : g < 24) (f : Fld) (hf : f ∈ [F.TSP_QOCC_PACKETS, F.TSP_QMAX_PACKETS, F.TSP_Q_FULL_COUNT]) :
    logWord (pgTSP (g / 4) + fldOff f 0 (g % 4)) = true := by
  simp only [List.mem_cons, List.not_mem_nil, or_false] at hf
  rcases hf with rfl | rfl | rfl <;> interval_cases g <;> decide

theorem logFrame_syncOcc {g : Nat} (hg : g < 24) (s : State) : LogFrame s (syncOcc g s) := by
  unfold syncOcc
  dsimp only
  exact (logFrame_wr s _ (tsp_logWord hg _ (by simp))).trans (logFrame_wr _ _ (tsp_logWord hg _ (by simp)))

theorem logFrame_egressPush {g : Nat} (hg : g < 24) (p : Packet) (s : State) : LogFrame s (egressPush g p s) := by
  unfold egressPush
  extract_lets u k v
  have hu : LogFrame s u := .of_eq rfl rfl
  have hi : logWord (pgTSP (g / 4) + 0x10) = true := by interval_cases g <;> decide
  refine .ite (.trans ?_ (logFrame_syncOcc hg _)) (.trans (.trans ?_ (logFrame_bump _ 1 ?_)) (logFrame_irq _ _ _ hi))
  · exact hu.trans (.of_eq rfl rfl)
  · exact hu.trans (.of_eq rfl rfl)
  · exact tsp_logWord hg F.TSP_Q_FULL_COUNT (by simp)

theorem logFrame_flood (p : Packet) (s : State) : LogFrame s (flood p s) := by
  unfold flood
  have key : ∀ (l : List Nat), (∀ g ∈ l, g < 24) → ∀ s : State, LogFrame s (l.foldl (fun s g =>
      if g ≠ p.port && (portState s g = 3 || portState s g = 4) then egressPush g { p with port := g } s else s) s) := by
    intro l
    induction l with
    | nil => exact fun _ s => .refl s
    | cons g r ih =>
      intro h s
      exact LogFrame.trans (.opt (.refl s) (logFrame_egressPush (h g (by simp)) _ s)) (ih (fun x hx => h x (by simp [hx])) _)
  exact key _ (fun g hg => List.mem_range.1 hg) s

theorem logFrame_snpCountExcess (s : State) : LogFrame s (snpCountExcess s) := by
  unfold snpCountExcess
  dsimp only
  have h0 : LogFrame s (irq pgSNP 1 (s.bump pgSNP F.SNP_EXCESS_COUNT)) :=
    (logFrame_bump s 1 (by decide)).trans (logFrame_irq _ _ _ (by decide))
  refine h0.trans ?_
  generalize irq pgSNP 1 (s.bump pgSNP F.SNP_EXCESS_COUNT) = u
  split
  · exact .refl u
  · refine LogFrame.trans (t := { u with snp := { u.snp with excessLogged := true } }) (.of_eq rfl rfl) ?_
    refine (logFrame_bump _ 1 (by decide : logWord (pgERR + fldOff F.ERR_CLASS_COUNT_COUNT 1 0) = true)).trans ?_
    exact (logFrame_irq _ pgERR 0 (by decide)).trans (logFrame_evOffer _ _)

theorem logFrame_snpSource {excess : State → State} {enter : SnpEntry → State → State} (hx : ∀ s, LogFrame s (excess s))
    (he : ∀ e s, LogFrame s (enter e s)) (src t : Nat) (s : State) : LogFrame s (snpSource excess enter src t s) := by
  unfold snpSource
  extract_lets m t' n e u v w
  refine .ite (.ite (hx s) (.trans ?_ (logFrame_flood _ _))) (he _ s)
  refine .trans ?_ (he _ _)
  exact LogFrame.trans (t := v) (.of_eq rfl rfl) (logFrame_wr v n (by decide))

theorem logFrame_snpOwnEvent (s : State) : LogFrame s (snpOwnEvent s) :=
  .ite (logFrame_snpSource logFrame_snpCountExcess logFrame_snpEnter _ _ _) (.refl s)

theorem logFrame_snpExcess (s : State) : LogFrame s (snpExcess s) :=
  .ite (logFrame_snpCountExcess s) ((logFrame_snpCountExcess s).trans (logFrame_snpOwnEvent _))

theorem logFrame_snpInsert (e : SnpEntry) (s : State) : LogFrame s (snpInsert e s) :=
  .ite ((logFrame_snpEnter e s).trans (logFrame_snpOwnEvent _)) (logFrame_snpEnter e s)

theorem logFrame_snpTrigger (src t : Nat) (s : State) : LogFrame s (snpTrigger src t s) :=
  logFrame_snpSource logFrame_snpExcess logFrame_snpInsert src t s

/-! Events and faults. -/

/-- Everything that raising an event changes, but for the effect of its class (R689). -/
theorem logFrame_raiseBase (e : Event) (h : e.code < 0x5000) (s : State) : LogFrame s (raiseBase e s) := by
  unfold raiseBase
  have hc : e.cls < 5 := by unfold Event.cls; omega
  have hw : logWord (pgERR + fldOff F.ERR_CLASS_COUNT_COUNT e.cls 0) = true := by
    generalize e.cls = c at hc; interval_cases c <;> decide
  have hi : ∀ (s : State) (n : Nat), LogFrame s (irq pgERR n s) := fun s n => logFrame_irq s _ _ (by decide)
  extract_lets c u v w x
  have hu : LogFrame s u := logFrame_bump s 1 hw
  have hv : LogFrame u v := by
    simp only [v]
    split
    · exact hi u _
    · split
      · exact hi u _
      · exact .opt (.refl u) (hi u _)
  have hw : LogFrame v w := by
    refine .opt (.refl v) ?_
    unfold State.wr64
    refine .trans ?_ (logFrame_wr _ _ (by decide))
    refine .trans ?_ (logFrame_wr _ _ (by decide))
    exact (logFrame_wr v _ (by decide)).trans (logFrame_wr _ _ (by decide))
  have hx : LogFrame w x := by
    simp only [x]
    split
    · exact logFrame_logWrite e w
    · exact logFrame_evOffer e w
  exact .opt (((hu.trans hv).trans hw).trans hx) (logFrame_snpTrigger _ _ _)

/-- Everything that logging an event changes. -/
theorem logFrame_logEv (pg code : Nat) (s : State) (d0 d1 d2 : Nat) (h : code < 0x5000) : LogFrame s (logEv pg code s d0 d1 d2) :=
  logFrame_raiseBase _ h s

end Sys2Proof.Machine
end

