-- ==== Sys2Proof/Laws/Mem.lean ====
section
/-! SUPPORT. The byte memories: every operation on HBM, the tiles' SRAM, the flash devices and the protected buffers keeps the
canonical form, and little-endian numbers read back. -/
namespace Sys2Proof.Machine
open Sys2Proof

/-! Numbers as bytes. -/

@[simp] theorem leBytes_length (n v : Nat) : (leBytes n v).length = n := by
  induction n generalizing v with
  | zero => rfl
  | succ n ih => simp [leBytes, ih]

/-- A number of at most n bytes reads back from them. -/
theorem leNat_leBytes (n v : Nat) : leNat (leBytes n v) = v % 256 ^ n := by
  induction n generalizing v with
  | zero => simp [leBytes, leNat, Nat.mod_one]
  | succ n ih =>
    rw [leBytes, leNat, ih, BitVec.toNat_ofNat, show (2 : Nat) ^ 8 = 256 from rfl, Nat.pow_succ', Nat.mod_mul]

/-! The canonical form. -/

/-- A byte of a map after a range of it is cleared. -/
theorem fget_mclear {α : Type} (d : Nat → α) (m : Fmap α) (a n k : Nat) :
    fget d (mclear m a n) k = if a ≤ k ∧ k < a + n then d k else fget d m k := by
  induction m with
  | nil => simp [mclear, fget]
  | cons x r ih =>
    obtain ⟨j, v⟩ := x
    unfold mclear at ih ⊢
    rw [List.filter_cons]
    by_cases hj : a ≤ j ∧ j < a + n
    · simp only [hj.1, hj.2, decide_true, Bool.and_self, Bool.not_true, Bool.false_eq_true, if_false, ih, fget]
      by_cases hk : k = j
      · subst hk; simp [hj]
      · simp [hk]
    · have : (!(decide (a ≤ j) && decide (j < a + n))) = true := by simp; omega
      simp only [this, if_true, fget, ih]
      by_cases hk : k = j
      · subst hk; simp [hj]
      · simp [hk]

/-- What a map holds at a key does not depend on what unlisted keys elsewhere read as. -/
theorem fwf_congr {α : Type} [DecidableEq α] (d e : Nat → α) (m : Fmap α) (h : ∀ x ∈ m, d x.1 = e x.1) (w : fwf d m = true) :
    fwf e m = true := by
  unfold fwf at *
  have key : ∀ (m : Fmap α) (a : Nat), (∀ x ∈ m, d x.1 = e x.1) → fwfFrom d a m = true → fwfFrom e a m = true := by
    intro m
    induction m with
    | nil => exact fun _ _ _ => rfl
    | cons x r ih =>
      intro a h w
      obtain ⟨k, v⟩ := x
      simp only [fwfFrom, Bool.and_eq_true, decide_eq_true_eq] at w ⊢
      exact ⟨w.1, by rw [← h (k, v) (by simp)]; exact w.2.1, ih _ (fun x hx => h x (by simp [hx])) w.2.2⟩
  exact key m 0 h w

variable (s : State)

theorem hbm_wf_write (a : Nat) (bs : List Byte) (h : fwf (hbmBlank s.hbmFree) s.hbm = true) :
    fwf (hbmBlank (s.hbmWrite a bs).hbmFree) (s.hbmWrite a bs).hbm = true := fwf_mwrite _ _ a bs h

theorem hbm_wf_zero (a n : Nat) (h : fwf (hbmBlank s.hbmFree) s.hbm = true) :
    fwf (hbmBlank (s.hbmZero a n).hbmFree) (s.hbmZero a n).hbm = true := by
  unfold State.hbmZero
  split
  · exact fwf_mclear _ _ a n h
  · exact fwf_mwrite _ _ a _ h

theorem zeroUnit_hbmFree (n k : Nat) : (zeroUnit n k s).hbmFree = s.hbmFree ∧
    (fwf (hbmBlank s.hbmFree) s.hbm = true → fwf (hbmBlank s.hbmFree) (zeroUnit n k s).hbm = true) := by
  unfold zeroUnit
  dsimp only
  split
  · exact ⟨rfl, fun h => fwf_filter _ _ _ h⟩
  · have key : ∀ (bs : List Byte) (f : Nat → Nat) (l : List Nat) (t : State), t.hbmFree = s.hbmFree →
        (l.foldl (fun t j => t.hbmWrite (f j) bs) t).hbmFree = s.hbmFree ∧
        (fwf (hbmBlank s.hbmFree) t.hbm = true →
          fwf (hbmBlank s.hbmFree) (l.foldl (fun t j => t.hbmWrite (f j) bs) t).hbm = true) := by
      intro bs f l
      induction l with
      | nil => exact fun t e => ⟨e, id⟩
      | cons j r ih =>
        intro t e
        obtain ⟨p, q⟩ := ih (t.hbmWrite (f j) bs) e
        exact ⟨p, fun h => q (by rw [← e] at h ⊢; exact fwf_mwrite _ _ _ _ h)⟩
    generalize List.range 4096 = l
    generalize List.replicate 256 (0 : Byte) = bs
    obtain ⟨p, q⟩ := key bs (fun j => hbmUnmap s n (k / 1024) (k % 1024 * 2 ^ 20 + 256 * j)) l
      { s with hbm := s.hbm.filter fun e => !inUnit s n k e.1, poison := s.poison.filter fun e => !inUnit s n k (32 * e.1),
               hbmErr := s.hbmErr.filter fun e => !inUnit s n k (32 * e.1) } rfl
    exact ⟨p, fun h => q (fwf_filter _ _ _ h)⟩

theorem flash_wf_erase (dev a n : Nat) (h : fwf flashBlank s.flash = true) : fwf flashBlank (s.flashErase dev a n).flash = true :=
  fwf_mclear _ _ _ n h

theorem flash_wf_program (dev a : Nat) (bs : List Byte) (h : fwf flashBlank s.flash = true) :
    fwf flashBlank (s.flashProgram dev a bs).flash = true := fwf_mwrite _ _ _ _ h

theorem prot_wf_write (n o : Nat) (bs : List Byte) (h : fwf (fun _ => 0) s.prot = true) :
    fwf (fun _ => 0) (s.protWrite n o bs).prot = true := fwf_mwrite _ _ _ bs h

theorem sram_wf_scrub (t : Nat) (h : fwf sramBlank s.sram = true) : fwf sramBlank (tileScrub s t).sram = true :=
  fwf_mclear _ _ _ _ h

theorem sram_wf_fresh (t : Nat) (h : fwf sramBlank s.sram = true) : fwf sramBlank (tileFresh t s).sram = true :=
  fwf_mclear _ _ _ _ h

/-! A tile's SRAM: a write stores its bytes and settles the words it meets, and touches no other byte. -/

/-- Logging touches no SRAM. -/
theorem logEv_sram (pg code : Nat) (d0 d1 d2 : Nat) (h : code < 0x5000) : (logEv pg code s d0 d1 d2).sram = s.sram := by
  have := congrArg State.sram (logFrame_logEv pg code s d0 d1 d2 h).1
  exact this

/-- An interrupt touches no SRAM. -/
theorem irq_sram (pg bit : Nat) : (irq pg bit s).sram = s.sram := by
  unfold irq irqSet
  dsimp only
  split
  · have := congrArg State.sram (logFrame_pageVector pg (s.setWord (pg + 16) (s.word (pg + 16) ||| BitVec.ofNat 32 (2 ^ bit)))).1
    exact this
  · rfl

theorem eccWord_sram (t k : Nat) : (eccWord t k s).sram = s.sram := by
  have ce : ∀ (c : Prop) [Decidable c] (u : State),
      (if c then logEv (pgTILE t) 0x1302 (irq (pgTILE t) 2 u) else u).sram = u.sram := by
    intro c _ u
    split
    · rw [logEv_sram _ _ _ _ _ _ (by decide), irq_sram]
    · rfl
  have wb : ∀ (c : Prop) [Decidable c] (u : State), (if c then u.setSramErr t k 0 else u).sram = u.sram := by
    intro c _ u
    split <;> rfl
  unfold eccWord
  split
  · rfl
  · exact (wb _ _).trans (ce _ _)
  · exact logEv_sram _ _ _ _ _ _ (by decide)

theorem eccWrite_sram (t o n k : Nat) : (eccWrite t o n k s).sram = s.sram := by
  unfold eccWrite
  dsimp only
  split
  · rfl
  · split
    · exact eccWord_sram s t k
    · exact eccWord_sram s t k

/-- What a write leaves in the tiles' SRAM. -/
theorem sram_sramWrite (t o : Nat) (bs : List Byte) :
    (sramWrite t o bs s).sram = mwrite sramBlank s.sram (t * 0x40000 + o) bs := by
  have fold : ∀ (l : List Nat) (u : State), (l.foldl (fun s k => eccWrite t o bs.length k s) u).sram = u.sram := by
    intro l
    induction l with
    | nil => exact fun _ => rfl
    | cons k r ih => exact fun u => (ih _).trans (eccWrite_sram u t o bs.length k)
  unfold sramWrite
  split
  · rename_i h
    rw [List.isEmpty_iff.1 h]; rfl
  · have h : ∀ u : State, (if (u.tile t).inject = 0 then u
        else (u.setSramErr t (o / 8) (u.tile t).inject).modTile t fun x => { x with inject := 0 }).sram = u.sram := by
      intro u
      split <;> rfl
    dsimp only
    rw [h, fold]

theorem sram_wf_write (t o : Nat) (bs : List Byte) (h : fwf sramBlank s.sram = true) :
    fwf sramBlank (sramWrite t o bs s).sram = true := by
  rw [sram_sramWrite]
  exact fwf_mwrite _ _ _ bs h

end Sys2Proof.Machine
end

