-- ==== Sys2Proof/Laws/Power.lean ====
section
/-! SUPPORT. Everything that evaluating the power ladder after a command can change (R177): the PWR page, what the model keeps of
the ladder's moves, and what logging changes. -/
namespace Sys2Proof.Machine
open Sys2Proof

/-- The state without what the evaluation may change. -/
def powerErase (s : State) : State := { logErase s with pwr := State.reset.pwr }

/-- What holds between a state and the state after the evaluation. -/
def PowerFrame (s t : State) : Prop :=
  powerErase t = powerErase s ∧ ∀ a, logWord a = false → a - a % 0x1000 ≠ pgPWR → t.word a = s.word a

theorem PowerFrame.refl (s : State) : PowerFrame s s := ⟨rfl, fun _ _ _ => rfl⟩

theorem PowerFrame.trans {s t u : State} (h : PowerFrame s t) (k : PowerFrame t u) : PowerFrame s u :=
  ⟨k.1.trans h.1, fun a ha hp => (k.2 a ha hp).trans (h.2 a ha hp)⟩

theorem PowerFrame.of_log {s t : State} (h : LogFrame s t) : PowerFrame s t :=
  ⟨congrArg (fun x : State => { x with pwr := State.reset.pwr }) h.1, fun a ha _ => h.2 a ha⟩

theorem PowerFrame.of_pwr (s : State) (p : Pwr) : PowerFrame s { s with pwr := p } := ⟨rfl, fun _ _ _ => rfl⟩

theorem PowerFrame.ite {s t u : State} {c : Prop} [Decidable c] (h : PowerFrame s t) (k : PowerFrame s u) :
    PowerFrame s (if c then t else u) := by
  split
  · exact h
  · exact k

/-- A word of the PWR page. -/
theorem powerFrame_wr (s : State) {f : Fld} (v : Nat) (h : fldOff f 0 0 < 0x1000) : PowerFrame s (s.wr pgPWR f v) :=
  ⟨rfl, fun a _ hp => word_wr_other s pgPWR f v 0 0 (by rintro rfl; exact hp (by unfold pgPWR; omega))⟩

theorem powerFrame_irq (s : State) (bit : Nat) : PowerFrame s (irq pgPWR bit s) := by
  unfold irq irqSet
  have h : PowerFrame s (s.setWord (pgPWR + 0x10) (s.word (pgPWR + 0x10) ||| BitVec.ofNat 32 (2 ^ bit))) :=
    ⟨rfl, fun a _ hp => word_setWord_other s _ (by rintro rfl; exact hp (by decide))⟩
  exact .ite (h.trans (.of_log (logFrame_pageVector _ _))) h

theorem powerFrame_entryBegin (r : Nat) (s : State) : PowerFrame s (entryBegin r s) := by
  refine .trans ?_ (.of_pwr ((s.wr pgPWR F.PWR_WAKE_CAUSE_CAUSE 0).wr pgPWR F.PWR_STATUS_MOVING 1) _)
  exact (powerFrame_wr s 0 (by decide)).trans (powerFrame_wr _ 1 (by decide))

theorem powerFrame_recordWake (causes : Nat) (s : State) : PowerFrame s (recordWake causes s) := by
  unfold recordWake
  have h : ∀ u : State, PowerFrame u
      (logEv pgPWR 0x0203 ((irq pgPWR 2 { u with pwr := { u.pwr with wakeExit := true } }).bump pgPWR F.PWR_WAKES_COUNT) causes) := by
    intro u
    refine .trans ?_ (.of_log (logFrame_logEv _ _ _ _ _ _ (by decide)))
    refine .trans ?_ (powerFrame_wr _ _ (by decide))
    exact (PowerFrame.of_pwr u _).trans (powerFrame_irq _ 2)
  have hw := powerFrame_wr s (f := F.PWR_WAKE_CAUSE_CAUSE) (s.rd pgPWR F.PWR_WAKE_CAUSE_CAUSE ||| causes) (by decide)
  exact .ite (hw.trans (h _)) hw

theorem powerFrame_exitBegin (causes : Nat) (s : State) : PowerFrame s (exitBegin causes s) := by
  unfold exitBegin
  have h : ∀ p : Pwr, PowerFrame s ({ s with pwr := p }.wr pgPWR F.PWR_STATUS_MOVING 1) := fun p =>
    (PowerFrame.of_pwr s p).trans (powerFrame_wr _ 1 (by decide))
  exact .ite ((h _).trans (powerFrame_recordWake causes _)) (h _)

/-- The evaluation changes the PWR page, the ladder's moves and what logging changes, and nothing else. -/
theorem powerFrame_powerEval (s : State) : PowerFrame s (powerEval s) := by
  unfold powerEval
  have h : PowerFrame s ((s.wr pgPWR F.PWR_HOLDS_HOLDS (holdsNow s)).wr pgPWR F.PWR_STATUS_FLOOR (floorNow s)) :=
    (powerFrame_wr s _ (by decide)).trans (powerFrame_wr _ _ (by decide))
  dsimp only
  generalize (s.wr pgPWR F.PWR_HOLDS_HOLDS (holdsNow s)).wr pgPWR F.PWR_STATUS_FLOOR (floorNow s) = u at *
  refine .ite h (.ite (h.trans (powerFrame_exitBegin _ u)) (.ite (h.trans (powerFrame_entryBegin _ u)) h))

end Sys2Proof.Machine
end

