-- ==== Sys2Proof/Tests/Slice0.lean ====
section
/-! SUPPORT. Tests: ill-formed commands are refused, the spec's worked examples hold, and the hypotheses of every statement are
met by a concrete state. -/
namespace Sys2Proof.Tests
open Sys2Proof Machine

set_option Elab.async false

/-! Ill-formed commands: one for each check of WellFormed. -/

theorem test_wf_requester : Instr.wf (.resetCmdWarm 32 0#32) = false := by decide
theorem test_wf_window_word : Instr.wf (.rteTableWrite 0 0x701002 0#32) = false := by decide
theorem test_wf_plain_word : Instr.wf (.registerWritePlain 0 0x1021000 0#32) = false := by decide
theorem test_wf_return_tag : Instr.wf (.remoteAccessTimeout 0x100000) = false := by decide
theorem test_wf_page : Instr.wf (.pageEnableWrite 0 0x100100 1#32) = false := by decide
theorem test_wf_byte : Instr.wf (.lopStartUnknownOp 0 0 256) = false := by decide
theorem test_wf_tile : Instr.wf (.tileRowFetch 2560) = false := by decide
theorem test_wf_log : Instr.wf (.evlLogClear mgmt 2 0#32) = false := by decide
theorem test_wf_stream : Instr.wf (.streamPagePublish 3 true) = false := by decide
theorem test_wf_head : Instr.wf (.dhFrameBoundary 4) = false := by decide
theorem test_wf_mcu : Instr.wf (.patrolUnit 8) = false := by decide
theorem test_wf_link_rate : Instr.wf (.dptxHpdSettled 0 7 0 false false) = false := by decide
theorem test_wf_region : Instr.wf (.sigRegionCheck 0 16) = false := by decide
theorem test_wf_fence : Instr.wf (.cmtFenceSet mgmt 64 0#32) = false := by decide
theorem test_wf_lane : Instr.wf (.lxLaneLockLoss 0 32) = false := by decide
theorem test_wf_link : Instr.wf (.lxSplitApply 6) = false := by decide
theorem test_wf_port : Instr.wf (.linkSchedulerPick 24) = false := by decide
theorem test_wf_pseudo_channel : Instr.wf (.mcuPcLost 0 64) = false := by decide
theorem test_wf_function : Instr.wf (.vfFlr 33) = false := by decide
theorem test_wf_queue : Instr.wf (.hqCmdComplete 64) = false := by decide
theorem test_wf_chip : Instr.wf (.fabStepLimitTimeout 0x2000) = false := by decide
theorem test_wf_half : Instr.wf (.streamTraceRecord 0x10000 [0#8, 0#8, 0#8, 0#8]) = false := by decide
theorem test_wf_event_page : Instr.wf (.eventRaise 0x1000 0 0#32 0#32 0#32 0) = false := by decide
theorem test_wf_packet : Instr.wf (.snpReleaseReceive { dst := 0x2000, src := 0, slice := 0, tc := 0, op := 0, len := 0, offset := 0, tag := 0, ordered := false, poison := false, mark := false, detour := false, words := 0, data := [], req := 0, port := 0 }) = false := by decide
theorem test_wf_boot_task : Instr.wf (.bootTaskComplete (.bist [2560])) = false := by decide
theorem test_wf_boot_repair : Instr.wf (.bootTaskComplete (.hbm [] true)) = false := by decide
theorem test_wf_tiles : Instr.wf (.tileBistBatchDone [0, 2560]) = false := by decide
theorem test_wf_sensors : Instr.wf (.thermalSample [] (List.replicate 8 0)) = false := by decide
theorem test_wf_stacks : Instr.wf (.thermalSample (List.replicate 48 0) [0]) = false := by decide
theorem test_wf_temperature : Instr.wf (.thermalSample (List.replicate 48 32768) (List.replicate 8 0)) = false := by decide
theorem test_wf_beat_times : Instr.wf (.paceWindowEnd ([0])) = false := by decide
theorem test_wf_scalar_offset : Instr.wf (.tileScalarWrite 0 0 0x200 0#32) = false := by decide
theorem test_wf_codeword : Instr.wf (.lxCodewordReceive 0 { ok := true, sym := [], num := true, kind := 8, arg := 0, aux := 0, slots := List.replicate 10 (List.replicate 64 0) }) = false := by decide +kernel
theorem test_wf_sequence : Instr.wf (.lxCwAck 0 4096) = false := by decide
theorem test_wf_flits : Instr.wf (.lxCwCredit 0 0 0) = false := by decide
theorem test_wf_heartbeat : Instr.wf (.lxCwSleep 0 1024) = false := by decide
theorem test_wf_equalisers : Instr.wf (.lxTrainingComplete 0 0#32 0#32 0#32 []) = false := by decide
theorem test_wf_fabric_header : Instr.wf (.fabOrderAckReceive { src := 0, term := 0, seq := 0, key := 2 ^ 21, group := false }) = false := by decide
theorem test_wf_fabric_event : Instr.wf (.fabEventReceive { src := 0, term := 0, seq := 0, key := 0, group := false } (.portUp 24)) = false := by decide
theorem test_wf_fabric_order : Instr.wf (.fabOrderReceive { src := 0, term := 0, seq := 0, key := 0, group := false } (.drain 0x1000)) = false := by decide
theorem test_wf_join_contexts : Instr.wf (.fabJoinReceive 0 { src := 0, term := 0, seq := 0, key := 0, group := false } false [(32, 0, [])]) = false := by decide
theorem test_wf_mirror : Instr.wf (.fabMirrorReceive { src := 0, term := 0, seq := 0, key := 0, group := false }
      { queue := [], run := none, record := [{ slice := 0x1000, chips := [], ctxs := [], tick := 0, own := true }], circuits := none }) = false := by decide
theorem test_wf_statuses : Instr.wf (.fabSwitchReply 1 0 0 []) = false := by decide
theorem test_wf_switch : Instr.wf (.fabSwitchAckTimeout 0) = false := by decide
theorem test_wf_word : Instr.wf (.fabRecomputeDone (2 ^ 32)) = false := by decide
theorem test_wf_leaders : Instr.wf (.fabBeatReceive 0 { src := 0, term := 0, seq := 0, key := 0, group := false } none [(256, 0)]) = false := by decide
theorem test_wf_deputy : Instr.wf (.fabBeatReceive 0 { src := 0, term := 0, seq := 0, key := 0, group := false } (some 0x2000) []) = false := by decide
theorem test_wf_queue_words : Instr.wf (.hqCmdNop 0 []) = false := by decide
theorem test_wf_claim : Instr.wf (.hqClaim 1 0 0 9) = false := by decide
theorem test_wf_offset : Instr.wf (.hostApertureRead 1 0 (2 ^ 32) 4) = false := by decide
theorem test_wf_trace_record : Instr.wf (.streamTraceRecord 0 []) = false := by decide
theorem test_wf_config_request : Instr.wf (.pcieConfigRequest 0 0 (.read 2)) = false := by decide

/-! States to test on. -/

/-- A powered chip out of reset, its registers as reset leaves them. -/
def live : State := { State.reset with chip := { State.reset.chip with pwrOk := true, perstN := true, inReset := false } }

/-- A chip in service, with the given pages available and enabled. -/
def up (pgs : List Nat) : State :=
  pgs.foldl (fun s p => (s.wr p F.HDR_PAGE_CAPS_AVAILABLE 1).wr p F.HDR_PAGE_CTRL_ENABLE 1) (live.wr pgCHIP F.CHIP_BOOT_STATUS_DONE 1)

/-- The same with the expert registers of one page open. -/
def upX (p : Nat) : State := (up [p]).wr p F.HDR_PAGE_CTRL_EXPERT_EN 1

/-- A long operation holds a page: RUNNING, or another LOP_STATE. -/
def lopOn (pg op st : Nat) (s : State) : State :=
  (s.wr pg F.LOP_LOP_STATE_STATE st).wr pg F.LOP_LOP_STATE_OP op

/-- A request packet to a chip. -/
def pkt (dst op : Nat) (bs : List Byte) : Packet :=
  { dst := dst, src := 0, slice := 0, tc := 1, op := op, len := 0, offset := 0, tag := 0, ordered := false, poison := false,
    mark := false, detour := false, words := 0, data := bs, req := mgmt, port := 31 }

/-! The spec's worked examples. -/

/-- 03, "finding and identifying a tile page": tile 808. -/
theorem test_tile_page_offset : pgTILE 808 = 0x728000 ∧ pageOf 0x728000 = some (.tile, 808) := by decide

/-- The same example: PAGE_ID of tile 808. -/
theorem test_tile_page_id : State.reset.word 0x728000 = 0x100C2801#32 := by decide

/-- 11, "where a Birch overlay line lives": GLOBAL and LOCAL. -/
theorem test_hbm_map_global : hbmMap State.reset 0x1000014A00 = (2, 41, 0x8000000) := by decide
theorem test_hbm_map_local : hbmMap (State.reset.wr pgMEMQ F.MEMQ_IMAP_LO_BLOCK 0x100) 0x1000014A00 = (0, 10, 0x8000500) := by decide

/-- 07, "modular waits and the Birch camera signal". -/
theorem test_modular_wait : atOrAfter 32 0xFFFFFFF0 0x10 = false ∧ atOrAfter 32 0x10 0x10 = true ∧ atOrAfter 32 0x10 0x90000000 = true := by
  decide

/-- 09, "one E2M1 block for the Larch sampler": 13.0, -0.7, 2.4 and 0.05 as FP32, the rest 0. -/
theorem test_e2m1_block : cvtBlock 9 0 (List.replicate 32 0)
    (dec 1 0x41500000 :: dec 1 0xBF333333 :: dec 1 0x4019999A :: dec 1 0x3D4CCCCD :: List.replicate 28 (dec 1 0)) =
    (0x80, 7 :: 9 :: 2 :: List.replicate 29 0, flUNDERFLOW ||| flINEXACT) := by decide

/-- 10, "the same inputs on both paths". -/
theorem test_exp2_native : sfuLast false false fFP32 0 0 false (f32 0xC3020000) = (0x00080000, 0) ∧
    sfuLast false false fFP32 0 0 false (f32 0x40A00000) = (0x42000000, 0) ∧
    sfuLast false false fFP32 0 0 false (f32 0x43000000) = (0x7F800000, flOVERFLOW ||| flINEXACT) := by decide
theorem test_exp2_pn3 : sfuLast false true fFP32 0 0 false (f32 0xC3020000) = (0, flUNDERFLOW ||| flINEXACT) ∧
    (sfuLast false true fFP32 0 0 false (f32 0x40A00000)).1 = 0x42000000 := by decide
theorem test_log2_both : sfuLast true false fFP32 0 0 false (f32 0x200) = (0xC30C0000, 0) ∧
    sfuLast true true fFP32 0 0 false (f32 0x200) = (0xFF800000, flINEXACT) ∧
    sfuLast true false fFP32 0 0 false (f32 0x80000000) = (0xFF800000, 0) := by decide

/-- 15, "a Larch route and its slalom": the entry 0x0000_CBF3 names ports 19, none and 18, and lies at 0x10_4024. -/
theorem test_route_entry : entryPort 0xCBF3 0 = 19 ∧ entryPort 0xCBF3 5 = 31 ∧ entryPort 0xCBF3 10 = 18 ∧
    bitOf 0xCBF3 15 = true ∧ entryAddr State.reset (ctxBase 2) 300 = 0x104024 := by decide

/-- 22, "loading an Alder plate": CLAIM[2] after 37 claims answers slot 37, PHASE 1, COUNT 2. -/
theorem test_claim_word :
    let s := (up [pgHIF, pgHQ 0]).wr pgHIF F.HIF_LINK_STATUS_DL_ACTIVE 1
    let s := (s.wr pgHIF F.HIF_LINK_STATUS_SPEED 1).wr (pgFN 6) F.FN_FN_ID_BOUND 1
    let s := hqWr 10 F.HQ_QCFG_DEPTH_LOG2 8 (hqWr 10 F.HQ_QCFG_FUNC 6 (hqWr 10 F.HQ_QCFG_STATE 1 s))
    (hqClaimEffect 6 0 10 2 ((hqWr 10 F.HQ_QSTATUS_CLAIMED 37 s).modHq 10 fun x => { x with consumed := 37 })).outbox =
      [.completion 6 0 0 false (leBytes 4 0x00021025)] := by decide +kernel

/-- 19 R575: CRC-32 of IEEE 802.3, on the check string of the standard. -/
theorem test_crc32 : crc32 [0x31, 0x32, 0x33, 0x34, 0x35, 0x36, 0x37, 0x38, 0x39] = 0xCBF43926 := by decide +kernel

/-- The reset of every byte memory is in its canonical form. -/
theorem test_reset_memWf : memWf State.reset = true := by decide

/-! Witnesses: for each statement with hypotheses, states and operands that meet those of each of its clauses. -/

/-- A command waiting. -/
theorem witness_StepRunsFrontCommand : ({ live with pending := [.scNop 0] } : State).pending = [.scNop 0] := rfl

/-- In reset and out of it. -/
theorem witness_EmptyQueueStepTicks :
    (State.reset.pending = [] ∧ State.reset.chip.inReset = true) ∧
    (live.pending = [] ∧ live.chip.inReset = false ∧ live.metState ≠ metSETTLING ∧ live.metState ≠ metHOLDOVER ∧ live.fab.out = [] ∧
      live.fab.mail = [] ∧ live.fab.pend = []) := by decide +kernel

/-- A page of each kind of reset, and the highest tile. -/
theorem witness_PagesResetToTheManagementDomain :
    pageOf pgCHIP = some (.chip, 0) ∧ pageOf (pgTILE 2559) = some (.tile, 2559) ∧ pgTILE 2559 % 0x1000 = 0 := by decide

/-- A chip in reset with other commands waiting, and its step. -/
theorem witness_ResetHoldsUntilReleased :
    HeldInReset [] State.reset.fuses { State.reset with pending := [.scNop 0] } ∧
    step { State.reset with pending := [.scNop 0] } = .next State.reset :=
  ⟨⟨rfl, by simp, rfl, rfl⟩, rfl⟩

theorem witness_CommandsInResetChangeNothing : State.reset.chip.inReset = true ∧ pinCommand (.scNop 0) = false := by decide

/-- A read without payload, and a write whose header fields hold their greatest values. -/
theorem witness_PacketFlitsRoundTrip :
    (let p := { pkt 174 opREAD [] with words := 8 }
     pktOk p = true ∧ lenOk p = true ∧ p.data.length = payloadLen p.op p.words) ∧
    (let p := { pkt 0x1FFF opWRITE (List.replicate 256 0xFF) with
                words := 64, src := 0x1FFF, slice := 0xFFF, tc := 7, offset := 2 ^ 43 - 4, tag := 0xFFFFF, ordered := true,
                poison := true, mark := true, detour := true, len := 4 }
     pktOk p = true ∧ lenOk p = true ∧ p.data.length = payloadLen p.op p.words) := by decide +kernel

/-- The memories of reset are canonical. -/
theorem witness_HbmWriteChangesItsBytesOnly : memWf State.reset = true ∧ (0 < 1 ∨ 1 + 4 ≤ 0) := by decide +kernel
theorem witness_FlashProgramsAndErases : (0 : Nat) < 16 ∧ 16 + 4 ≤ (20 : Nat) := by decide

theorem witness_PageHeaderCommandsComplete :
    ([0x8, 0xC - 4, 0x18, 0x1C, 0x20, 0xF00, 0xF04, 0xF0C].all fun o => checkWrite (up [pgMCU 0]) mgmt (pgMCU 0 + o) = .ok) = true ∧
    pageOf (pgMCU 0) = some (.mcu, 0) ∧ PageKind.mcu ∉ [PageKind.tile, .dh, .isp] := by decide +kernel

/-- A plain word of a page; an offset of the CMT page and one beyond the window. -/
theorem witness_RegisterWritesComplete :
    checkWrite (up [pgMEMQ]) mgmt (pgMEMQ + 0x104) = .ok ∧ inRteWindow (pgMEMQ + 0x104) = false ∧
    pgMEMQ + 0x104 - (pgMEMQ + 0x104) % 0x1000 ≠ pgCMT ∧ pgMEMQ + 0x104 < 0x1000000 := by decide +kernel

theorem witness_EventAndLogCommandsComplete :
    evNext { up [pgEVL] with evl := { live.evl with pend := [(0x20, [mkEvent live 0x20000 0x1301 0 0 0])] } } = some 0x20 ∧
    ([pgEVL + 0x11C, pgEVL + 0x12C, pgEVL + 0x134].all fun a => checkWrite (up [pgEVL]) mgmt a = .ok) = true ∧
    checkWrite (upX pgERR) mgmt (pgERR + 0x140) = .ok ∧ checkWrite (up [pgERR]) mgmt (pgERR + 0x144) = .ok ∧
    (0x4FFF : Nat) / 0x1000 ≤ 4 ∧ (0x4FFF#32).toNat % 0x10000 < 0x5000 ∧ bitOf (1#32).toNat 0 = true ∧ bitOf (0#32).toNat 0 = false := by
  decide +kernel

theorem witness_LongOperationCommandsComplete :
    checkWrite (up [pgMCU 7]) mgmt (pgMCU 7 + 0x40) = .ok ∧ 5 ≤ (5#32).toNat % 16 ∧ (0#32).toNat % 16 = 0 ∧ (255 : Nat) < 256 := by
  decide +kernel

/-- Each reset source, the release of the pins' resets, and a running watchdog. -/
theorem witness_ResetInputsComplete :
    (live.powered = true ∧ 10 ≤ (10 : Nat)) ∧
    (checkWrite (up [pgCHIP]) mgmt (pgCHIP + 0x130) = .ok ∧ checkWrite (up [pgCHIP]) mgmt (pgCHIP + 0x138) = .ok) ∧
    ((0x1C0DE#32).toNat % 0x10000 = 0xC0DE ∧ getBits (0x1C0DE#32).toNat 16 2 = 1) ∧
    ((0x2C0DE#32).toNat % 0x10000 = 0xC0DE ∧ getBits (0x2C0DE#32).toNat 16 2 = 2) ∧
    (let s := (live.wr pgCHIP F.CHIP_WDOG_CTRL_PERIOD 5)
     let s := { s with chip := { s.chip with wdogOn := true } }
     s.chip.inReset = false ∧ s.chip.wdogOn = true ∧ s.rd pgCHIP F.CHIP_WDOG_CTRL_PERIOD ≠ 0) ∧
    (let s := { State.reset with chip := { State.reset.chip with pwrOk := true, perstN := true, sources := [1] } }
     s.chip.inReset = true ∧ s.powered = true ∧ s.chip.testEn = false ∧ s.pwr.tripped = false ∧ s.chip.sources ≠ [] ∧ 5 ∉ s.chip.sources) ∧
    (let s := { State.reset with chip := { State.reset.chip with pwrOk := true, perstN := true, sources := [5] } }
     s.chip.sources ≠ [] ∧ s.chip.perstN = true) := by decide +kernel

/-- A boot in the stage each task belongs to; tiles in each state of their load. -/
theorem witness_BootCommandsComplete :
    let boot (k : Nat) : State := { live.wr pgCHIP F.CHIP_BOOT_STATUS_STAGE k with chip := { live.chip with booting := true } }
    let load (x : SeqLoad) : State := { live with chip := { live.chip with seqLoad := [(808, x)] } }
    let fg (s : State) := fget (fun _ => SeqLoad.unsent) s.chip.seqLoad 808
    ((boot 5).chip.booting = true ∧ (boot 5).rd pgCHIP F.CHIP_BOOT_STATUS_STAGE = 5 ∧ tasksSet (boot 5) [1] = false) ∧
    (boot 4).rd pgCHIP F.CHIP_BOOT_STATUS_STAGE = 4 ∧
    (fg (load (.waiting 1)) = .waiting 1 ∧ (7#32).toNat ≠ (load (.waiting 1)).rd pgCHIP F.CHIP_SEQ_CRC_CRC) ∧
    fg (load .acked) = .acked ∧
    (fg (load (.waiting 2)) = .waiting 2 ∧ (0#32).toNat = (load (.waiting 2)).rd pgCHIP F.CHIP_SEQ_CRC_CRC) ∧
    (boot 8).rd pgCHIP F.CHIP_BOOT_STATUS_STAGE = 8 ∧
    (checkWrite (up [pgCHIP]) mgmt (pgCHIP + 0x40) = .ok ∧ checkWrite (up [pgMGC]) mgmt (pgMGC + 0x124) = .ok) ∧
    lopRuns (lopOn pgCHIP 1 1 (up [])) pgCHIP 1 = true ∧
    ((up []).done = true ∧ (up []).ladder ≤ 1) ∧
    live.flag pgMGC F.MGC_ETH_STATUS_LINK ≠ true := by decide +kernel

/-- A chip whose PCIe link is up at 16 GT/s, with VF 5 bound. -/
def linked : State :=
  (((up [pgHIF, pgHQ 0]).wr pgHIF F.HIF_LINK_STATUS_DL_ACTIVE 1).wr pgHIF F.HIF_LINK_STATUS_SPEED 1).wr (pgFN 6) F.FN_FN_ID_BOUND 1

/-- The link down and up, at its lowest speed and above; a vector in its moderation time, with and without a coalesced message; a
function in FLR with no command left. -/
theorem witness_PcieCommandsComplete :
    (live.powered = true ∧ live.chip.inReset = false ∧ live.rd pgCHIP F.CHIP_RESET_CFG_PERST_ACTION ≠ 1) ∧
    ((live.wr pgCHIP F.CHIP_RESET_CFG_PERST_ACTION 1).rd pgCHIP F.CHIP_RESET_CFG_PERST_ACTION = 1) ∧
    (linkUp live = false ∧ live.chip.perstN = true ∧ live.chip.refPcie = true) ∧
    (let s := linked.wr pgHIF F.HIF_LINK_STATUS_SPEED 0
     linkUp s = true ∧ s.rd pgHIF F.HIF_LINK_STATUS_SPEED = 0) ∧
    (linked.chip.perstN = true ∧ linkUp linked = true ∧ linked.chip.inReset = false ∧ barsServed linked = true) ∧
    ([true, false].all fun c =>
      let s := { live with msi := { live.msi with busy := [6 * 256 + 20], coal := if c then [6 * 256 + 20] else [] } }
      s.msi.busy.contains (6 * 256 + 20) && s.msi.coal.contains (6 * 256 + 20) == c) = true ∧
    (6 ≠ 0 ∧ live.host.flr.contains 6 = false) ∧
    (let s := { live with host := { live.host with flr := [6] } }
     s.host.flr.contains 6 = true ∧ ((queuesOf s 6).all fun q => (s.hq q).cmds.isEmpty) = true) ∧
    checkWrite linked mgmt (pgHIF + 0x118) = .ok := by decide +kernel

/-- A slot that is valid and one that is not; an unbound function. -/
theorem witness_HostApertureCommandsComplete :
    let s := linked.wr (pgFN 6) F.FN_AP_LO_VALID 1
    (0 < 4 ∧ 0x1000 % 4096 + 4 ≤ 4096) ∧
    (linkUp s = true ∧ barsServed s = true ∧ fnBound s 6 = true ∧ s.host.flr.contains 6 = false) ∧
    apAddress s 6 0x1000 = some (0x1000, false) ∧ apAddress s 6 (3 * 2 ^ 28) = none ∧ apAddress s 6 (4 * 2 ^ 28) = none ∧
    (0x1000 % 4 = 0 ∧ 4 % 4 = 0 ∧ [0#8, 0, 0, 0].length = 4) ∧
    fnBound s 7 = false := by decide +kernel

/-- Queue 10 of VF 5 in RUN with one slot claimed and read; a command word of each kind, valid and stale. -/
def queueRun : State :=
  (hqWr 10 F.HQ_QSTATUS_CLAIMED 1 (hqWr 10 F.HQ_QCFG_FUNC 6 (hqWr 10 F.HQ_QCFG_STATE 1 linked))).modHq 10 fun x =>
    { x with ringing := true }

theorem witness_HostQueueCommandsComplete :
    checkWrite linked mgmt (hqPg 10 + 0x100 + 0x18 * (10 % 32) + 0x10) = .ok ∧
    (linked.chip.inReset = false ∧ linkUp linked = true ∧ barsServed linked = true ∧ fnBound linked 6 = true) ∧
    SlotToRead 10 queueRun ∧
    ([0, 1, 2, 3, 4].all fun op => hcOp ([BitVec.ofNat 32 (0x8000 + op)].map BitVec.toNat) = op) = true ∧
    ([0, 1, 2, 3, 4].all fun op =>
      getBits (hcW ([BitVec.ofNat 32 (0x8000 + op)].map BitVec.toNat) 0) 15 1 = lapParity queueRun 10 (queueRun.hq 10).read) = true ∧
    ¬SlotValid 10 [1#32] queueRun ∧ hcOp ([1#32].map BitVec.toNat) = 1 ∧
    (let s := queueRun.modHq 10 fun x => { x with fin := [{ num := 0, w := [], status := 0, detail := none }] }
     (s.hq 10).fin ≠ [] ∧ hqRd s 10 F.HQ_QCFG_STATE = 1) ∧
    (let s := hqWr 10 F.HQ_QSTATUS_COMPLETED 2 queueRun
     hqFn s 10 = 6 ∧ ((2#32).toNat % 65536 + 65536 - (s.hq 10).consumed) % 65536 ≤
       (hqRd s 10 F.HQ_QSTATUS_COMPLETED + 65536 - (s.hq 10).consumed) % 65536) ∧
    (let c : HostCmd := { num := 0, w := [], started := true, pos := 0, hreads := [64], fly := 1, parts := [], wpos := 0, wfly := 0, bad := none }
     let s := queueRun.modHq 10 fun x => { x with cmds := [c] }
     ((s.hq 10).cmds.find? fun c => c.num = 0 && c.hreads.contains 64) = some c) := by
  unfold SlotToRead SlotValid
  decide +kernel

theorem witness_HostStreamCommandsComplete :
    let s := (stWr 2 F.HIF_ST_CTRL_FLUSH_MS 1 (stWr 2 F.HIF_ST_CTRL_EN 1 linked))
    (stRd s 2 F.HIF_ST_CTRL_FLUSH_MS ≠ 0 ∧ streamOn s 2 = true) ∧
    ((4 + [0#8, 0, 0, 0].length) % 8 = 0 ∧ [0#8, 0, 0, 0].length ≤ 4060) ∧
    ([0, 1, 2].all fun k => checkWrite s mgmt (pgHIF + 0x148 + 0x20 * k) = .ok && checkWrite s mgmt (pgHIF + 0x14C + 0x20 * k) = .ok) = true := by
  decide +kernel

/-- The pages that take the operations, and each operation running. -/
theorem witness_FlashAndBootCommandsComplete :
    (checkWrite (up [pgFLASH]) mgmt (pgFLASH + 0x40) = .ok ∧ checkWrite (up [pgFLASH]) mgmt (pgFLASH + 0x110) = .ok ∧
      checkWrite (up [pgBOOT]) mgmt (pgBOOT + 0x40) = .ok ∧ checkWrite (up [pgLIC]) mgmt (pgLIC + 0x40) = .ok) ∧
    (bitOf (1#32).toNat 0 = true ∧ lopRuns (lopOn pgFLASH 1 1 live) pgFLASH 1 = true ∧ lopRuns (lopOn pgFLASH 2 1 live) pgFLASH 2 = true) ∧
    ([0, 1, 2].all fun k => (lopOn (qspiPage k) 1 1 live).lopHolds (qspiPage k)) = true ∧
    (lopRuns (lopOn pgBOOT 1 1 live) pgBOOT 1 = true ∧ lopRuns (lopOn pgLIC 1 1 live) pgLIC 1 = true) ∧
    (let r : BootRec := { seq := 0, active := 0, st := 0, trials := 0, previous := 0, activeVersion := 0, previousVersion := 0 }
     ([2, 3].all fun op =>
       let s := { lopOn pgBOOT op 1 live with bootOps := { live.bootOps with newRec := some r } }
       s.bootOps.newRec.isSome && lopRuns s pgBOOT op) = true) := by decide +kernel

theorem witness_SmbusAndJtagComplete :
    ({ live with chip := { live.chip with resetN := false } } : State).chip.resetN = false ∧ live.chip.resetN = true := by decide

/-- A fabric header of a chip, by term and sequence number. -/
def hdr (src term seq : Nat) : FabHdr := { src := src, term := term, seq := seq, key := 9, group := false }

/-- The fabric manager runs under term 3 with conductor 64. -/
def manager : State :=
  (((up [pgFAB]).wr pgFAB F.FAB_TERM_TERM 3).wr pgFAB F.FAB_CONDUCTOR_CHIP 64).wr pgFAB F.FAB_CONDUCTOR_VALID 1

theorem witness_FabricMembershipCommandsComplete :
    fabOn manager = true ∧
    (floodNew manager (hdr 70 4 0) = true ∧ termNewer (hdr 70 4 0).term manager.term = true) ∧
    (let s := ((manager.wr pgFAB F.FAB_ROLE_ELECTING 1).wr pgFAB F.FAB_CFG_ELIGIBLE 1)
     let s := { s with fab := { s.fab with best := ownKey s + 1 } }
     s.flag pgFAB F.FAB_ROLE_ELECTING = true ∧ s.flag pgFAB F.FAB_CFG_ELIGIBLE = true ∧ s.fab.best = ownKey s + 1) ∧
    (Current (hdr 64 3 0) manager ∧ floodNew manager (hdr 64 3 0) = true ∧ (hdr 64 3 0).group = false) ∧
    (let s := manager.wr pgFAB F.FAB_ROLE_CONDUCTOR 1
     s.isConductor = true ∧ (fabBeat s).flag pgFAB F.FAB_ROLE_SECTION_LEADER = false ∧ Current (hdr 70 3 0) s) ∧
    (let s := manager.wr pgFAB F.FAB_ROLE_SECTION_LEADER 1
     s.isConductor = false ∧ s.flag pgFAB F.FAB_ROLE_SECTION_LEADER = true) ∧
    (let s := (manager.wr pgFAB F.FAB_ROLE_MEMBER 1).wr pgFAB F.FAB_ROLE_DEPUTY 1
     isMember s = true ∧ s.flag pgFAB F.FAB_ROLE_DEPUTY = true ∧ Current (hdr 64 3 0) s ∧ conductorOf s = some (hdr 64 3 0).src) ∧
    (let s := setSection (some 70) (manager.wr pgFAB F.FAB_ROLE_MEMBER 1)
     sectionLeader s = some 70 ∧ conductorOf s = some 64 ∧ s.flag pgFAB F.FAB_ROLE_MEMBER = true ∧ 70 ≠ s.chipNum) := by
  unfold Current
  decide +kernel

theorem witness_FabricRequestCommandsComplete :
    (let s := manager.wr pgCHIP F.CHIP_RESET_CFG_REMOTE_EN 1
     conductorOf s = some 64 ∧ s.flag pgCHIP F.CHIP_RESET_CFG_REMOTE_EN = true) ∧
    (fabOn manager = true ∧ Current (hdr 64 3 0) manager ∧ conductorOf manager = some (hdr 64 3 0).src) ∧
    (bitOf (1#32).toNat 0 = true ∧ bitOf (0#32).toNat 0 = false) ∧
    (checkWrite (up [pgPWR]) mgmt (pgPWR + 0x120) = .ok ∧ checkWrite manager mgmt (pgFAB + 0x128) = .ok ∧
      checkWrite manager mgmt (pgFAB + 0x160) = .ok) ∧
    (manager.wr pgFAB F.FAB_MBX_STATUS_STATE 1).rd pgFAB F.FAB_MBX_STATUS_STATE = 1 ∧
    (let q : FabReq := { chip := 64, code := 2, tag := 1, args := [0, 16, 0, 0], dissolve := [],
                         block := leBytes 4 0x43484731 ++ List.replicate 8 0 ++ [1, 0, 0, 0] }
     let r : FabRun := { req := q, step := 4, phase := 2, waits := [70], got := [], zports := [] }
     let s := { manager with fab := { manager.fab with run := some r, mbx := some q } }
     s.fab.run = some r ∧ r.step = 4 ∧ r.phase = 2 ∧ 2 ≤ r.step ∧ (changeOf r.req).limit ≠ 0 ∧ r.waits.contains 70 = true ∧
       s.fab.mbx = some q) ∧
    (let p : Plan := { id := 1, seq := 1, groups := [0], chips := [], excs := [] }
     let s := ((manager.wr pgFAB F.FAB_ROLE_CONDUCTOR 1).wr pgFAB F.FAB_SW_NET_NET 1).wr pgFAB F.FAB_MGMT_IP_ADDR 1
     let s := { s.wr pgFAB F.FAB_SW_TIMING_RECIRCUIT_S 1 with plan := some p, fab := { s.fab with recompute := true } }
     s.plan = some p ∧ s.isConductor = true ∧ s.rd pgFAB F.FAB_SW_TIMING_RECIRCUIT_S ≠ 0 ∧ swReady s = true ∧
       s.fab.recompute = true ∧ s.fab.run = none) := by
  unfold Current
  decide +kernel

theorem witness_PowerLadderCommandsComplete :
    checkWrite (up [pgPWR]) mgmt (pgPWR + 0x100) = .ok ∧
    (let s := { live with pwr := { live.pwr with entering := some 2, draining := true } }
     s.pwr.entering = some 2 ∧ s.pwr.draining = true ∧ drained s = true ∧ (suspendedPages s 2 2).isEmpty = true) ∧
    (let s := { live with pwr := { live.pwr with entering := some 2, exiting := some 1, restEnding := true } }
     s.pwr.entering = some 2 ∧ 2 ≤ 2 ∧ s.pwr.draining = false ∧ s.pwr.exiting.isSome = true ∧ s.pwr.restEnding = true) ∧
    atOrAfter 64 live.met (live.rd64 pgPWR F.PWR_WAKE_MET_LO_MET F.PWR_WAKE_MET_HI_MET) = true ∧
    (live.wr pgPWR F.PWR_REDESCEND_US 10).rd pgPWR F.PWR_REDESCEND_US ≠ 0 ∧
    (let s := live.wr pgPWR F.PWR_REST_PENDING 1
     s.flag pgPWR F.PWR_REST_PENDING = true ∧ s.pwr.restWithdrawn = false) := by decide +kernel

theorem witness_OperatingPointAndSensorCommandsComplete :
    (let s (k : Nat) : State := { live with pwr := { live.pwr with oppTarget := some 3, naks := k } }
     (s 1).pwr.oppTarget = some 3 ∧ (s 1).pwr.naks < 2 ∧ 2 ≤ (s 2).pwr.naks) ∧
    (checkWrite (up [pgPVT]) mgmt (pgPVT + 0x11C) = .ok ∧ checkWrite (up [pgPACE]) mgmt (pgPACE + 0x114) = .ok) ∧
    bitOf (1#32).toNat 0 = true ∧
    ((up [pgPACE]).ladder < 2 ∧ (up [pgPACE]).flag pgPACE F.HDR_PAGE_CTRL_ENABLE = true ∧ live.chip.inReset = false) := by decide +kernel

/-- Tile 5 running, with a row of words read and the head at its first command. -/
def seqAt (w : List Nat) : State :=
  ((up [pgTILE 5]).wr (pgTILE 5) F.TILE_SEQ_STATUS_STATE stRUNNING).modTile 5 fun x => { x with fetched := some (0, w) }

theorem witness_TileControlCommandsComplete :
    ((bitOf (1#32).toNat 0 = true ∧ bitOf (1#32).toNat 1 = false) ∧ (bitOf (2#32).toNat 0 = false ∧ bitOf (2#32).toNat 1 = true)) ∧
    ([0x100, 0x134, 0x130].all fun o => checkWrite (up [pgTILE 2559]) mgmt (pgTILE 2559 + o) = .ok) = true ∧
    checkWrite (upX (pgTILE 0)) mgmt (pgTILE 0 + 0x414) = .ok ∧ bitOf (0x80000000#32).toNat 31 = true ∧
    ([0, 7].all fun c => checkWrite (up [pgTILE 5]) mgmt (pgTILE 5 + fldOff F.TILE_C_VALUE c 0) = .ok) = true ∧
    ([0x180, 0x1FC, 0x160, 0x16C, 0x128, 0x12C].all fun o =>
      checkWrite (up [pgTILE 5]) mgmt (pgTILE 5 + o) = .ok && stoppedState ((up [pgTILE 5]).seqState 5)) = true ∧
    (let s := (up [pgTILE 5]).wr (pgTILE 5) F.TILE_SEQ_STATUS_STATE stRUNNING
     s.issuing 5 = true ∧ headWords 5 s = none) ∧
    ([stENDING, stQUIESCING, stDRAINING].all fun k =>
      let s := live.wr (pgTILE 5) F.TILE_SEQ_STATUS_STATE k
      queuesEmpty (s.tile 5) && s.seqState 5 == k) = true ∧
    (let s := ((seqAt [0x100, 5, 0, 0, 0, 0, 0, 0]).wr (pgTILE 5) F.TILE_SEQ_STATUS_BLOCK 1).wr (pgTILE 5) F.TILE_WAIT_LIMIT_US 1000
     s.issuing 5 = true ∧ s.rd (pgTILE 5) F.TILE_SEQ_STATUS_BLOCK = 1 ∧ s.rd (pgTILE 5) F.TILE_WAIT_LIMIT_US ≠ 0 ∧
       headWords 5 s = some [0x100, 5, 0, 0, 0, 0, 0, 0] ∧ (s.tile 5).waitMet = false ∧
       waitDone 5 [0x100, 5, 0, 0, 0, 0, 0, 0] s = false ∧
       ((s.modTile 5 fun x => { x with waitMet := true }).tile 5).waitMet = true) := by decide +kernel

/-- A command ready at the head of tile 5. -/
def isReady (w : List Nat) (s : State) : Bool :=
  s.issuing 5 && headWords 5 s == some w && commandBad 5 w s == none && waitDone 5 w s

/-- Each flow command, LOOP with its counter at 2 and at 0, BRS with its condition true and false, and both forms of WAIT_MET. -/
theorem witness_ScoreFlowCommandsComplete :
    ([[0, 0, 0, 0, 0, 0, 0, 0], [1, 0, 0, 0, 0, 0, 0, 0], [2, 0, 0, 0, 0, 0, 0, 0], [3, 0, 0, 0, 0, 0, 0, 0], [4, 0, 0, 0, 0, 0, 0, 0],
      [4, 0, 0, 0x100, 0, 0, 0, 0], [5, 0, 0, 0, 0, 0, 0, 0], [6, 0, 0, 0, 0, 0, 0, 0], [6, 0, 0, 0x10, 0, 0, 0, 0]].all fun w =>
      isReady w (seqAt w)) = true ∧
    (let w := [3, 0, 0, 0, 0, 0, 0, 0]
     let s := (seqAt w).wr (pgTILE 5) F.TILE_LC_VALUE 2 0
     isReady w s = true ∧ 1 < s.lc 5 (wf w 3 16 2) ∧ (seqAt w).lc 5 (wf w 3 16 2) ≤ 1) ∧
    (let w := [4, 0, 0, 0, 0, 0, 0, 0]
     brsCond (wf w 3 8 3) ((seqAt w).sreg 5 (wf w 3 0 4)) ((seqAt w).sreg 5 (wf w 3 4 4)) = true) ∧
    (let w := [4, 0, 0, 0x100, 0, 0, 0, 0]
     brsCond (wf w 3 8 3) ((seqAt w).sreg 5 (wf w 3 0 4)) ((seqAt w).sreg 5 (wf w 3 4 4)) = false) ∧
    (let w := [6, 0, 0, 0x10, 0, 0, 0, 0]
     bitOf (w.getD 3 0) 4 = true ∧ atOrAfter 64 (seqAt w).met (((seqAt w).sreg 5 (wf w 3 0 4) + imm64 w) % 2 ^ 64) = true ∧
       atOrAfter 64 (seqAt w).met (imm64 w) = true) := by decide +kernel

/-- Both forms of CSET and LSET, the others, and every source of SGET. -/
theorem witness_ScoreScalarCommandsComplete :
    ([[0x10, 0, 0, 0, 7, 0, 0, 0], [0x10, 0, 0, 8, 7, 0, 0, 0], [0x11, 0, 0, 0, 1, 0, 0, 0], [0x20, 0, 0, 0, 0, 0, 0, 0],
      [0x21, 0, 0, 0, 1, 0, 0, 0], [0x22, 0, 0, 0, 0, 0, 0, 0], [0x23, 0, 0, 0, 0, 0, 0, 0], [0x23, 0, 0, 0x10, 0, 0, 0, 0],
      [0x23, 0, 0, 0x20, 0, 0, 0, 0], [0x23, 0, 0, 0x30, 0, 0, 0, 0], [0x23, 0, 0, 0x40, 0, 0, 0, 0], [0x30, 0, 0, 0, 7, 0, 0, 0],
      [0x30, 0, 0, 8, 7, 0, 0, 0]].all fun w => isReady w (seqAt w)) = true ∧
    (bitOf 0 3 = false ∧ bitOf 8 3 = true) := by decide +kernel

/-- Each engine's commands, its queue with room, and a finished command of each engine. -/
theorem witness_ScoreEngineCommandsComplete :
    ([[0x40, 0, 0, 0, 0, 4, 0, 0], [0x41, 0, 0, 0, 0, 4, 0, 0], [0x44, 0, 0, 0, 0, 0, 0, 0], [0x48, 0, 0, 0, 0, 0, 0, 0],
      [0x80, 0, 0, 0x11000000, 0, 0, 0, 0], [0x81, 0, 0, 0x01000000, 0, 0, 0, 0], [0x82, 0, 0, 0x11000000, 0, 0, 0, 0],
      [0x84, 0, 0, 0x11000000, 0, 0, 0, 0], [0x85, 0, 0, 0x01000000, 0x100, 0, 0, 0], [0x86, 0, 0, 0x11000000, 0, 0x100, 0, 0],
      [0x62, 0, 0, 0, 0, 0x1000, 0, 0], [0x60, 0, 0, 0, 0, 0x1001, 0, 0]].all fun w =>
      isReady w (seqAt w) && ([engDMA, engMXU, engVXU].all fun e => decide (((seqAt w).tile 5).queue e = [] ∧ 0 < queueLimit (seqAt w) 5 e))) =
        true ∧
    ([0, 0x100000].all fun f =>
      let w := [0x61, 0, 0, f, 0, 0x1001, 0, 0]
      let s := (seqAt w).modTile 5 fun x => { x with wrec := [some (1, 1), none], arec := [accType 1, 0] }
      isReady w s && bitOf (w.getD 3 0) 20 == (f ≠ 0 : Bool)) = true ∧
    (let j (w : List Nat) : Job := { jid := 0, cp := 0, w := w, desc := none, base := 0, b := 0, c := 0, tc := 0, pay := 0, maxPkts := 0,
                                     maxReads := 0, row := 0, off := 0, allSent := true, inflight := 0, fault := none, got := [] }
     let jd := j [0x44, 0, 0, 0, 0, 0, 0, 0]
     let s := live.modTile 5 fun x => x.setQueue engDMA [jd]
     (s.tile 5).queue engDMA = jd :: [] ∧ jd.allSent = true ∧ jd.inflight = 0 ∧ jd.fault = none ∧
       (runMxu 5 (j [0x60, 0, 0, 0, 0, 0x1001, 0, 0]).w live).1 = none ∧
       (runVxu 5 (j [0x81, 0, 0, 0x01000000, 0, 0, 0, 0]).w live).1 = none) := by decide +kernel

/-- Requests of this chip's tiles and of its host interface, a counter signal, a response, a packet for another chip, and requests
in flight, quarantined and not. -/
theorem witness_RinkCommandsComplete :
    let csig : Packet := { pkt 0 opCSIG [1, 0, 0, 0] with words := 1, offset := 0x40000000000 }
    let host : Packet := { pkt 0 opREAD [] with words := 1, tag := 0xA46 * 256 }
    let rsp := errResp csig stBAD_TILE
    let s : State := { up [pgTILE 0] with rink := [csig, host, rsp, pkt 70 opREAD []] }
    (s.rink[0]? = some csig ∧ csig.dst = s.chipNum ∧ isRequest csig = true ∧ fromHost csig = false ∧ waitsOnRink s csig = false ∧
      csig.op = opCSIG) ∧
    (s.rink[1]? = some host ∧ host.dst = s.chipNum ∧ isRequest host = true ∧ fromHost host = true) ∧
    (s.rink[2]? = some rsp ∧ rsp.dst = s.chipNum ∧ isResponse rsp = true) ∧
    (s.rink[3]? = some (pkt 70 opREAD []) ∧ (pkt 70 opREAD []).dst ≠ s.chipNum) ∧
    ([false, true].all fun q =>
      let x : Track := { ep := 5, ctx := 0, dst := 70, offset := 0, op := 1, req := mgmt, use := 0, arg := 0, arg2 := 0, quar := q }
      trackOf { live with outst := [x] } (5 * 256) == some x) = true := by decide +kernel

/-- The long operations running, RETRAIN with its pause due, patrol in the middle of and at the end of a pass, a lane to repair. -/
theorem witness_MemoryControllerCommandsComplete :
    live.ladder < 2 ∧
    (let s := ((up [pgMCU 3]).wr (pgMCU 3) F.MCU_MCU_CFG_AUTO_REPAIR 1).modMcu 3 fun x => { x with failing := [(4, 5)] }
     (s.mcu 3).failing = (4, 5) :: [] ∧ s.flag (pgMCU 3) F.MCU_MCU_CFG_AUTO_REPAIR = true ∧ s.lopActive (pgMCU 3) = false ∧
       s.running (pgMCU 3) = true) ∧
    (let s := (live.wr (pgMCU 3) F.MCU_PATROL_EN 1)
     s.flag (pgMCU 3) F.MCU_PATROL_EN = true ∧ s.rd (pgMCU 3) F.MCU_PATROL_PROG_UNIT ≠ 65535 ∧
       (s.wr (pgMCU 3) F.MCU_PATROL_PROG_UNIT 65535).rd (pgMCU 3) F.MCU_PATROL_PROG_UNIT = 65535) ∧
    pcOnline (setOnline 3 1 live) 3 0 = true ∧
    ([1, 2, 3].all fun op => lopRuns (lopOn (pgMCU 3) op 1 live) (pgMCU 3) op) = true ∧
    ([lopRUNNING, lopCANCELLING].all fun st =>
      let s := (lopOn (pgMCU 3) 3 st live).modMcu 3 fun x => { x with vbWait := true }
      lopRuns s (pgMCU 3) 3 && (s.mcu 3).vbWait && s.lop (pgMCU 3) == st &&
        (scanningHeads s (s.lopArg (pgMCU 3) 2 % 16)).all fun h => s.flag (pgDH h) F.DH_STATUS_IN_VBLANK) = true ∧
    (let s := (lopOn (pgMCU 3) 3 1 live).wr (pgMCU 3) F.MCU_STATUS_PAUSED 1
     lopRuns s (pgMCU 3) 3 = true ∧ (s.mcu 3).vbWait = false ∧ s.flag (pgMCU 3) F.MCU_STATUS_PAUSED = true) ∧
    (checkWrite (up [pgMCU 7]) mgmt (pgMCU 7 + 0x40) = .ok ∧ checkWrite (up [pgMCU 7]) mgmt (pgMCU 7 + 0x124) = .ok ∧
      checkWrite (upX (pgMCU 7)) mgmt (pgMCU 7 + 0x418) = .ok) ∧
    (bitOf (2#32).toNat 1 = true ∧ bitOf (1#32).toNat 1 = false ∧ bitOf (1#32).toNat 0 = true ∧ bitOf (0#32).toNat 0 = false) := by
  decide +kernel

theorem witness_MemoryQualityCommandsComplete :
    ([0x108, 0x10C, 0x100].all fun o => checkWrite (up [pgMEMQ]) mgmt (pgMEMQ + o) = .ok) = true ∧
    (live.wr pgMEMQ F.MEMQ_HOST_AGE_US 20).rd pgMEMQ F.MEMQ_HOST_AGE_US ≠ 0 := by decide +kernel

/-- A port in a state (Table 13.3), with its link's page in service. -/
def portIn (g st : Nat) : State := (up [pgLX (g / 4)]).wr (pgLX (g / 4)) F.LX_PSTATUS_STATE st 0 (g % 4)

theorem witness_LinkPortCommandsComplete :
    ([0x100, 0x140, 0x200, 0x40].all fun o => checkWrite (up [pgLX 5]) mgmt (pgLX 5 + o) = .ok) = true ∧
    (let s := live.wr (pgLX 0) F.LX_CFG_STATUS_SPLIT_PENDING 1
     s.flag (pgLX 0) F.LX_CFG_STATUS_SPLIT_PENDING = true ∧ portsDown s 0 = true) ∧
    (portState (portIn 19 1) 19 = 1 ∧ (portIn 19 1).chip.refLnk = true) ∧
    (let p := { pkt 0x1FFF 0x30 (List.replicate 48 0) with words := 12 }
     p.op = 0x30 ∧ p.data.length = 48 ∧ portState (portIn 19 2) 19 = 2 ∧ ((portIn 19 2).port 19).gotAck = false) ∧
    (portState (portIn 0 2) 0 = 2 ∧ (0x400000#32).toNat = payloadAt (identPacket (portIn 0 2) 0).data 0 4) ∧
    (let s := (portIn 19 3).modPort 19 fun p => { p with nak := true }
     let lo := s.wr (pgLX 4) F.LX_REPLAY_MAX 0 0 3
     let hi := s.wr (pgLX 4) F.LX_REPLAY_MAX 1 0 3
     (hi.port 19).nakTries < hi.rd (pgLX (19 / 4)) F.LX_REPLAY_MAX 0 (19 % 4) ∧
       lo.rd (pgLX (19 / 4)) F.LX_REPLAY_MAX 0 (19 % 4) ≤ (lo.port 19).nakTries) ∧
    (let s := (portIn 19 6).wr (pgLX 4) F.LX_PCTRL_EN 1 0 3
     s.flag (pgLX (19 / 4)) F.LX_PCTRL_EN 0 (19 % 4) = true ∧ portState s 19 = 6) ∧
    (portState (portIn 19 5) 19 = 5 ∧ (portIn 19 5).ladder ≤ 2) ∧
    (((portIn 19 3).modPort 19 fun p => { p with settling := true }).port 19).settling = true := by decide +kernel

theorem witness_LinkLaneCommandsComplete :
    (let s := ((portIn 0 3).wr (pgLX 0) F.LX_LANE_FAILING 1 7).wr (pgLX 0) F.LX_CFG_AUTO_LANE_RETRAIN 1
     let s := (s.wr (pgLX 0) F.LX_LANE_BAD 0 7).wr (pgLX 0) F.LX_LANE_RX_USE 0 7
     ((List.range 32).find? fun k => s.flag (pgLX 0) F.LX_LANE_FAILING k && !s.flag (pgLX 0) F.LX_LANE_BAD k &&
          !s.flag (pgLX 0) F.LX_LANE_RX_USE k && portState s (portOfLane s 0 k) = 3) = some 7 ∧
       s.flag (pgLX 0) F.LX_CFG_AUTO_LANE_RETRAIN = true ∧ s.lopActive (pgLX 0) = false ∧ s.running (pgLX 0) = true ∧
       s.avail (pgLX 0) = true) ∧
    (let s := { lopOn (pgLX 0) 1 1 live with lopArgs := [(pgLX 0, [0, 3, 128, 0])] }
     lopRuns s (pgLX 0) 1 = true ∧ s.lopArg (pgLX 0) 1 % 4 = 3 ∧ bitOf (s.lopArg (pgLX 0) 2) 7 = true) ∧
    lopRuns (lopOn (pgLX 0) 2 1 live) (pgLX 0) 2 = true ∧
    ([0x40, 0x108, 0x170, 0x230].all fun o => checkWrite (up [pgLX 0]) mgmt (pgLX 0 + o) = .ok) = true ∧
    (bitOf (1#32).toNat 0 = true ∧ bitOf (0#32).toNat 0 = false) := by decide +kernel

theorem witness_CodewordCommandsComplete :
    let cw (k : Nat) : Codeword := { ok := true, sym := [], num := true, kind := k, arg := 0, aux := 0,
                                     slots := List.replicate 10 (List.replicate 64 0) }
    let s := portIn 19 3
    (portUp s 19 = true ∧ (cw 0).ok = true ∧ (cw 0).sym = [] ∧ (s.port 19).nak = false) ∧
    (let t := s.modPort 19 fun p => { p with nak := true }
     portUp t 19 = true ∧ (t.port 19).nak = true ∧ (cw 4).kind = 4) ∧
    ({ cw 0 with ok := false } : Codeword).ok = false ∧
    (let t := s.modPort 19 fun p => { p with rxDue := 1 }
     portUp t 19 = true ∧ 0 < (t.port 19).rxDue) ∧
    portState (portIn 19 4) 19 = 4 := by decide +kernel

theorem witness_RoutingCommandsComplete :
    let p := pkt 70 opREAD []
    let s := (portIn 19 3).modPort 19 fun x => { x with rxq := [p] }
    let t := ((up [pgTSP 4]).wr (pgTSP 4) F.TSP_POL_MATCH_EN 1 24).wr (pgTSP 4) F.TSP_POL_MATCH_TC_MASK 0xFF 24
    let t := (t.wr (pgTSP 4) F.TSP_POL_RATE_BURST 1 24).modPort 19 fun x => { x with rxq := [p] }
    let d (s : State) : State := s.modPort 19 fun x => { x with delayed := [(1, 0)] }
    (rxHead s 19 1 = some p ∧ ((s.port 19).delayed.any fun d => d.1 = 1) = false ∧ depth s < 2 ∧
      policerOf (tspAdvance 19 s) 19 p = none) ∧
    (rxHead t 19 1 = some p ∧ ((t.port 19).delayed.any fun d => d.1 = 1) = false ∧ policerOf (tspAdvance 19 t) 19 p = some 0) ∧
    (rxHead (d t) 19 1 = some p ∧ (((d t).port 19).delayed.find? fun d => d.1 = 1) = some (1, 0) ∧
      tspOn (tspAdvance 19 (d t)) 19 = true ∧ hasToken (tspAdvance 19 (d t)) 19 0 = true) ∧
    (rxHead (d s) 19 1 = some p ∧ tspOn (tspAdvance 19 (d s)) 19 = false) ∧
    portState s 19 = 3 ∧
    ([0x100, 0x178, 0x238].all fun o => checkWrite (up [pgTSP 0]) mgmt (pgTSP 0 + o) = .ok) = true ∧
    ([0x300, 0x31C, 0x108, 0x120, 0x19C, 0x1C0].all fun o => checkWrite (up [pgRTE]) mgmt (pgRTE + o) = .ok) = true ∧
    (inRteWindow 0x100000 = true ∧ inRteWindow 0x1FFFFC = true) := by decide +kernel

/-- Beacons from a source and beside it, the states of the Metronome, and an entry due. -/
theorem witness_MetronomeAndSnapshotCommandsComplete :
    let b := { pkt 0x1FFF 0x3B (List.replicate 40 0) with words := 10 }
    let s := (portIn 19 3).wr pgMET F.MET_STATUS_SRC_PORT 19
    (b.op = 0x3B ∧ b.data.length = 40 ∧ portUp s 19 = true ∧
      (metChoose (noteBeacon 19 b (s.wr pgMET F.MET_STATUS_STATE metROOT))).rd pgMET F.MET_STATUS_SRC_PORT = 19 ∧
      (metChoose (noteBeacon 19 b (portIn 19 3))).rd pgMET F.MET_STATUS_SRC_PORT ≠ 20) ∧
    (let r := ((portIn 19 3).wr pgMET F.MET_STATUS_STATE metROOT).wr pgFAB F.FAB_CFG_PRIORITY 255
     (metChoose (noteBeacon 19 b r)).rd pgMET F.MET_STATUS_SRC_PORT ≠ 19) ∧
    metFollows (live.wr pgMET F.MET_STATUS_STATE 2) = true ∧
    (let f := live.wr pgMET F.MET_CFG_ROOT_EN 1
     metFollows f = false ∧ bestSource f = none ∧ f.metState = metFREE ∧ f.flag pgMET F.MET_CFG_ROOT_EN = true) ∧
    (live.wr pgMET F.MET_STATUS_STATE metHOLDOVER).metState = metHOLDOVER ∧
    (served (up [pgMET]) mgmt pgMET = true ∧ (up [pgMET]).avail pgMET = true ∧ checkWrite (up [pgMET]) mgmt (pgMET + 0x130) = .ok) ∧
    ([0x114, 0x120, 0x14C].all fun o => checkWrite (up [pgSNP]) mgmt (pgSNP + o) = .ok) = true ∧
    snpEnabled (live.wr pgSNP F.SNP_SRC_EN_PIN 1) 3 = true ∧
    (let p := { pkt 0x1FFF 0x3C (List.replicate 16 0) with words := 4, src := 70 }
     p.op = 0x3C ∧ p.data.length = 16 ∧ (snpNewer p (payloadAt p.data 8 4) live).1 = true) ∧
    (let p := { pkt 0x1FFF 0x3D (List.replicate 8 0) with words := 2, src := 70 }
     p.op = 0x3D ∧ p.data.length = 8 ∧ (snpNewer p (payloadAt p.data 0 4) live).1 = true) ∧
    (let e : SnpEntry := { t := 0, sources := 1, origin := 0, oseq := 0 }
     let s := { live with snp := { live.snp with pend := [e] } }
     dueEntry s = some e ∧ s.snp.lastLatch = none ∧ s.met = e.t) ∧
    (bitOf (1#32).toNat 0 = true ∧ bitOf (0#32).toNat 0 = false) := by decide +kernel

/-- Head 0 in a state, with its active area 8 lines high. -/
def headIn (st : Nat) : State := ((up [pgDH 0]).wr (pgDH 0) F.DH_STATUS_STATE st).wr (pgDH 0 + inForce) F.DH_TIMING_V_ACTIVE 8

theorem witness_DisplayHeadCommandsComplete :
    let j : LineJob := { line := 3, units := 0, granted := true, reads := [], flying := 1, got := [], bad := [], late := false }
    let s := (headIn dhRUN).modHead 0 fun h => { h with jobs := [j] }
    (dhState (headIn dhSTARTING) 0 = dhSTARTING ∧ dhState (headIn dhRUN) 0 = dhRUN ∧ dhState (headIn dhSTOPPING) 0 = dhSTOPPING) ∧
    (scanning s 0 = true ∧ ((s.head 0).jobs.find? fun j => j.line == 3) = some j ∧ j.complete = false ∧ j.late = false) ∧
    (scanning s 0 = true ∧ 7 < activeV s 0 ∧ ((s.head 0).jobs.any fun j => j.line == 7) = false) ∧
    ([0x134, 0x174].all fun o => checkWrite (up [pgDH 3]) mgmt (pgDH 3 + o) = .ok) = true ∧ 100 ≤ (100 : Nat) ∧
    (let g := (((headIn dhRUN).wr (pgDH 0 + inForce) F.DH_GENLOCK_SOURCE 2).wr (pgDH 0 + inForce) F.DH_GL_PERIOD_PERIOD 64).wr
       (pgDH 0) F.DH_GL_STATUS_STATE glLOCKED
     scanning g 0 = true ∧ dhNow g 0 F.DH_GENLOCK_SOURCE = 2 ∧ glState g 0 ≠ 0 ∧ atMetInstant g 0 = true ∧ glState g 0 = glLOCKED) := by
  decide +kernel

theorem witness_DisplayPortCommandsComplete :
    let s (st : Nat) : State := (up [pgDPTX 0]).wr (pgDPTX 0) F.DPTX_LINK_STATUS_STATE st
    (dpSink (live.wr (pgDPTX 0) F.DPTX_HPD_SINK 1) 0 = true ∧ dpSink live 0 = false ∧
      (live.wr (pgDPTX 0) F.DPTX_HPD_LEVEL 1).flag (pgDPTX 0) F.DPTX_HPD_LEVEL = true ∧ dpSink (live.wr (pgDPTX 0) F.DPTX_HPD_LEVEL 1) 0 = false) ∧
    (let t (l : List (Nat × Nat)) : State := (s dpTRAINING).modHead 0 fun h => { h with cfgs := l }
     dpState (t [(6, 2), (5, 2)]) 0 = dpTRAINING ∧ ((t [(6, 2), (5, 2)]).head 0).cfgs = (6, 2) :: (5, 2) :: [] ∧
       ((t [(6, 2)]).head 0).cfgs.length ≤ 1 ∧ ((t [(6, 2)]).head 0).cfgs ≠ []) ∧
    (let f := (s dpFAILED).wr (pgDPTX 0) F.DPTX_HPD_SINK 1
     dpState f 0 = dpFAILED ∧ dpSink f 0 = true) ∧
    (dpState (s dpVALID) 0 = dpVALID ∧ checkWrite (s dpVALID) mgmt (pgDPTX 0 + 0x110) = .ok ∧ bitOf (1#32).toNat 0 = true) ∧
    ([0x114, 0x134].all fun o => checkWrite (up [pgDPTX 3]) mgmt (pgDPTX 3 + o) = .ok) = true ∧
    (let j : AuxJob := { req := 0, addr := 0, len := 1, tries := 1 }
     ((live.modHead 0 fun h => { h with aux := some j }).head 0).aux = some j) := by decide +kernel

/-- The owner of a head may GO on its block, the holder of a slot may write it, and the management domain everything; a commit in
its FETCH in each condition. -/
theorem witness_CommitAndFenceCommandsComplete :
    let s := up [pgCMT]
    let s := s.wr (pgDH 3) F.OWN_PAGE_OWNER_OWNER 5
    (s.done = true ∧ cmtMayWrite s 5 ((pgCMT + 0x168) % 0x1000) = true ∧ checkWrite s mgmt (pgCMT + 0x168) = .ok) ∧
    ([0x108, 0x180, 0x200, 0x2FC, 0x18C].all fun o =>
      cmtMayWrite s mgmt ((pgCMT + o) % 0x1000) && checkWrite s mgmt (pgCMT + o) = .ok) = true ∧
    (bitOf (2#32).toNat 1 = true ∧ bitOf (1#32).toNat 1 = false ∧ bitOf (1#32).toNat 0 = true ∧ bitOf (0#32).toNat 0 = false) ∧
    ([(0, false), (0, true), (1, false)].all fun x =>
      let c : Commit := { tag := 1, req := mgmt, addr := 0, got := [], flying := x.1, bad := false, cancel := x.2, entries := [],
                          granted := [], fences := [], ocsc := none, policy := 0, timeout := 0, misses := 0, line := 0 }
      let t := (cmtWr 0 F.CMT_STATUS_STATE 1 s).modHead 0 fun h => { h with commit := some c }
      (t.head 0).commit == some c && cmtRd t 0 F.CMT_STATUS_STATE == 1) = true ∧
    (fenceMay s mgmt 63 = true ∧ fenceMay s 5 63 = false) := by decide +kernel

theorem witness_ProtectionCommandsComplete :
    ([0x11C, 0x130, 0x114].all fun o => checkWrite (up [pgPROT 3]) mgmt (pgPROT 3 + o) = .ok) = true ∧
    ([0x104, 0x11C].all fun o => checkWrite (up [pgSIG 0]) mgmt (pgSIG 0 + o) = .ok) = true ∧
    (bitOf (1#32).toNat 0 = true ∧ bitOf (0#32).toNat 0 = false) ∧
    ([false, true].all fun b =>
      let l : ProtLoad := { src := 0, dst := 0, left := 0, flying := false, bad := b }
      ((live.modHead 0 fun h => { h with load := some l }).head 0).load == some l) = true ∧
    (let s := ((up [pgSIG 0]).modHead 0 fun h => { h with crc := [(2, 0)], whole := true }).wr (pgSIG 0 + inForce) F.SIG_RCTRL_EN 1
     ((s.head 0).crc.getD 0 (0, 0)).1 = 2 ∧ sigChecks s 0 = true ∧ (sigEn s 0).contains 0 = true) := by decide +kernel

theorem witness_BlitterCommandsComplete :
    ([0x40, 0x16C].all fun o => checkWrite (up [pgBLT]) mgmt (pgBLT + o) = .ok) = true ∧
    ([2, 3, 4].all fun p =>
      let s := { lopOn pgBLT 1 1 live with blt := { Blt.none with phase := p } }
      lopRuns s pgBLT 1 && s.blt.phase == p && s.blt.flying == 0 && s.blt.writes.isEmpty && s.blt.fail.isNone) = true ∧
    (bitOf (1#32).toNat 0 = true ∧ bitOf (0#32).toNat 0 = false) := by decide +kernel

theorem witness_CameraPortCommandsComplete :
    let s := (up [pgCSI 0, pgISP 0]).wr (pgISP 0) F.ISP_STATUS_STATE 1
    (csiOn s 0 = true ∧ s.chip.inReset = false ∧ (s.cam 0).drop = false) ∧
    (let t := ((s.wr (pgISP 0) F.ISP_TRIG_SRC 1).wr (pgISP 0) F.ISP_TRIG_PERIOD_PERIOD 64)
     t.rd (pgISP 0) F.ISP_TRIG_SRC = 1 ∧ trigMet t 0 = true ∧ t.done = true ∧ t.ladder < 2) ∧
    (let t := (headIn dhRUN).wr (pgISP 0) F.ISP_TRIG_SRC 2
     t.rd (pgISP 0) F.ISP_TRIG_SRC = 2 ∧ scanning t (t.rd (pgISP 0) F.ISP_TRIG_HEAD) = true) ∧
    checkWrite s mgmt (pgCSI 0 + 0x128) = .ok ∧ (bitOf (1#32).toNat 0 = true ∧ bitOf (0#32).toNat 0 = false) := by decide +kernel

/-- A frame arriving, a frame fully processed whose writes are done, and one whose record is out. -/
theorem witness_CameraPipelineCommandsComplete :
    let f : CamFrame := { cfg := [], seq := 0, num := 1, fs := 0, fe := 0, ended := true, cause := 0, lines := [[1], [1]], done := 0,
                          nr := [], toned := [], zones := [], hist := [], tnrReset := false, embTrunc := false, emb := 0,
                          writeErr := false, failed := [], recSent := false, recBad := false }
    let s (f : CamFrame) : State :=
      (((up [pgCSI 0, pgISP 0]).wr (pgISP 0) F.ISP_STATUS_STATE 1).wr (pgCSI 0 + inForce) F.CSI_GEOM_HEIGHT 2).modCam 0 fun x =>
        { x with frames := [f] }
    (csiOn (s f) 0 = true ∧ working (s f) 0 = some f ∧ f.done < camH (s f) 0 + 6 ∧ f.done < f.lines.length) ∧
    (let f := { f with done := 8 }
     (((s f).cam 0).frames.head? = some f ∧ f.ended = true ∧ f.done = camH (s f) 0 + 6 ∧ f.recSent = false ∧ camBusy (s f) 0 f.seq = false)) ∧
    (let f := { f with done := 8, recSent := true }
     ((s f).cam 0).frames.head? = some f ∧ f.recSent = true ∧ camBusy (s f) 0 f.seq = false) ∧
    (checkWrite (s f) mgmt (pgISP 0 + 0x100) = .ok ∧ ispState (s f) 0 ≠ 0 ∧ checkWrite (s f) mgmt (pgISP 0 + 0x128) = .ok) ∧
    (checkWrite (up [pgISP 0]) mgmt (pgISP 0 + 0x100) = .ok ∧ ispState (up [pgISP 0]) 0 = 0) ∧
    (bitOf (1#32).toNat 0 = true ∧ bitOf (0#32).toNat 0 = false) := by decide +kernel

theorem witness_PartitionCommandsComplete :
    ([0x104, 0x108, 0x40, 0x394].all fun o => checkWrite (up [pgPART]) mgmt (pgPART + o) = .ok) = true ∧
    (let s := (up [pgPART]).wr pgPART F.PART_P_STATE_STATE 2 5
     s.lopActive pgPART = false ∧ fencedMask s ≠ 0 ∧ s.running pgPART = true) ∧
    (let s := { lopOn pgPART 1 1 live with drain := { mask := [], scrubbing := false, units := [] } }
     lopRuns s pgPART 1 = true ∧ s.drain.scrubbing = false ∧ (s.drain.mask.all (drainComplete s)) = true) ∧
    (let q := (List.range 8).foldl (fun s n => s.wr (pgMCU n) F.MCU_STATUS_OFFLINE 0) (up ((List.range 8).map pgMCU))
     let s := { lopOn pgPART 1 1 q with drain := { mask := [5], scrubbing := true, units := [(8, 0)] } }
     lopRuns s pgPART 1 = true ∧ s.drain.scrubbing = true ∧ s.drain.units = (8, 0) :: [] ∧
       ((granMcus s 8).any fun n => s.rd (pgMCU n) F.MCU_STATUS_OFFLINE ≠ 0) = false ∧
       ((granMcus s 8).any fun n => !s.running (pgMCU n)) = false ∧
       (let t := s.wr (pgMCU 2) F.MCU_STATUS_OFFLINE 1
        ((granMcus t 8).any fun n => t.rd (pgMCU n) F.MCU_STATUS_OFFLINE ≠ 0) = true)) ∧
    (bitOf (1#32).toNat 0 = true ∧ bitOf (0#32).toNat 0 = false) := by decide +kernel

/-- The rules stated whole: each clause's own hypotheses. -/
theorem witness_ResetCommandNeedsItsKey :
    live.chip.inReset = false ∧ checkWrite (up [pgCHIP]) mgmt (pgCHIP + 0x130) = .ok ∧
    (5 ≠ mgmt ∧ (up [pgCHIP]).done = true ∧ 5 ≠ (up [pgCHIP]).owner pgCHIP) ∧
    (let s := (up [pgCHIP]).wr pgCHIP F.OWN_PAGE_OWNER_OWNER 5
     5 = s.owner pgCHIP ∧ s.avail pgCHIP = true ∧ s.done = true ∧ s.chip.inReset = false) := by decide +kernel

theorem witness_RemoteResetOnlyFromTheConductor : live.chip.inReset = false := rfl

theorem witness_ResetPinPulses :
    (0 < 1 ∧ State.reset.chip.pwrOk = false ∧ State.reset.powered = false) ∧ (10 ≤ 10 ∧ 1 ≤ 1 ∧ 9 < 10 ∧ live.powered = true) := by decide

/-- A head lent to partition 5, and one of the management domain. -/
theorem witness_HeadokIsTheManagementDomains :
    (let s := (up [pgDH 3]).wr (pgDH 3) F.OWN_PAGE_OWNER_OWNER 5
     s.chip.inReset = false ∧ 5 ≠ mgmt ∧ checkWrite s 5 (pgDH 3 + 0x134) = .ok) ∧
    checkWrite (up [pgDH 3]) 5 (pgDH 3 + 0x134) = .denied := by decide +kernel

theorem witness_PageFaultKeepsTheFirstRecord :
    (pgMCU 0 % 0x1000 = 0 ∧ pageOf (pgMCU 0) = some (.mcu, 0) ∧ causeUnused < 16 ∧ 63 < 64 ∧ 0xFFC < 0x1000) ∧
    live.rd (pgMCU 0) F.OWN_PAGE_FAULT_COUNT = 0 ∧
    (live.wr (pgMCU 0) F.OWN_PAGE_FAULT_COUNT 255).rd (pgMCU 0) F.OWN_PAGE_FAULT_COUNT ≠ 0 := by decide +kernel

theorem witness_FenceSignalIsAMax : live.chip.inReset = false ∧ 63 < 64 ∧ fenceMay live mgmt 63 = true := by decide +kernel

theorem witness_CounterClearsTouchTheirWordsOnly :
    ([pgMET + 0x130, pgDH 3 + 0x174, pgDPTX 3 + 0x134, pgBLT + 0x16C, pgCSI 3 + 0x128, pgISP 3 + 0x128, pgERR + 0x144].all fun a =>
      checkWrite (up [a - a % 0x1000]) mgmt a = .ok) = true ∧ live.chip.inReset = false ∧ 3 < 4 := by decide +kernel

/-- Each finding of the checks on a plain register. -/
theorem witness_RefusedRegisterWritesAreRecorded :
    checkWrite (up []) mgmt 0x300000 = .unmapped ∧ checkWrite (up [pgMCU 0]) 5 (pgMCU 0 + 0x100) = .denied ∧
    checkWrite (up []) mgmt (pgMCU 0 + 0x100) = .unavailable ∧ checkWrite (up [pgMCU 0]) mgmt (pgMCU 0 + 0x418) = .expert ∧
    checkWrite (up [pgMCU 0]) mgmt (pgMCU 0 + 0x3FC) = .unused ∧
    ([0x300000, pgMCU 0 + 0x100, pgMCU 0 + 0x418, pgMCU 0 + 0x3FC].all fun a =>
      decide (a < 0x1000000) && !inRteWindow a && decide (a - a % 0x1000 ≠ pgCMT)) = true ∧
    (pageOf (pgMCU 0 + 0x100) = some (.mcu, 0) ∧ (up []).done = true) := by decide +kernel

/-- The greatest value of each format's sign and magnitude that is no NaN. -/
theorem witness_NumberFormatsRoundTrip :
    ([(0, 0xFFEFFFFFFFFFFFFF), (1, 0xFF7FFFFF), (3, 0xFBFF), (4, 0xFF7F), (7, 0x3F), (8, 0x3F), (9, 0xF), (10, 0xFF), (11, 0xF)].all fun x =>
      decide (x.2 < 2 ^ fmtBits x.1) && !(dec x.1 x.2).isNan) = true ∧ (0xFFFF : Nat) < 2 ^ 16 := by decide +kernel

/-- A page that takes commands, IDLE, RUNNING with an operation that neither suspends nor cancels, and SUSPENDED. -/
theorem witness_RejectedOperationCommandsChangeNothing :
    let pg := pgMCU 0
    let s (st : Nat) : State := lopOn pg 1 st (up [pg])
    (pg % 0x1000 = 0 ∧ pageOf pg = some (.mcu, 0) ∧ mgmt < 64 ∧ live.chip.inReset = false) ∧
    ([0, 1, 2, 3, 4, 5].all fun st => checkWrite (s st) mgmt (pg + 0x40) = .ok && (s st).lop pg == st) = true ∧
    (let f := lopOn pgBOOT 2 1 (up [pgBOOT])
     f.lop pgBOOT = 1 ∧ lopTraits f pgBOOT = (false, false) ∧ checkWrite f mgmt (pgBOOT + 0x40) = .ok ∧ pageOf pgBOOT = some (.boot, 0)) ∧
    (s 1).rd pg F.OWN_PAGE_FAULT_COUNT = 0 := by decide +kernel

theorem witness_MetNowReadIsCoherent :
    live.chip.inReset = false ∧ (up [pgMET]).done = true ∧ (up [pgMET]).avail pgMET = true := by decide +kernel

theorem witness_ProtectedWindowWritesFourBytes :
    live.chip.inReset = false ∧ 3 < 4 ∧ checkWrite (up [pgPROT 3]) mgmt (pgPROT 3 + 0x11C) = .ok ∧ memWf live = true := by decide +kernel

end Sys2Proof.Tests
end

