-- ==== Sys2Proof/Proofs/Scope.lean ====
section
/-! PROOF. The registers right after reset: the empty register file reads as the reset values of the field tables, so the
identity registers of the CHIP page read as R1 gives them. -/
namespace Sys2Proof.Machine
open Sys2Proof

/-- The register file is empty at reset: each word has its reset value. -/
@[simp] theorem word_reset (a : Nat) : State.reset.word a = wordReset a := rfl

/-- In the window, a word of a page resets to its fields' values, as `specialReset` corrects them. -/
theorem wordReset_of_pageOf {a n : Nat} {k : PageKind} (ha : a < 0x1000000) (hp : pageOf a = some (k, n)) :
    wordReset a = BitVec.ofNat 32 (specialReset k n (a % 0x1000) (tableReset (fieldsAt k (a % 0x1000)) (a % 0x1000))) := by
  have hf : ¬ inForce ≤ a := by simp only [inForce]; omega
  have hw : ¬ 0x1000000 ≤ a := by omega
  simp only [wordReset, if_neg hf, if_neg hw, hp]

/-- `specialReset` leaves every word of the CHIP page's own region as the table gives it. -/
theorem specialReset_chip {n off : Nat} (w : Nat) (hlo : 0x60 ≤ off) (hhi : off < 0xF00) :
    specialReset .chip n off w = w := by
  have h0 : off ≠ 0 := by omega
  have h8 : off ≠ 8 := by omega
  have hC : off ≠ 0xC := by omega
  have hF : off ≠ 0xF00 := by omega
  unfold specialReset
  rw [if_neg h0, if_neg h8, if_neg hC, if_neg hF]

/-- The CHIP page's own region resets to the values of its field table. -/
theorem wordReset_chip {off : Nat} (hlo : 0x60 ≤ off) (hhi : off < 0xF00) :
    wordReset (pgCHIP + off) = BitVec.ofNat 32 (tableReset fieldsCHIP off) := by
  have hpg : pgCHIP + off = off := Nat.zero_add off
  have hmod : off % 0x1000 = off := Nat.mod_eq_of_lt (by omega)
  have hpage : pageOf off = some (.chip, 0) := by
    simp [pageOf, show off / 0x1000 = 0 by omega]
  have hfields : fieldsAt .chip off = fieldsCHIP := by
    simp [fieldsAt, blockFields, show ¬ off < 0x40 by omega, show ¬ off < 0x60 by omega, show ¬ 0xF00 ≤ off by omega]
  rw [hpg, wordReset_of_pageOf (by omega) hpage, hmod, hfields, specialReset_chip _ hlo hhi]

/-- CHIP.ID after reset (R1, R135). -/
theorem wordReset_chipId : wordReset (pgCHIP + 0x100) = 0x504E0004#32 := by
  have htable : tableReset fieldsCHIP 0x100 = 0x504E0004 := by decide
  rw [wordReset_chip (by decide) (by decide), htable]

/-- The word of CHIP.STEP after reset (R1, R135). -/
theorem wordReset_chipStep : wordReset (pgCHIP + 0x104) = 0xA1#32 := by
  have htable : tableReset fieldsCHIP 0x104 = 0xA1 := by decide
  rw [wordReset_chip (by decide) (by decide), htable]

/-- Settles O5: both registers lie in the CHIP page's own region, where the field table gives the reset values. -/
theorem identityReadsSteppingA1 : Obligations.IdentityReadsSteppingA1 := by
  have hoff : fldOff F.CHIP_STEP_STEP 0 0 = 0x104 := rfl
  refine ⟨by rw [word_reset, wordReset_chipId], ?_⟩
  rw [State.rd, hoff, word_reset, wordReset_chipStep]
  rfl

end Sys2Proof.Machine
end

