-- ==== Sys2Proof/Proofs/HbmBytes.lean ====
section
/-! PROOF. Byte strings in HBM (R25, R312, R320): reading right after a write, reading beside it, and the canonical form. -/
namespace Sys2Proof.Machine
open Sys2Proof

variable (s : State) (a : Nat) (bs : List Byte)

/-- A byte string reads back from where it was written. -/
theorem hbmRead_hbmWrite_same : (s.hbmWrite a bs).hbmRead a bs.length = bs :=
  mread_mwrite_same (hbmBlank s.hbmFree) s.hbm a bs

/-- A read of one byte is what the sparse map holds at its address. -/
theorem hbmRead_one (b : Nat) : s.hbmRead b 1 = [fget (hbmBlank s.hbmFree) s.hbm b] := rfl

/-- A byte outside the range of a write reads as before. -/
theorem hbmRead_hbmWrite_outside {b : Nat} (h : b < a ∨ a + bs.length ≤ b) :
    (s.hbmWrite a bs).hbmRead b 1 = s.hbmRead b 1 := by
  have hout : ¬ (a ≤ b ∧ b < a + bs.length) := by omega
  have hbyte := fget_mwrite (hbmBlank s.hbmFree) s.hbm a bs b
  rw [if_neg hout] at hbyte
  exact congrArg (fun x => [x]) hbyte

/-- The byte memories of a state are canonical when each of the four is. -/
theorem memWf_iff : memWf s = true ↔
    fwf (hbmBlank s.hbmFree) s.hbm = true ∧ fwf sramBlank s.sram = true ∧ fwf flashBlank s.flash = true ∧
      fwf (fun _ => 0) s.prot = true := by
  simp only [memWf, Memory.wf, Bool.and_eq_true, and_assoc]

/-- A write of HBM keeps every byte memory canonical. -/
theorem memWf_hbmWrite (h : memWf s = true) : memWf (s.hbmWrite a bs) = true := by
  obtain ⟨hhbm, hrest⟩ := (memWf_iff s).1 h
  exact (memWf_iff _).2 ⟨hbm_wf_write s a bs hhbm, hrest⟩

/-- Settles O11, from the laws of sparse byte maps. -/
theorem hbmWriteChangesItsBytesOnly : Obligations.HbmWriteChangesItsBytesOnly := by
  intro s a bs
  exact ⟨hbmRead_hbmWrite_same s a bs, fun _ => hbmRead_hbmWrite_outside s a bs, memWf_hbmWrite s a bs⟩

end Sys2Proof.Machine
end

