-- ==== Sys2Proof/Proofs/RefusedWrites.lean ====
section
/-! PROOF. What the checks of a register write find decides what the write does (R26, R73, R74, R81, R90, R717); Table 3.4 as
`mayWrite` and `checkWrite` read it. -/
namespace Sys2Proof.Machine
open Sys2Proof

variable (s : State) (req a : Nat)

/-- A register write does what its checks' finding calls for. -/
theorem regWrite_of_checkWrite (eff : State → State) {c : Access} (h : checkWrite s req a = c) :
    regWrite req a eff s = regWriteAs c s.chipNum req a eff s := by
  rw [← h]; rfl

/-- In the register window, outside the routing window and the CMT page, a word is written by `regWrite`. -/
theorem windowWrite_eq_regWrite (v : Word) (hr : inRteWindow a = false) (hc : a - a % 0x1000 ≠ pgCMT) :
    windowWrite s.chipNum req a v s = regWrite req a (regEffect req a v) s := by
  simp only [windowWrite, hr, Bool.false_eq_true, if_false, if_neg hc, regWrite]

/-- REGISTER_WRITE_PLAIN out of reset on such a word: the checked write, and then the ladder is evaluated (R177). -/
theorem exec_registerWritePlain_window (v : Word) (hs : s.chip.inReset = false) (ha : a < 0x1000000)
    (hr : inRteWindow a = false) (hc : a - a % 0x1000 ≠ pgCMT) :
    exec (.registerWritePlain req a v) s = .next (powerEval (regWrite req a (regEffect req a v) s)) := by
  calc exec (.registerWritePlain req a v) s
      = liveP s (if a < 0x1000000 then windowWrite s.chipNum req a v else barWrite a v) := rfl
    _ = .next (powerEval (windowWrite s.chipNum req a v s)) := by rw [if_pos ha, liveP_next s _ hs]
    _ = .next (powerEval (regWrite req a (regEffect req a v) s)) := by rw [windowWrite_eq_regWrite s req a v hr hc]

/-- Every page is served once the boot is DONE (R114). -/
theorem served_of_done (pg : Nat) (h : s.done = true) : served s req pg = true := by simp [served, h]

/-- Table 3.4: who may not write an offset of a page. -/
theorem mayWrite_eq_false_iff (pg off : Nat) : mayWrite s req pg off = false ↔
    req ≠ mgmt ∧ (req ≠ s.owner pg ∨ (0xF00 ≤ off ∧ off ≠ 0xF04 ∧ off ≠ 0xF0C)) := by
  unfold mayWrite
  by_cases hm : req = mgmt
  · simp [hm]
  · by_cases ho : req = s.owner pg
    · by_cases hlow : off < 0xF00
      · simp [hm, ← ho, hlow]
      · simp [hm, ← ho, hlow]; omega
    · simp [hm, ho]

/-- The checks find a write unmapped exactly where no page lies (R73). -/
theorem checkWrite_unmapped_iff : checkWrite s req a = .unmapped ↔ pageOf a = none := by
  unfold checkWrite
  cases pageOf a with
  | none => simp
  | some p => dsimp only; split_ifs <;> simp

/-- Where accesses are served, the checks deny a write exactly when Table 3.4 does. -/
theorem checkWrite_denied_iff {k : PageKind} {n : Nat} (hp : pageOf a = some (k, n))
    (hsv : served s req (a - a % 0x1000) = true) :
    checkWrite s req a = .denied ↔ mayWrite s req (a - a % 0x1000) (a % 0x1000) = false := by
  unfold checkWrite
  rw [hp]
  cases hmay : mayWrite s req (a - a % 0x1000) (a % 0x1000) with
  | false => simp [hsv, hmay]
  | true =>
    simp only [hsv, hmay, Bool.not_true, Bool.false_eq_true, if_false]
    split_ifs <;> simp

/-- Settles O56: the write is `regWrite`, whose checks' finding names the record. -/
theorem refusedRegisterWritesAreRecorded : Obligations.RefusedRegisterWritesAreRecorded := by
  intro s req a v hs ha hr hc
  have hexec : ∀ {c : Access}, checkWrite s req a = c → exec (.registerWritePlain req a v) s =
      .next (powerEval (regWriteAs c s.chipNum req a (regEffect req a v) s)) := fun h => by
    rw [exec_registerWritePlain_window s req a v hs ha hr hc, regWrite_of_checkWrite s req a _ h]
  refine ⟨hexec, hexec, hexec, hexec, hexec, checkWrite_unmapped_iff s req a, fun k n hp hd => ?_⟩
  exact (checkWrite_denied_iff s req a hp (served_of_done s req _ hd)).trans (mayWrite_eq_false_iff s req _ _)

end Sys2Proof.Machine
end

