-- ==== Sys2Proof/Proofs/CommitFence.lean ====
section
/-! PROOF. Display fences and commits (19 R562-R573): the MAX of R31 on a slot word by word, the writes of CMT registers that
R580 admits, and the end of a record's fetch. -/
namespace Sys2Proof.Machine
open Sys2Proof

/-! Counters. -/

/-- A counter changes one register word alone. -/
theorem word_bump_other (s : State) (pg : Nat) (f : Fld) (n i b : Nat) {x : Nat} (h : x ≠ pg + fldOff f i b) :
    (s.bump pg f n i b).word x = s.word x := word_wr_other s pg f _ i b h

/-- A counter reads one step on, or its largest value (R698). -/
theorem rd_bump_same (s : State) (pg : Nat) (f : Fld) (n i b : Nat) (h : fldBit f i + f.wid ≤ 32) :
    (s.bump pg f n i b).rd pg f i b = min (2 ^ f.wid - 1) (s.rd pg f i b + n) := by
  have hpos : 0 < 2 ^ f.wid := Nat.two_pow_pos _
  rw [State.bump, rd_wr_same _ _ _ _ _ _ h, satAt, min_comm, Nat.mod_eq_of_lt (by omega)]

/-- A write of a field replaces the registers alone. -/
theorem wr_with_regs (s : State) (pg : Nat) (f : Fld) (v i b : Nat) (r : Fmap Word) :
    { s.wr pg f v i b with regs := r } = { s with regs := r } := by simp

/-- So does a counter. -/
theorem bump_with_regs (s : State) (pg : Nat) (f : Fld) (n i b : Nat) (r : Fmap Word) :
    { s.bump pg f n i b with regs := r } = { s with regs := r } := wr_with_regs s pg f _ i b r

/-! The MAX of a fence slot. -/

variable (s : State) (ix v : Nat)

/-- The word of a slot. -/
theorem fldOff_fenceValue : fldOff F.CMT_FENCE_VALUE ix 0 = 0x200 + 4 * ix := by
  simp [fldOff, F.CMT_FENCE_VALUE]

/-- The word of FENCE_SIGNALS. -/
theorem fldOff_fenceSignals : fldOff F.CMT_FENCE_SIGNALS_COUNT 0 0 = 0x188 := rfl

/-- A slot fills its word. -/
theorem fldBit_fenceValue : fldBit F.CMT_FENCE_VALUE ix = 0 := by simp [fldBit, F.CMT_FENCE_VALUE]

theorem fenceVal_lt : fenceVal s ix < 2 ^ 32 := getBits_lt _ _ _

/-- A slot's value depends on its own word alone. -/
theorem fenceVal_congr {s t : State} {j : Nat} (h : t.word (pgCMT + 0x200 + 4 * j) = s.word (pgCMT + 0x200 + 4 * j)) :
    fenceVal t j = fenceVal s j := by
  simp only [fenceVal, State.rd, fldOff_fenceValue, ← Nat.add_assoc, h]

theorem fenceVal_wr_same : fenceVal (s.wr pgCMT F.CMT_FENCE_VALUE v ix) ix = v % 2 ^ 32 :=
  rd_wr_same s pgCMT F.CMT_FENCE_VALUE v ix 0 (by rw [fldBit_fenceValue]; decide)

/-- Counting a signal leaves every slot. -/
theorem fenceVal_bumpSignals : fenceVal (s.bump pgCMT F.CMT_FENCE_SIGNALS_COUNT) ix = fenceVal s ix :=
  fenceVal_congr (word_bump_other s _ _ _ _ _ (by rw [fldOff_fenceSignals]; omega))

/-- The half-range rule of R698 on a slot: less than 2^31 ahead of what it holds. -/
theorem atOrAfter_fenceVal :
    atOrAfter 32 v (fenceVal s ix) = decide ((v + (2 ^ 32 - fenceVal s ix)) % 2 ^ 32 < 2 ^ 31) := by
  have h := fenceVal_lt s ix
  rw [atOrAfter, Nat.mod_eq_of_lt h, Nat.add_sub_assoc h.le]

/-- A value at or after the slot's is taken (R31). -/
theorem fenceMax_ahead (h : (v + (2 ^ 32 - fenceVal s ix)) % 2 ^ 32 < 2 ^ 31) :
    fenceMax ix v s = (s.bump pgCMT F.CMT_FENCE_SIGNALS_COUNT).wr pgCMT F.CMT_FENCE_VALUE v ix := by
  unfold fenceMax
  dsimp only
  rw [fenceVal_bumpSignals, atOrAfter_fenceVal, decide_eq_true h, if_pos rfl]

/-- Any other is counted alone. -/
theorem fenceMax_behind (h : ¬ (v + (2 ^ 32 - fenceVal s ix)) % 2 ^ 32 < 2 ^ 31) :
    fenceMax ix v s = s.bump pgCMT F.CMT_FENCE_SIGNALS_COUNT := by
  unfold fenceMax
  dsimp only
  rw [fenceVal_bumpSignals, atOrAfter_fenceVal, decide_eq_false h, if_neg Bool.false_ne_true]

/-- A MAX counts its signal, and then leaves the slot or writes it. -/
theorem fenceMax_cases : fenceMax ix v s = s.bump pgCMT F.CMT_FENCE_SIGNALS_COUNT ∨
    fenceMax ix v s = (s.bump pgCMT F.CMT_FENCE_SIGNALS_COUNT).wr pgCMT F.CMT_FENCE_VALUE v ix := by
  by_cases h : (v + (2 ^ 32 - fenceVal s ix)) % 2 ^ 32 < 2 ^ 31
  · exact .inr (fenceMax_ahead s ix v h)
  · exact .inl (fenceMax_behind s ix v h)

/-- A MAX touches the slot's word and FENCE_SIGNALS alone. -/
theorem word_fenceMax_other {x : Nat} (hslot : x ≠ pgCMT + 0x200 + 4 * ix) (hsig : x ≠ pgCMT + 0x188) :
    (fenceMax ix v s).word x = s.word x := by
  have hbump : (s.bump pgCMT F.CMT_FENCE_SIGNALS_COUNT).word x = s.word x := word_bump_other s _ _ _ _ _ hsig
  have hoff : x ≠ pgCMT + fldOff F.CMT_FENCE_VALUE ix 0 := by rwa [fldOff_fenceValue, ← Nat.add_assoc]
  obtain h | h := fenceMax_cases s ix v
  · rw [h, hbump]
  · rw [h, word_wr_other _ _ _ _ _ _ hoff, hbump]

/-- A MAX touches registers alone. -/
theorem fenceMax_regs_only : { fenceMax ix v s with regs := s.regs } = s := by
  obtain h | h := fenceMax_cases s ix v
  · rw [h, bump_with_regs]
  · rw [h, wr_with_regs, bump_with_regs]

/-- The slot of a MAX takes the value when it is at or after what the slot holds. -/
theorem fenceVal_fenceMax_same (hv : v < 2 ^ 32) : fenceVal (fenceMax ix v s) ix =
    if (v + (2 ^ 32 - fenceVal s ix)) % 2 ^ 32 < 2 ^ 31 then v else fenceVal s ix := by
  split
  next h => rw [fenceMax_ahead s ix v h, fenceVal_wr_same, Nat.mod_eq_of_lt hv]
  next h => rw [fenceMax_behind s ix v h, fenceVal_bumpSignals]

/-- Every other slot keeps its value. -/
theorem fenceVal_fenceMax_other {j : Nat} (h : j ≠ ix) : fenceVal (fenceMax ix v s) j = fenceVal s j :=
  fenceVal_congr (word_fenceMax_other s ix v (by omega) (by omega))

/-- FENCE_SIGNALS counts every MAX, whether the slot moves or not. -/
theorem signals_fenceMax : (fenceMax ix v s).rd pgCMT F.CMT_FENCE_SIGNALS_COUNT =
    min (2 ^ 32 - 1) (s.rd pgCMT F.CMT_FENCE_SIGNALS_COUNT + 1) := by
  have hbump : (s.bump pgCMT F.CMT_FENCE_SIGNALS_COUNT).rd pgCMT F.CMT_FENCE_SIGNALS_COUNT =
      min (2 ^ 32 - 1) (s.rd pgCMT F.CMT_FENCE_SIGNALS_COUNT + 1) := rd_bump_same s _ _ _ _ _ (by decide)
  have hoff : pgCMT + fldOff F.CMT_FENCE_SIGNALS_COUNT 0 0 ≠ pgCMT + fldOff F.CMT_FENCE_VALUE ix 0 := by
    rw [fldOff_fenceSignals, fldOff_fenceValue]; omega
  obtain h | h := fenceMax_cases s ix v
  · rw [h, hbump]
  · rw [h, rd_wr_other _ _ _ _ _ _ _ _ _ _ hoff, hbump]

/-- CMT_FENCE_MAX out of reset: the MAX, or the denial (R563). -/
theorem exec_cmtFenceMax (req : Nat) (w : Word) (hs : s.chip.inReset = false) : exec (.cmtFenceMax req ix w) s =
    .next (if fenceMay s req ix then fenceMax ix w.toNat s else fenceDenied req s.chipNum ix s) := by
  calc exec (.cmtFenceMax req ix w) s
      = live s fun s => if fenceMay s req ix then fenceMax ix w.toNat s else fenceDenied req s.chipNum ix s := rfl
    _ = _ := live_next s _ hs

/-- A requester that may raises the slot. -/
theorem completes_cmtFenceMax (req : Nat) (w : Word) :
    Completes (.cmtFenceMax req ix w) (fun s => fenceMay s req ix = true) (fenceMax ix w.toNat) :=
  fun s hs hmay => by rw [exec_cmtFenceMax s ix req w hs, if_pos hmay]

/-- Any other is denied. -/
theorem completes_cmtFenceMax_denied (req : Nat) (w : Word) :
    Completes (.cmtFenceMax req ix w) (fun s => fenceMay s req ix = false) (fun s => fenceDenied req s.chipNum ix s) :=
  fun s hs hmay => by rw [exec_cmtFenceMax s ix req w hs, if_neg (by simp [hmay])]

/-- Settles O54: slot by slot and word by word. -/
theorem fenceSignalIsAMax : Obligations.FenceSignalIsAMax := by
  intro s req ix v hs _ hmay
  refine ⟨fenceMax ix v.toNat s, completes_cmtFenceMax ix req v s hs hmay, fun j _ => ?_, signals_fenceMax s ix v.toNat,
    fun x => word_fenceMax_other s ix v.toNat, fenceMax_regs_only s ix v.toNat⟩
  by_cases hj : j = ix
  · subst hj
    rw [fenceVal_fenceMax_same s j v.toNat v.isLt]
    simp
  · rw [fenceVal_fenceMax_other s ix v.toNat hj, if_neg (fun h => hj h.1)]

/-! Writes of CMT registers. -/

/-- A write that R580 admits and whose checks pass has its effect, and marks CUSTOM (R81). -/
theorem cmtWrite_ok {req off : Nat} (eff : State → State) {s : State} (hd : s.done = true)
    (hmay : cmtMayWrite s req ((pgCMT + off) % 0x1000) = true) (hchk : checkWrite s mgmt (pgCMT + off) = .ok) :
    cmtWrite req off eff s =
      customMark req (pgCMT + off - (pgCMT + off) % 0x1000) ((pgCMT + off) % 0x1000) (eff s) := by
  simp only [cmtWrite, cmtWriteFrom, hd, hmay, hchk, Bool.not_true, Bool.false_and, Bool.false_eq_true, if_true, if_false,
    regWriteAs]

/-- A command that is a write of a CMT register completes as such, with any effect that says the same. -/
theorem cmtWriteCompletes {c : Instr} {req off : Nat} {own eff : State → State}
    (hc : ∀ s, exec c s = live s (cmtWrite req off own)) (he : ∀ s, own s = eff s) : CmtWriteCompletes c req off eff := by
  intro s hs ⟨hd, hmay, hchk⟩
  rw [hc s, live_next s _ hs, cmtWrite_ok own hd hmay hchk, he s]

/-! The end of a record's fetch. -/

variable {s ix v} {n : Nat} {c : Commit}

/-- A record that is there and not cancelled is checked, and meets the pool when it passes (R567, R568). -/
theorem cmtRecordFetchedEffect_checked (hc : (s.head n).commit = some c) (hst : cmtRd s n F.CMT_STATUS_STATE = 1)
    (hfl : c.flying = 0) (hca : c.cancel = false) : cmtRecordFetchedEffect n s =
      match recordCheck s n c with
      | some (chk, off) => commitReject n chk off s
      | none => commitPool n c s := by
  cases hchk : recordCheck s n c with
  | none => simp [cmtRecordFetchedEffect, hc, hst, hfl, hca, hchk]
  | some f => simp [cmtRecordFetchedEffect, hc, hst, hfl, hca, hchk]

/-- A commit cancelled while FETCHING is discarded when its checks end (R572). -/
theorem cmtRecordFetchedEffect_cancelled (hc : (s.head n).commit = some c) (hst : cmtRd s n F.CMT_STATUS_STATE = 1)
    (hfl : c.flying = 0) (hca : c.cancel = true) : cmtRecordFetchedEffect n s = commitDiscard n 6 s := by
  simp [cmtRecordFetchedEffect, hc, hst, hfl, hca]

/-- A record that is not read whole in time fails check 1 (R567). -/
theorem cmtRecordTimeoutEffect_rejected (hc : (s.head n).commit = some c) (hst : cmtRd s n F.CMT_STATUS_STATE = 1)
    (hfl : c.flying ≠ 0) (hca : c.cancel = false) : cmtRecordTimeoutEffect n s = commitReject n 1 0 s := by
  simp [cmtRecordTimeoutEffect, hc, hst, hfl, hca]

/-- Settles O43: each command is its write of a CMT register, its atomic, or the end of a fetch. A word with CANCEL and GO both
set is CMT_COMMIT_CANCEL's (log 68), and the management domain may raise any slot (log 69). -/
theorem commitAndFenceCommandsComplete : Obligations.CommitAndFenceCommandsComplete := by
  intro req n ix v c
  refine ⟨fun _ => ?go, fun hv => ?cancel, ?fetched, ?fetchedCancelled, ?timeout, ?alloc, ?free, ?set,
    completes_cmtFenceMax ix req v, completes_cmtFenceMax_denied ix req v, fun hv => ?clear, fun hv => ?noClear⟩
  case go => exact cmtWriteCompletes (fun _ => rfl) fun _ => rfl
  case cancel => exact cmtWriteCompletes (fun _ => rfl) fun _ => if_pos hv
  case fetched =>
    intro s hs ⟨hc, hst, hfl, hca⟩
    exact (live_next s _ hs).trans (congrArg _ (cmtRecordFetchedEffect_checked hc hst hfl hca))
  case fetchedCancelled =>
    intro s hs ⟨hc, hst, hfl, hca⟩
    exact (live_next s _ hs).trans (congrArg _ (cmtRecordFetchedEffect_cancelled hc hst hfl hca))
  case timeout =>
    intro s hs ⟨hc, hst, hfl, hca⟩
    exact (live_next s _ hs).trans (congrArg _ (cmtRecordTimeoutEffect_rejected hc hst hfl hca))
  case alloc => exact cmtWriteCompletes (fun _ => rfl) fun _ => rfl
  case free => exact cmtWriteCompletes (fun _ => rfl) fun _ => rfl
  case set => exact cmtWriteCompletes (fun _ => rfl) fun _ => rfl
  case clear => exact cmtWriteCompletes (fun _ => rfl) fun _ => if_pos hv
  case noClear => exact cmtWriteCompletes (fun _ => rfl) fun _ => if_neg (by simp [hv])

end Sys2Proof.Machine
end

