-- ==== Sys2Proof/Proofs/OperatingPoint.lean ====
section
/-! PROOF. Operating points, temperature and pace (02 R57-R66, 06 R192-R202): the regulator's answers, the power of CORE_W,
which the choice of its rounding (log 3) leaves at its floor or one above, and the clears of the recorded extremes. -/
namespace Sys2Proof.Machine
open Sys2Proof

/-! Completion from a command's own effect. -/

section
variable {c : Instr} {own eff : State → State}

/-- A command whose own effect is as said wherever its condition holds completes. -/
theorem completes_of_exec_live {pre : State → Prop} (hc : ∀ s, exec c s = live s own) (he : ∀ s, pre s → own s = eff s) :
    Completes c pre eff := by
  intro s hs hpre
  rw [hc s, live_next s own hs, he s hpre]

/-- A command that is a checked register write completes as one, with any effect that says the same. -/
theorem writeCompletes_of_exec_live {req a : Nat} (hc : ∀ s, exec c s = live s (regWrite req a own))
    (he : ∀ s, own s = eff s) : WriteCompletes c req a eff :=
  completes_of_exec_live hc fun s hok => by rw [regWrite_ok s req a own hok, he s]

end

/-! The regulator's answers (R192, R193). -/

/-- A settled output ends the change at its target (R192). -/
theorem completes_oppSettled (o : Nat) :
    Completes .oppSettled (fun s => s.pwr.oppTarget = some o) (oppEnd o false) :=
  completes_of_exec_live (fun _ => rfl) fun s ho => by simp only [ho]

/-- A first or second NAK is counted and the voltage requested again (R193). -/
theorem completes_avsNak_again (o : Nat) :
    Completes .avsNak (fun s => s.pwr.oppTarget = some o ∧ s.pwr.naks < 2)
      (fun s => avsRequest o { s with pwr := { s.pwr with naks := s.pwr.naks + 1 } }) :=
  completes_of_exec_live (fun _ => rfl) fun s ⟨ho, hn⟩ => by simp only [ho, if_neg (Nat.not_le.mpr hn)]

/-- The third successive NAK fails the change (R193). -/
theorem completes_avsNak_failed (o : Nat) :
    Completes .avsNak (fun s => s.pwr.oppTarget = some o ∧ 2 ≤ s.pwr.naks) oppFailed :=
  completes_of_exec_live (fun _ => rfl) fun s ⟨ho, hn⟩ => by simp only [ho, if_pos hn]

/-- So does an output that is not reported settled in time (R193). -/
theorem completes_oppSettleTimeout :
    Completes .oppSettleTimeout (fun s => s.pwr.oppTarget.isSome = true) oppFailed :=
  completes_of_exec_live (fun _ => rfl) fun _ ho => if_pos ho

/-! Telemetry (R199, Table 6.11). -/

/-- A power of p units of 0.1 mW (a voltage in mV by a current in 0.1 A) in units of 0.1 W, a remainder rounded up or down
(log 3). -/
def coreWatts (up : Bool) (p : Nat) : Nat := p / 1000 + b2n (up && !decide (p % 1000 = 0))

/-- Whichever way it rounds, it is the floor, or one above where there is a remainder. -/
theorem coreWatts_floor_or_ceil (up : Bool) (p : Nat) :
    coreWatts up p = p / 1000 ∨ (coreWatts up p = p / 1000 + 1 ∧ p % 1000 ≠ 0) := by
  by_cases hrem : p % 1000 = 0
  · exact .inl (by simp [coreWatts, b2n, hrem])
  · cases up with
    | false => exact .inl rfl
    | true => exact .inr ⟨by simp [coreWatts, b2n, hrem], hrem⟩

/-- The state with a regulator's voltage, current and power in the PVT page, and the choice of rounding made. -/
def telemetryWrite (mv cur w : Nat) (s : State) : State :=
  ((s.wr pgPVT F.PVT_CORE_MV mv).wr pgPVT F.PVT_CORE_CURRENT cur).choose.2.wr pgPVT F.PVT_CORE_W_POWER (satAt 16 w)

section
variable (mv cur w : Nat) (s : State)

/-- AVS_TELEMETRY_POLL out of reset. -/
theorem exec_avsTelemetryPoll (hs : s.chip.inReset = false) :
    exec (.avsTelemetryPoll mv cur) s = .next (telemetryWrite mv cur (coreWatts s.choose.1 (mv * cur)) s) :=
  live_next s (fun s => telemetryWrite mv cur (coreWatts s.choose.1 (mv * cur)) s) hs

/-- CORE_W lies in a word of its own. -/
theorem rd_telemetryWrite_core (f : Fld) (hf : pgPVT + fldOff f 0 0 ≠ pgPVT + fldOff F.PVT_CORE_W_POWER 0 0) :
    (telemetryWrite mv cur w s).rd pgPVT f = ((s.wr pgPVT F.PVT_CORE_MV mv).wr pgPVT F.PVT_CORE_CURRENT cur).rd pgPVT f :=
  rd_wr_other _ _ _ _ _ _ _ _ _ _ hf

theorem rd_telemetryWrite_mv : (telemetryWrite mv cur w s).rd pgPVT F.PVT_CORE_MV = mv % 2 ^ 16 := by
  rw [rd_telemetryWrite_core mv cur w s _ (by decide),
    rd_wr_beside _ pgPVT F.PVT_CORE_CURRENT cur 0 0 F.PVT_CORE_MV 0 0 rfl (by decide) (by decide)]
  exact rd_wr_same s pgPVT F.PVT_CORE_MV mv 0 0 (by decide)

theorem rd_telemetryWrite_current : (telemetryWrite mv cur w s).rd pgPVT F.PVT_CORE_CURRENT = cur % 2 ^ 16 := by
  rw [rd_telemetryWrite_core mv cur w s _ (by decide)]
  exact rd_wr_same _ pgPVT F.PVT_CORE_CURRENT cur 0 0 (by decide)

/-- CORE_W saturates at its 16 bits. -/
theorem rd_telemetryWrite_power : (telemetryWrite mv cur w s).rd pgPVT F.PVT_CORE_W_POWER = min w 65535 := by
  have hfits : min w 65535 < 2 ^ 16 := by omega
  calc (telemetryWrite mv cur w s).rd pgPVT F.PVT_CORE_W_POWER
      = min w 65535 % 2 ^ 16 := rd_wr_same _ pgPVT F.PVT_CORE_W_POWER (satAt 16 w) 0 0 (by decide)
    _ = min w 65535 := Nat.mod_eq_of_lt hfits

end

/-! The recorded extremes (R63, R201). -/

/-- CLEAR_SEEN of PVT_CTRL clears MAX_SEEN (Table 6.11). -/
theorem writeCompletes_pvtClearSeen (req : Nat) {v : Word} (hv : bitOf v.toNat 0 = true) :
    WriteCompletes (.pvtClearSeen req v) req (pgPVT + 0x11C) (fun s => s.setWord (pgPVT + 0x120) 0) :=
  writeCompletes_of_exec_live (fun _ => rfl) fun _ => if_pos hv

/-- CLEAR_SEEN of PACE_CTRL resets TB_MAX_SEEN, TB_MIN_SEEN and OVER_COUNT beside the write of WINDOW (R63). -/
theorem writeCompletes_paceClearSeen (req : Nat) {v : Word} (hv : bitOf v.toNat 0 = true) :
    WriteCompletes (.paceClearSeen req v) req (pgPACE + 0x114) (fun s =>
      ((((s.wr pgPACE F.PACE_PACE_CTRL_WINDOW (v.toNat / 2)).setWord (pgPACE + 0x108) 0).wr pgPACE F.PACE_TB_MIN_SEEN_VALUE
        0xFFFF).wr pgPACE F.PACE_OVER_COUNT_COUNT 0)) :=
  writeCompletes_of_exec_live (fun _ => rfl) fun _ => if_pos hv

/-- Settles O28: each command by its own effect. That CORE_W may round either way is the model's free choice (log 3). -/
theorem operatingPointAndSensorCommandsComplete : Obligations.OperatingPointAndSensorCommandsComplete := by
  intro req o mv cur v ts hbm tb
  refine ⟨completes_oppSettled o, completes_avsNak_again o, completes_avsNak_failed o, completes_oppSettleTimeout,
    ?telemetry, ?thermal, fun hv => ⟨writeCompletes_pvtClearSeen req hv, writeCompletes_paceClearSeen req hv⟩, ?pace⟩
  case telemetry =>
    intro s hs
    exact ⟨_, _, exec_avsTelemetryPoll mv cur s hs, coreWatts_floor_or_ceil s.choose.1 (mv * cur),
      rd_telemetryWrite_mv mv cur _ s, rd_telemetryWrite_current mv cur _ s, rd_telemetryWrite_power mv cur _ s⟩
  case thermal => exact completes_of_exec_live (fun _ => rfl) fun _ _ => rfl
  case pace => exact completes_of_exec_live (fun _ => rfl) fun _ _ => rfl

end Sys2Proof.Machine
end

