-- ==== Sys2Proof/Proofs/RegisterPages.lean ====
section
/-! PROOF. The common header and the ownership area of a page (03 R77-R93): the offsets of a page, the resets of PAGE_OWNER, and
where the commands that write them, or a plain register, complete. -/
namespace Sys2Proof.Machine
open Sys2Proof

/-! The offsets of a page. -/

section
variable {pg n off : Nat} {k : PageKind}

/-- A page lies in the register window. -/
theorem lt_of_pageOf (hp : pageOf pg = some (k, n)) : pg < 0x1000000 := by
  by_contra h
  have hbeyond : ∀ m ≤ 0xE00, ¬ pg / 0x1000 < m := by omega
  have hother : ∀ m < 0xE00, pg / 0x1000 ≠ m := by omega
  simp [pageOf, hbeyond, hother] at hp

/-- An offset within a page leads to the page's base and itself. -/
theorem page_add_mod (hpg : pg % 0x1000 = 0) (hoff : off < 0x1000) : (pg + off) % 0x1000 = off := by omega

/-- Every word of a page lies on the page. -/
theorem pageOf_add (hpg : pg % 0x1000 = 0) (hoff : off < 0x1000) : pageOf (pg + off) = pageOf pg := by
  have hdiv : (pg + off) / 0x1000 = pg / 0x1000 := by omega
  simp only [pageOf, hdiv]

end

/-! The resets of PAGE_OWNER (R91). -/

/-- PAGE_OWNER resets to the management domain, with SHARED_READ where it is fixed at 1. -/
theorem wordReset_pageOwner {pg n : Nat} {k : PageKind} (hpg : pg % 0x1000 = 0) (hp : pageOf pg = some (k, n)) :
    wordReset (pg + 0xF00) = BitVec.ofNat 32 (0x3F + 0x100 * b2n (sharedFixed k)) := by
  have hlt := lt_of_pageOf hp
  have htable : tableReset fieldsOWN 0xF00 = 0x3F := by decide
  have hfields : fieldsAt k 0xF00 = fieldsOWN := rfl
  have hspecial : specialReset k n 0xF00 0x3F = 0x3F + 0x100 * b2n (sharedFixed k) := rfl
  rw [wordReset_of_pageOf (by omega) ((pageOf_add hpg (by decide)).trans hp), page_add_mod hpg (by decide), hfields, htable,
    hspecial]

/-- Settles O7: both fields lie in the word that `wordReset_pageOwner` gives. -/
theorem pagesResetToTheManagementDomain : Obligations.PagesResetToTheManagementDomain := by
  intro pg n k hpg hp
  have hword : State.reset.word (pg + 0xF00) = BitVec.ofNat 32 (0x3F + 0x100 * b2n (sharedFixed k)) :=
    (word_reset _).trans (wordReset_pageOwner hpg hp)
  have howner : fldOff F.OWN_PAGE_OWNER_OWNER 0 0 = 0xF00 := rfl
  have hshared : fldOff F.OWN_PAGE_OWNER_SHARED_READ 0 0 = 0xF00 := rfl
  constructor
  · rw [State.owner, State.rd, howner, hword]
    cases sharedFixed k <;> rfl
  · rw [State.flag, State.rd, hshared, hword]
    cases k <;> decide

/-! Completion from a command's own effect, where the ladder is evaluated after it (R177). -/

section
variable {c : Instr} {own eff : State → State}

theorem completesEval_of_exec_liveP {pre : State → Prop} (hc : ∀ s, exec c s = liveP s own)
    (he : ∀ s, pre s → own s = eff s) : CompletesEval c pre eff := by
  intro s hs hpre
  rw [hc s, liveP_next s own hs, he s hpre]

/-- A command that is a checked register write. -/
theorem writeCompletesEval_of_exec_liveP {req a : Nat} (hc : ∀ s, exec c s = liveP s (regWrite req a own))
    (he : ∀ s, own s = eff s) : WriteCompletesEval c req a eff :=
  completesEval_of_exec_liveP hc fun s hok => by rw [regWrite_ok s req a own hok, he s]

end

/-! Blocks that come to rest (R80). -/

/-- A page without an engine of its own settles; the tile, head and pipeline pages show their own states. -/
theorem blockQuiescedEffect_settles {pg : Nat} {s : State}
    (h : ∃ k n, pageOf pg = some (k, n) ∧ k ∉ [PageKind.tile, .dh, .isp]) : blockQuiescedEffect pg s = settle pg s := by
  obtain ⟨k, n, hp, hk⟩ := h
  simp only [List.mem_cons, List.not_mem_nil, or_false, not_or] at hk
  obtain ⟨htile, hdh, hisp⟩ := hk
  unfold blockQuiescedEffect
  rw [hp]
  split
  case h_1 heq => cases heq
  case h_2 heq => cases heq; exact absurd rfl htile
  case h_3 heq => cases heq; exact absurd rfl hdh
  case h_4 heq => cases heq; exact absurd rfl hisp
  case h_5 => rfl

/-- Settles O13: each command is a checked write with its register's effect, or the block's report that it has come to rest. -/
theorem pageHeaderCommandsComplete : Obligations.PageHeaderCommandsComplete := by
  intro req pg v
  refine ⟨?enable, ?quiesce, ?quiesced, ?irqClear, ?irqForce, ?snap, ?owner, ?lock, ?faultClear⟩
  case enable => exact writeCompletesEval_of_exec_liveP (fun _ => rfl) fun _ => rfl
  case quiesce => exact writeCompletesEval_of_exec_liveP (fun _ => rfl) fun _ => rfl
  case quiesced => exact completesEval_of_exec_liveP (fun _ => rfl) fun _ => blockQuiescedEffect_settles
  case irqClear => exact writeCompletes_of_exec_live (fun _ => rfl) fun _ => rfl
  case irqForce => exact writeCompletes_of_exec_live (fun _ => rfl) fun _ => rfl
  case snap => exact writeCompletes_of_exec_live (fun _ => rfl) fun _ => rfl
  case owner => exact writeCompletes_of_exec_live (fun _ => rfl) fun _ => rfl
  case lock => exact writeCompletes_of_exec_live (fun _ => rfl) fun _ => rfl
  case faultClear => exact writeCompletes_of_exec_live (fun _ => rfl) fun _ => rfl

/-! Plain register writes (R72, R81). -/

/-- REGISTER_WRITE_PLAIN out of reset: the write of the window or of a function's block, and then the ladder is evaluated. -/
theorem exec_registerWritePlain (req a : Nat) (v : Word) (s : State) (hs : s.chip.inReset = false) :
    exec (.registerWritePlain req a v) s =
      .next (powerEval ((if a < 0x1000000 then windowWrite s.chipNum req a v else barWrite a v) s)) := by
  calc exec (.registerWritePlain req a v) s
      = liveP s (if a < 0x1000000 then windowWrite s.chipNum req a v else barWrite a v) := rfl
    _ = _ := liveP_next s _ hs

/-- Settles O14: an address below 0x100_0000 goes to the window, where a plain word is written as the checks find, and any other
to a function's block or MSI-X table. -/
theorem registerWritesComplete : Obligations.RegisterWritesComplete := by
  intro req a v
  refine ⟨fun ha => ?window, fun ha hr hc => ?plain, fun ha => ?bar⟩
  case window =>
    intro s hs _
    rw [exec_registerWritePlain req a v s hs, if_pos ha]
  case plain =>
    intro s hs hok
    rw [exec_registerWritePlain_window s req a v hs ha hr hc, regWrite_ok s req a _ hok]
  case bar =>
    intro s hs _
    rw [exec_registerWritePlain req a v s hs, if_neg (Nat.not_lt.mpr ha)]

end Sys2Proof.Machine
end

