-- ==== Sys2Proof/Proofs/PageFault.lean ====
section
/-! PROOF. The fault record of a page (03 R92): the first fault after a clear writes PAGE_FAULT and FAULT_MET and is logged, a
later one is counted; what either leaves as it was. -/
namespace Sys2Proof.Machine
open Sys2Proof

/-! Fields under writes and under logging. -/

/-- Two writes of a page's fields do not meet when the fields lie in different words of the page. -/
theorem rd_wr_otherWord (s : State) (pg : Nat) (f : Fld) (v i b : Nat) (f' : Fld) (i' b' : Nat)
    (h : fldOff f' i' b' ≠ fldOff f i b) : (s.wr pg f v i b).rd pg f' i' b' = s.rd pg f' i' b' :=
  rd_wr_other s pg f v i b pg f' i' b' (by omega)

/-- A field of a word that logging leaves reads as before. -/
theorem LogFrame.rd_eq {s t : State} (h : LogFrame s t) {pg : Nat} {f : Fld} {i b : Nat}
    (hw : logWord (pg + fldOff f i b) = false) : t.rd pg f i b = s.rd pg f i b := by
  simp only [State.rd, h.2 _ hw]

/-- Logging leaves the ownership area and the long-operation window of every page. -/
theorem logWord_page {pg n off : Nat} {k : PageKind} (hpg : pg % 0x1000 = 0) (hp : pageOf pg = some (k, n))
    (hoff : off < 0x1000) (harea : 0xF00 ≤ off ∨ (0x40 ≤ off ∧ off < 0x60)) : logWord (pg + off) = false := by
  have hlt := lt_of_pageOf hp
  have hwin : ¬ 0x1000000 ≤ pg + off := by omega
  have hmod : (pg + off) % 0x1000 = off := page_add_mod hpg hoff
  rcases harea with h | ⟨hlo, hhi⟩
  · simp [logWord, hwin, hmod, h]
  · simp [logWord, hwin, hmod, hlo, hhi]

/-- Every page's family gives codes of class INFO. -/
theorem familyOf_code_lt (k : PageKind) : familyOf k * 0x100 + 0xF0 < 0x5000 := by cases k <;> decide

/-! The record. -/

section
variable (pg cause req off : Nat) (write : Bool) (s : State)

/-- PAGE_FAULT as a first fault writes it. -/
def faultWord : State :=
  ((((s.wr pg F.OWN_PAGE_FAULT_CAUSE cause).wr pg F.OWN_PAGE_FAULT_REQUESTER req).wr pg F.OWN_PAGE_FAULT_WRITE (b2n write)).wr pg
    F.OWN_PAGE_FAULT_OFFSET off).wr pg F.OWN_PAGE_FAULT_COUNT 1

/-- PAGE_FAULT and FAULT_MET as a first fault writes them. -/
def faultRecord : State :=
  (faultWord pg cause req off write s).wr64 pg F.OWN_FAULT_MET_LO_MET F.OWN_FAULT_MET_HI_MET
    (faultWord pg cause req off write s).met

/-- The words of the record. -/
def faultWords : List Nat := [pg + 0xF08, pg + 0xF10, pg + 0xF14]

theorem faultWord_met : (faultWord pg cause req off write s).met = s.met := by
  rw [faultWord, wr_met, wr_met, wr_met, wr_met, wr_met]

theorem word_faultWord_other {a : Nat} (ha : a ≠ pg + 0xF08) : (faultWord pg cause req off write s).word a = s.word a := by
  rw [faultWord, word_wr_other _ _ F.OWN_PAGE_FAULT_COUNT _ _ _ ha, word_wr_other _ _ F.OWN_PAGE_FAULT_OFFSET _ _ _ ha,
    word_wr_other _ _ F.OWN_PAGE_FAULT_WRITE _ _ _ ha, word_wr_other _ _ F.OWN_PAGE_FAULT_REQUESTER _ _ _ ha,
    word_wr_other _ _ F.OWN_PAGE_FAULT_CAUSE _ _ _ ha]

theorem word_faultRecord_other {a : Nat} (ha : a ∉ faultWords pg) : (faultRecord pg cause req off write s).word a = s.word a := by
  simp only [faultWords, List.mem_cons, List.not_mem_nil, or_false, not_or] at ha
  obtain ⟨hfault, hlo, hhi⟩ := ha
  rw [faultRecord, State.wr64, word_wr_other _ _ F.OWN_FAULT_MET_HI_MET _ _ _ hhi,
    word_wr_other _ _ F.OWN_FAULT_MET_LO_MET _ _ _ hlo, word_faultWord_other pg cause req off write s hfault]

theorem faultRecord_regs_only : { faultRecord pg cause req off write s with regs := s.regs } = s := by
  simp only [faultRecord, faultWord, State.wr64, wr_with_regs]

/-- The fields of a page's fault record hold a fault, the first since a clear, at a tick. -/
def RecordsFault (t : State) (met : Nat) : Prop :=
  t.rd pg F.OWN_PAGE_FAULT_COUNT = 1 ∧ t.rd pg F.OWN_PAGE_FAULT_CAUSE = cause ∧ t.rd pg F.OWN_PAGE_FAULT_REQUESTER = req ∧
  t.flag pg F.OWN_PAGE_FAULT_WRITE = write ∧ t.rd pg F.OWN_PAGE_FAULT_OFFSET = off ∧
  t.rd64 pg F.OWN_FAULT_MET_LO_MET F.OWN_FAULT_MET_HI_MET = met % 2 ^ 64

/-- Operands that fit their fields are what the record holds. -/
theorem recordsFault_faultRecord (hcause : cause < 16) (hreq : req < 64) (hoff : off < 0x1000) :
    RecordsFault pg cause req off write (faultRecord pg cause req off write s) s.met := by
  rw [faultRecord, faultWord_met]
  simp (disch := decide) only [RecordsFault, faultWord, State.flag, State.rd64, State.wr64, rd_wr_otherWord,
    rd_wr_beside, rd_wr_same]
  have hwrite : (b2n write % 2 ^ 1 == 1) = write := by cases write <;> rfl
  have hmet : s.met % 2 ^ 32 + s.met / 2 ^ 32 % 2 ^ 32 * 2 ^ 32 = s.met % 2 ^ 64 := by omega
  exact ⟨rfl, Nat.mod_eq_of_lt hcause, Nat.mod_eq_of_lt hreq, hwrite, Nat.mod_eq_of_lt hoff, hmet⟩

end

/-! Faults. -/

section
variable {pg n off cause req : Nat} {k : PageKind} {write : Bool} {s : State}

/-- A first fault is recorded and logged. -/
theorem pageFault_first (hp : pageOf pg = some (k, n)) (hcount : s.rd pg F.OWN_PAGE_FAULT_COUNT = 0) :
    pageFault pg cause req write off s =
      logEv pg (familyOf k * 0x100 + 0xF0) (faultRecord pg cause req off write s)
        ((faultRecord pg cause req off write s).word (pg + 0xF08)).toNat := by
  rw [pageFault, if_pos hcount, hp, faultRecord, faultWord]

/-- A later fault is counted. -/
theorem pageFault_later (hcount : s.rd pg F.OWN_PAGE_FAULT_COUNT ≠ 0) :
    pageFault pg cause req write off s = s.bump pg F.OWN_PAGE_FAULT_COUNT := if_neg hcount

/-- Of a first fault's state, the words that logging leaves are the record's. -/
theorem logFrame_pageFault_first (hp : pageOf pg = some (k, n)) (hcount : s.rd pg F.OWN_PAGE_FAULT_COUNT = 0) :
    LogFrame (faultRecord pg cause req off write s) (pageFault pg cause req write off s) := by
  rw [pageFault_first hp hcount]
  exact logFrame_logEv _ _ _ _ _ _ (familyOf_code_lt k)

/-- A fault leaves every word but the record's and the logs'. -/
theorem word_pageFault_other (hp : pageOf pg = some (k, n)) {a : Nat} (hlog : logWord a = false) (ha : a ∉ faultWords pg) :
    (pageFault pg cause req write off s).word a = s.word a := by
  by_cases hcount : s.rd pg F.OWN_PAGE_FAULT_COUNT = 0
  · rw [(logFrame_pageFault_first hp hcount).2 a hlog, word_faultRecord_other pg cause req off write s ha]
  · have hfault : a ≠ pg + fldOff F.OWN_PAGE_FAULT_COUNT 0 0 := fun h => ha (h ▸ List.mem_cons_self)
    rw [pageFault_later hcount, word_bump_other s _ _ _ _ _ hfault]

/-- Logging leaves a fault record. -/
theorem RecordsFault.of_logFrame {t u : State} {met : Nat} (hpg : pg % 0x1000 = 0) (hp : pageOf pg = some (k, n))
    (hr : RecordsFault pg cause req off write t met) (hl : LogFrame t u) : RecordsFault pg cause req off write u met := by
  have hrd {f : Fld} (hlo : 0xF00 ≤ fldOff f 0 0) (hhi : fldOff f 0 0 < 0x1000) : u.rd pg f = t.rd pg f :=
    hl.rd_eq (logWord_page hpg hp hhi (.inl hlo))
  simp (disch := decide) only [RecordsFault, State.flag, State.rd64, hrd]
  exact hr

/-- A first fault is what the record then holds. -/
theorem recordsFault_pageFault (hpg : pg % 0x1000 = 0) (hp : pageOf pg = some (k, n)) (hcause : cause < 16) (hreq : req < 64)
    (hoff : off < 0x1000) (hcount : s.rd pg F.OWN_PAGE_FAULT_COUNT = 0) :
    RecordsFault pg cause req off write (pageFault pg cause req write off s) s.met :=
  (recordsFault_faultRecord pg cause req off write s hcause hreq hoff).of_logFrame hpg hp (logFrame_pageFault_first hp hcount)

/-- A later fault counts up to the greatest value. -/
theorem count_pageFault_later (hcount : s.rd pg F.OWN_PAGE_FAULT_COUNT ≠ 0) :
    (pageFault pg cause req write off s).rd pg F.OWN_PAGE_FAULT_COUNT = min 255 (s.rd pg F.OWN_PAGE_FAULT_COUNT + 1) := by
  rw [pageFault_later hcount]
  exact rd_bump_same s pg F.OWN_PAGE_FAULT_COUNT 1 0 0 (by decide)

/-- A fault is counted, whether it is the first or not. -/
theorem count_pageFault (hpg : pg % 0x1000 = 0) (hp : pageOf pg = some (k, n)) (hcause : cause < 16) (hreq : req < 64)
    (hoff : off < 0x1000) :
    (pageFault pg cause req write off s).rd pg F.OWN_PAGE_FAULT_COUNT = min 255 (s.rd pg F.OWN_PAGE_FAULT_COUNT + 1) := by
  by_cases hcount : s.rd pg F.OWN_PAGE_FAULT_COUNT = 0
  · obtain ⟨hone, -⟩ := recordsFault_pageFault (write := write) hpg hp hcause hreq hoff hcount
    rw [hone, hcount]
    rfl
  · exact count_pageFault_later hcount

/-- A later fault leaves the rest of the word. -/
theorem rd_pageFault_later (hcount : s.rd pg F.OWN_PAGE_FAULT_COUNT ≠ 0) {f : Fld} (hword : fldOff f 0 0 = 0xF08)
    (hbelow : fldBit f 0 + f.wid ≤ 24) : (pageFault pg cause req write off s).rd pg f = s.rd pg f := by
  rw [pageFault_later hcount]
  exact rd_wr_beside s pg F.OWN_PAGE_FAULT_COUNT _ 0 0 f 0 0 hword (by decide) (.inl hbelow)

end

/-- Settles O53: the first fault's state is the record, logged; a later fault counts alone. -/
theorem pageFaultKeepsTheFirstRecord : Obligations.PageFaultKeepsTheFirstRecord := by
  intro s pg cause req off n write k hpg hp hcause hreq hoff
  refine ⟨fun hcount => ?first, fun hcount => ?later⟩
  case first =>
    have hlog := logFrame_pageFault_first (cause := cause) (req := req) (off := off) (write := write) hp hcount
    obtain ⟨hn, hc, hr, hw, ho, hm⟩ := recordsFault_pageFault (write := write) hpg hp hcause hreq hoff hcount
    exact ⟨hn, hc, hr, hw, ho, hm, faultRecord pg cause req off write s, pageFault_first hp hcount,
      (hlog.2 _ (logWord_page hpg hp (by decide) (.inl (by decide)))).symm, faultRecord_regs_only pg cause req off write s,
      fun a ha => word_faultRecord_other pg cause req off write s ha⟩
  case later =>
    refine ⟨count_pageFault_later hcount, rd_pageFault_later hcount rfl (by decide), rd_pageFault_later hcount rfl (by decide),
      rd_pageFault_later hcount rfl (by decide), rd_pageFault_later hcount rfl (by decide), ?_, fun a ha => ?_⟩
    · rw [pageFault_later hcount, bump_with_regs]
    · rw [pageFault_later hcount]
      exact word_bump_other s _ _ _ _ _ ha

end Sys2Proof.Machine
end

