-- ==== Sys2Proof/Proofs/LongOperation.lean ====
section
/-! PROOF. The commands of the long-operation state machine (03 R94-R100, Table 3.9): where each completes, and what a rejected
one leaves as it was. -/
namespace Sys2Proof.Machine
open Sys2Proof

/-! What a write of LOP_CMD does (R96). -/

section
variable (req pg : Nat)

/-- A CMD that names no command is rejected. -/
theorem lopCmd_invalid {v : Nat} (hv : 5 ≤ v % 16 ∨ v % 16 = 0) : lopCmd req pg v = lopReject req pg := by
  unfold lopCmd
  split
  case h_1 h => omega
  case h_2 h => omega
  case h_3 h => omega
  case h_4 h => omega
  case h_5 => rfl

/-- CMD = 1 with a code in OP starts that operation. -/
theorem lopCmd_start {op : Nat} (hop : op < 256) : lopCmd req pg (1 + op % 2 ^ 8 * 2 ^ 8) = lopStartOp req pg op := by
  have hcmd : (1 + op % 2 ^ 8 * 2 ^ 8) % 16 = 1 := by omega
  have hcode : (1 + op % 2 ^ 8 * 2 ^ 8) / 2 ^ 8 % 2 ^ 8 = op := by omega
  simp only [lopCmd, hcmd, hcode]

end

/-- Settles O16: each command is the write of LOP_CMD with its own CMD. -/
theorem longOperationCommandsComplete : Obligations.LongOperationCommandsComplete := by
  intro req pg op v
  refine ⟨fun hv => ?invalid, fun hop => ?start, ?suspend, ?resume, ?cancel⟩
  case invalid => exact writeCompletesEval_of_exec_liveP (fun _ => rfl) (congrFun (lopCmd_invalid req pg hv))
  case start => exact writeCompletesEval_of_exec_liveP (fun _ => rfl) (congrFun (lopCmd_start req pg hop))
  case suspend => exact writeCompletesEval_of_exec_liveP (fun _ => rfl) fun _ => rfl
  case resume => exact writeCompletesEval_of_exec_liveP (fun _ => rfl) fun _ => rfl
  case cancel => exact writeCompletesEval_of_exec_liveP (fun _ => rfl) fun _ => rfl

/-! The base of a page with operations (Table 3.1, Table 3.8). -/

/-- The window offset of a page by its kind and its number among them, for the kinds that have operations. -/
def lopPageBase : PageKind → Nat → Option Nat
  | .chip, _ => some pgCHIP
  | .boot, _ => some pgBOOT
  | .flash, _ => some pgFLASH
  | .lic, _ => some pgLIC
  | .part, _ => some pgPART
  | .mcu, n => some (pgMCU n)
  | .lx, n => some (pgLX n)
  | .blt, _ => some pgBLT
  | _, _ => none

/-- A page of one of these kinds lies at its base: the first sixteen pages by the table, the others range by range. -/
theorem eq_lopPageBase_of_pageOf {pg n base : Nat} {k : PageKind} (hpg : pg % 0x1000 = 0) (hp : pageOf pg = some (k, n))
    (hb : lopPageBase k n = some base) : pg = base := by
  obtain ⟨m, rfl⟩ : ∃ m, pg = m * 0x1000 := ⟨pg / 0x1000, by omega⟩
  by_cases hlow : m < 0x10
  · interval_cases m <;> cases hp <;> cases hb <;> rfl
  · rw [pageOf, Nat.mul_div_cancel _ (by decide), if_neg hlow] at hp
    -- one condition of `pageOf` at a time
    iterate 21
      obtain ⟨_, hp⟩ | ⟨_, hp⟩ := ite_eq_iff.1 hp
      · cases hp <;> cases hb <;> simp only [pgMCU, pgLX, pgBLT] <;> omega
    cases hp

/-! Commands that Table 3.9 rejects. -/

section
variable {req pg n op : Nat} {k : PageKind} {s : State}

/-- A START while an operation is active is rejected, whatever would carry it on. -/
theorem wakeStart_lopStart_active (b b' : Bool) (run : State → State) (h : s.lopActive pg = true) :
    wakeStart pg b (lopStart req pg op b' run) s = lopReject req pg s := by
  simp [wakeStart, lopStart, h]

/-- So is one of an operation that the page lacks. -/
theorem lopStartUnknown_active (h : s.lopActive pg = true) : lopStartUnknown req pg op s = lopReject req pg s := if_pos h

/-- So is every START of a page. -/
theorem lopStartOp_active (hpg : pg % 0x1000 = 0) (h : s.lopActive pg = true) :
    lopStartOp req pg op s = lopReject req pg s := by
  have hbase {k : PageKind} {n base : Nat} (hp : pageOf pg = some (k, n)) (hb : lopPageBase k n = some base) :=
    eq_lopPageBase_of_pageOf hpg hp hb
  generalize hstart : lopStartOp req pg op = start
  unfold lopStartOp at hstart
  split at hstart <;> subst hstart
  case h_15 => exact lopStartUnknown_active h
  all_goals
    next hp =>
    obtain rfl := hbase hp rfl
    exact wakeStart_lopStart_active _ _ _ h

/-- SUSPEND of an operation that is not active, is being cancelled, or runs and cannot be suspended. -/
theorem lopSuspend_rejected (h : s.lop pg = 0 ∨ 4 ≤ s.lop pg ∨ (s.lop pg = 1 ∧ (lopTraits s pg).1 = false)) :
    lopSuspend req pg s = lopReject req pg s := by
  have hheld : ¬ s.lop pg = lopSUSPENDING ∧ ¬ s.lop pg = lopSUSPENDED := by
    simp only [lopSUSPENDING, lopSUSPENDED]
    omega
  obtain ⟨hsuspending, hsuspended⟩ := hheld
  rw [← or_assoc] at h
  obtain hst | ⟨-, htraits⟩ := h
  · have hrunning : ¬ s.lop pg = lopRUNNING := by
      simp only [lopRUNNING]
      omega
    simp [lopSuspend, hsuspending, hsuspended, hrunning]
  · simp [lopSuspend, hsuspending, hsuspended, htraits]

/-- RESUME of an operation that is neither suspended nor about to be. -/
theorem lopResume_rejected (h2 : s.lop pg ≠ 2) (h3 : s.lop pg ≠ 3) : lopResume req pg s = lopReject req pg s := by
  have hsuspending : ¬ s.lop pg = lopSUSPENDING := h2
  have hsuspended : ¬ s.lop pg = lopSUSPENDED := h3
  simp [lopResume, hsuspending, hsuspended]

/-- CANCEL of an operation that is not active, is being cancelled already, or cannot be. -/
theorem lopCancel_rejected (h : s.lop pg = 0 ∨ 4 ≤ s.lop pg ∨ (lopTraits s pg).2 = false) :
    lopCancel req pg s = lopReject req pg s := by
  rw [← or_assoc] at h
  obtain hst | htraits := h
  · have hidle : ¬ s.lop pg = lopRUNNING ∧ ¬ s.lop pg = lopSUSPENDING ∧ ¬ s.lop pg = lopSUSPENDED := by
      simp only [lopRUNNING, lopSUSPENDING, lopSUSPENDED]
      omega
    obtain ⟨hrunning, hsuspending, hsuspended⟩ := hidle
    simp [lopCancel, hrunning, hsuspending, hsuspended]
  · simp [lopCancel, htraits]

/-- A write of the header or of the long-operation window does not mark CUSTOM (R81). -/
theorem customMark_below {off : Nat} (h : off < 0x100) : customMark req pg off s = s := by
  unfold customMark
  split
  case h_1 => rfl
  case h_2 => simp [Nat.not_le.mpr h]

/-- A completed write of LOP_CMD that is rejected does nothing else. -/
theorem exec_of_lopReject {i : Instr} {eff : State → State} (hw : WriteCompletesEval i req (pg + 0x40) eff)
    (hpg : pg % 0x1000 = 0) (hs : s.chip.inReset = false) (hok : checkWrite s req (pg + 0x40) = .ok)
    (he : eff s = lopReject req pg s) : exec i s = .next (powerEval (lopReject req pg s)) := by
  calc exec i s
      = .next (powerEval (customMark req (pg + 0x40 - (pg + 0x40) % 0x1000) ((pg + 0x40) % 0x1000) (eff s))) := hw s hs hok
    _ = .next (powerEval (lopReject req pg s)) := by
      rw [page_add_mod hpg (by decide), customMark_below (by decide), he]

/-- A rejection leaves LOP_STATE, LOP_PROGRESS and LOP_RESULT. -/
theorem word_lopReject (hpg : pg % 0x1000 = 0) (hp : pageOf pg = some (k, n)) {off : Nat} (hoff : off ∈ [0x54, 0x58, 0x5C]) :
    (lopReject req pg s).word (pg + off) = s.word (pg + off) := by
  have hwindow : 0x40 ≤ off ∧ off < 0x60 := by
    simp only [List.mem_cons, List.not_mem_nil, or_false] at hoff
    omega
  obtain ⟨hlo, hhi⟩ := hwindow
  refine word_pageFault_other hp (logWord_page hpg hp (by omega) (.inr ⟨hlo, hhi⟩)) ?_
  simp only [faultWords, List.mem_cons, List.not_mem_nil, or_false]
  omega

end

/-- Settles O58: each of the commands completes with a rejection, which is a fault of the page (R96). -/
theorem rejectedOperationCommandsChangeNothing : Obligations.RejectedOperationCommandsChangeNothing := by
  intro s req pg n op v k i hs hpg hp hok hreq hi
  obtain ⟨hinvalid, hstart, hsuspend, hresume, hcancel⟩ := longOperationCommandsComplete req pg op v
  refine ⟨?next, fun off hoff => word_lopReject hpg hp hoff, fun hcount => ?record, ?count⟩
  case next =>
    obtain ⟨rfl, hv⟩ | ⟨rfl, hop, hlo, hhi⟩ | ⟨rfl, h⟩ | ⟨rfl, h2, h3⟩ | ⟨rfl, h⟩ := hi
    · exact exec_of_lopReject (hinvalid hv.symm) hpg hs hok rfl
    · have hactive : s.lopActive pg = true := by simp [State.lopActive, hlo, hhi]
      exact exec_of_lopReject (hstart hop) hpg hs hok (lopStartOp_active hpg hactive)
    · exact exec_of_lopReject hsuspend hpg hs hok (lopSuspend_rejected h)
    · exact exec_of_lopReject hresume hpg hs hok (lopResume_rejected h2 h3)
    · exact exec_of_lopReject hcancel hpg hs hok (lopCancel_rejected h)
  case record =>
    obtain ⟨-, hcause, hrequester, -⟩ :=
      recordsFault_pageFault (cause := causeLop) (off := 0x40) (write := true) hpg hp (by decide) hreq (by decide) hcount
    exact ⟨hcause, hrequester⟩
  case count => exact count_pageFault hpg hp (by decide) hreq (by decide)

end Sys2Proof.Machine
end

