-- ==== Sys2Proof/Proofs/CommandOutcomes.lean ====
section
/-! PROOF. What a command answers (04 R104, R107): every command but those of pins, supplies, reference clocks, SMBus and JTAG
has its effect out of reset alone; those others end no reset, apart from RESET_RELEASE. -/
namespace Sys2Proof.Machine
open Sys2Proof

/-! Answering a next state. -/

/-- An outcome is a next state, and one of a kind. -/
def AnswersWith (P : State → Prop) (o : Host.Outcome State Fault Refusal) : Prop := ∃ t, o = .next t ∧ P t

section
variable {P : State → Prop}

theorem answersWith_next {t : State} (h : P t) : AnswersWith P (.next t) := ⟨t, rfl, h⟩

theorem answersWith_ite {c : Prop} [Decidable c] {a b : Host.Outcome State Fault Refusal}
    (ha : c → AnswersWith P a) (hb : ¬ c → AnswersWith P b) : AnswersWith P (if c then a else b) := by
  by_cases hc : c
  · rw [if_pos hc]; exact ha hc
  · rw [if_neg hc]; exact hb hc

theorem answersWith_live {s : State} {own : State → State} (hin : s.chip.inReset = true → P s)
    (hout : ¬ s.chip.inReset = true → P (own s)) : AnswersWith P (live s own) :=
  answersWith_ite (fun hs => answersWith_next (hin hs)) fun hs => answersWith_next (hout hs)

end

/-- Every command but those of `pinCommand` answers the state as it is in reset, and a next state out of it. -/
theorem exec_ignored_in_reset {c : Instr} (hc : pinCommand c = false) (s : State) :
    ∃ t, exec c s = if s.chip.inReset then .next s else .next t := by
  cases c
  case pwrOkRise | pwrOkFall | resetNAssert | resetRelease | supplyToleranceDetect | perstNAssert | perstNRelease | refclkSysLoss
    | refclkLnkLoss | pcieRefclkLoss | smbReadChipId | smbReadChipStep | smbReadBootStatus | smbReadTj | smbReadPwrStatus
    | smbReadChipNum | smbOther | jtagBypass | jtagIdcode | jtagSamplePreload | jtagExtest => cases hc
  all_goals exact ⟨_, rfl⟩

/-- Settles O9: a command of any other kind has its effect out of reset alone. -/
theorem commandsInResetChangeNothing : Obligations.CommandsInResetChangeNothing := by
  intro c s hs hc
  obtain ⟨t, ht⟩ := exec_ignored_in_reset hc s
  rw [ht, if_pos hs]

/-- The commands of pins, supplies, clocks, SMBus and JTAG answer a next state on each of their branches. -/
theorem exec_pinCommand_answers {c : Instr} (hc : pinCommand c = true) (s : State) :
    AnswersWith (fun _ => True) (exec c s) := by
  have hnext : ∀ t, AnswersWith (fun _ => True) (.next t) := fun _ => answersWith_next trivial
  have hlive : ∀ (u : State) own, AnswersWith (fun _ => True) (live u own) := fun _ _ =>
    answersWith_live (fun _ => trivial) fun _ => trivial
  cases c
  case pwrOkRise | pwrOkFall | supplyToleranceDetect | perstNRelease | smbReadChipId | smbReadChipStep | smbReadBootStatus
    | smbReadTj | smbReadPwrStatus | smbReadChipNum | smbOther | jtagBypass | jtagIdcode | jtagSamplePreload | jtagExtest =>
    exact hnext _
  case resetNAssert => exact answersWith_ite (fun _ => hnext _) fun _ => answersWith_ite (fun _ => hnext _) fun _ => hnext _
  case resetRelease => exact answersWith_ite (fun _ => hnext _) fun _ => hnext _
  case perstNAssert => exact answersWith_ite (fun _ => hnext _) fun _ => answersWith_ite (fun _ => hlive _ _) fun _ => hnext _
  case refclkSysLoss => exact answersWith_ite (fun _ => hnext _) fun _ => answersWith_ite (fun _ => hnext _) fun _ => hnext _
  case refclkLnkLoss => exact answersWith_ite (fun _ => hnext _) fun _ => hlive _ _
  case pcieRefclkLoss => exact answersWith_ite (fun _ => hnext _) fun _ => hlive _ _
  all_goals cases hc

/-- Settles O4: the commands of `pinCommand` on each branch, every other in reset and out of it. That an unmet precondition
leaves the state, and still answers a next one, is the model's choice (log 5). -/
theorem everyCommandAnswersANextState : Obligations.EveryCommandAnswersANextState := by
  intro c s
  have hanswers : AnswersWith (fun _ => True) (exec c s) := by
    cases hc : pinCommand c with
    | true => exact exec_pinCommand_answers hc s
    | false =>
      obtain ⟨t, ht⟩ := exec_ignored_in_reset hc s
      rw [ht]
      exact answersWith_ite (fun _ => answersWith_next trivial) fun _ => answersWith_next trivial
  obtain ⟨t, ht, -⟩ := hanswers
  exact ⟨t, ht⟩

/-! Counter clears. -/

/-- A checked write that clears counters with bit 0, and without it does nothing, completes as a counter clear. -/
theorem clearCompletes_of_exec_live {c : Word → Instr} {own : Word → State → State} {req a : Nat} {words : List Nat}
    {also : State → State} (hc : ∀ v s, exec (c v) s = live s (regWrite req a (own v)))
    (hset : ∀ v s, bitOf v.toNat 0 = true → own v s = also (s.zeroWords words))
    (hnot : ∀ v s, bitOf v.toNat 0 = false → own v s = s) : ClearCompletes c req a words also :=
  fun v => ⟨fun hv => writeCompletes_of_exec_live (hc v) fun s => hset v s hv,
    fun hv => writeCompletes_of_exec_live (hc v) fun s => hnot v s hv⟩

/-! A chip held in reset. -/

section
variable {flash : Fmap Byte} {fuses : Fuses} {s : State}

/-- The condition reads four parts of the state: whether it is in reset, the queue, the flash devices and the fuses. -/
theorem heldInReset_of_eq {t : State} (h : HeldInReset flash fuses s) (hreset : t.chip.inReset = s.chip.inReset)
    (hpending : t.pending = s.pending) (hflash : t.flash = s.flash) (hfuses : t.fuses = s.fuses) :
    HeldInReset flash fuses t := by
  unfold HeldInReset
  rw [hreset, hpending, hflash, hfuses]
  exact h

theorem heldInReset_ite {c : Prop} [Decidable c] {t u : State} (ht : HeldInReset flash fuses t)
    (hu : HeldInReset flash fuses u) : HeldInReset flash fuses (if c then t else u) := by
  split
  · exact ht
  · exact hu

/-- A further source joins those that hold the reset (R104). -/
theorem heldInReset_enterReset (src code : Nat) (h : HeldInReset flash fuses s) :
    HeldInReset flash fuses (enterReset src code s) := by
  unfold enterReset
  rw [if_pos h.1]
  exact heldInReset_of_eq h rfl rfl rfl rfl

theorem heldInReset_powerLost (h : HeldInReset flash fuses s) : HeldInReset flash fuses (powerLost s) := by
  unfold powerLost
  rw [if_pos h.1]
  exact heldInReset_of_eq h rfl rfl rfl rfl

theorem heldInReset_powerGood (h : HeldInReset flash fuses s) : HeldInReset flash fuses (powerGood s) :=
  heldInReset_of_eq h h.1.symm rfl rfl rfl

/-- In reset every pin, supply, clock, SMBus or JTAG command but RESET_RELEASE leads to such a state again. -/
theorem heldInReset_exec_pinCommand {c : Instr} (hc : pinCommand c = true) (hrelease : ∀ b, c ≠ .resetRelease b)
    (h : HeldInReset flash fuses s) : AnswersWith (HeldInReset flash fuses) (exec c s) := by
  have hreset : s.chip.inReset = true := h.1
  cases c
  case resetRelease b => exact absurd rfl (hrelease b)
  case perstNRelease | smbReadChipId | smbReadChipStep | smbReadBootStatus | smbReadTj | smbReadPwrStatus | smbReadChipNum
    | smbOther | jtagBypass | jtagIdcode => exact answersWith_next (heldInReset_of_eq h rfl rfl rfl rfl)
  case jtagSamplePreload | jtagExtest =>
    exact answersWith_next (heldInReset_ite (heldInReset_of_eq h rfl rfl rfl rfl) (heldInReset_of_eq h rfl rfl rfl rfl))
  case pwrOkRise te loc =>
    exact answersWith_next (heldInReset_ite (heldInReset_powerGood (heldInReset_of_eq h rfl rfl rfl rfl))
      (heldInReset_of_eq h rfl rfl rfl rfl))
  case pwrOkFall => exact answersWith_next (heldInReset_powerLost (heldInReset_of_eq h rfl rfl rfl rfl))
  case supplyToleranceDetect low =>
    exact answersWith_next (heldInReset_ite (heldInReset_powerLost (heldInReset_of_eq h rfl rfl rfl rfl))
      (heldInReset_ite (heldInReset_powerGood (heldInReset_of_eq h rfl rfl rfl rfl)) (heldInReset_of_eq h rfl rfl rfl rfl)))
  case resetNAssert us =>
    refine answersWith_ite (fun _ => answersWith_next h) fun _ => answersWith_ite (fun _ => answersWith_next ?long) fun _ =>
      answersWith_next (heldInReset_ite ?short ?none)
    case none => exact heldInReset_of_eq h rfl rfl rfl rfl
    all_goals exact heldInReset_enterReset _ _ (heldInReset_of_eq h rfl rfl rfl rfl)
  case perstNAssert =>
    refine answersWith_ite (fun _ => answersWith_next ?off) fun _ => answersWith_ite (fun hlink => ?link) fun _ =>
      answersWith_next ?reset
    case off => exact heldInReset_of_eq h rfl rfl rfl rfl
    case link => simp [hreset] at hlink
    case reset => exact heldInReset_enterReset _ _ (heldInReset_of_eq h rfl rfl rfl rfl)
  case refclkSysLoss | refclkLnkLoss =>
    exact answersWith_ite (fun _ => answersWith_next (heldInReset_of_eq h rfl rfl rfl rfl)) fun hout => absurd hreset hout
  case pcieRefclkLoss =>
    exact answersWith_ite (fun _ => answersWith_next (heldInReset_of_eq h rfl rfl rfl rfl)) fun _ =>
      answersWith_live (fun _ => heldInReset_of_eq h rfl rfl rfl rfl) fun hout => absurd hreset hout
  all_goals cases hc

/-- In reset every command but RESET_RELEASE does so. -/
theorem heldInReset_exec {c : Instr} (hrelease : ∀ b, c ≠ .resetRelease b) (h : HeldInReset flash fuses s) :
    AnswersWith (HeldInReset flash fuses) (exec c s) := by
  cases hc : pinCommand c with
  | true => exact heldInReset_exec_pinCommand hc hrelease h
  | false =>
    rw [commandsInResetChangeNothing c s h.1 hc]
    exact answersWith_next h

/-- A tick in reset leaves the state. -/
theorem heldInReset_tick (h : HeldInReset flash fuses s) : HeldInReset flash fuses (tick s) := by
  unfold tick
  rw [if_pos h.1]
  exact h

/-- So does a step: the command at the front is not RESET_RELEASE, and no other one behind it is. -/
theorem heldInReset_step (h : HeldInReset flash fuses s) : AnswersWith (HeldInReset flash fuses) (step s) := by
  obtain ⟨hreset, hpending, hflash, hfuses⟩ := h
  unfold step
  cases hp : s.pending with
  | nil => exact answersWith_next (heldInReset_tick ⟨hreset, hpending, hflash, hfuses⟩)
  | cons c rest =>
    rw [hp] at hpending
    exact heldInReset_exec (hpending c List.mem_cons_self)
      ⟨hreset, fun i hi => hpending i (List.mem_cons_of_mem c hi), hflash, hfuses⟩

end

/-- Settles O8: the invariant is kept by every command but RESET_RELEASE, hence by a step of a queue without one. That the chip
stays in reset until that command is log 80. -/
theorem resetHoldsUntilReleased : Obligations.ResetHoldsUntilReleased := by
  intro flash fuses s t h hstep
  obtain ⟨u, hu, hheld⟩ := heldInReset_step h
  rw [hu] at hstep
  cases hstep
  exact hheld

/-- Settles O6: every part is empty, as log 2 and log 4 have it, and the empty map is canonical. -/
theorem resetStateIsEmptyAndCanonical : Obligations.ResetStateIsEmptyAndCanonical :=
  ⟨rfl, rfl, rfl, rfl, rfl, rfl, rfl, rfl, rfl⟩

end Sys2Proof.Machine
end

