-- ==== Sys2Proof/Proofs/ResetSources.lean ====
section
/-! PROOF. The sources of a reset (04 R104-R111, R116, 16 R464): the pins, RESET_CMD with its key, the remote request and the
watchdog. -/
namespace Sys2Proof.Machine
open Sys2Proof

variable (s : State)

/-! Entering reset. -/

/-- A source that becomes active is among the sources from then on. -/
theorem mem_sources_added (l : List Nat) (src : Nat) : src ∈ if l.contains src then l else l ++ [src] := by
  split
  case isTrue h => exact List.contains_iff_mem.mp h
  case isFalse => exact List.mem_append_right l (List.mem_singleton_self src)

/-- After a reset source has become active the chip is in reset, and the source holds it. -/
theorem enterReset_holds (src code : Nat) :
    (enterReset src code s).chip.inReset = true ∧ src ∈ (enterReset src code s).chip.sources := by
  refine ⟨?_, mem_sources_added _ src⟩
  change (if s.chip.inReset then s else resetBody s).chip.inReset = true
  split
  case isTrue h => exact h
  case isFalse => rfl

/-! RESET_N (R106). -/

/-- A pulse shorter than 1 µs, or without power, is ignored. -/
theorem exec_resetNAssert_ignored {us : Nat} (h : s.powered = false ∨ us < 1) : exec (.resetNAssert us) s = .next s :=
  if_pos (by simpa using h)

/-- The reset by RESET_N, with the pin low. -/
def resetByPin (s : State) : State := enterReset 2 0 { s with chip := { s.chip with resetN := false } }

/-- With power, a pulse of 10 µs or longer resets, and for one from 1 µs on a free choice decides (log 3). -/
theorem exec_resetNAssert_taken {us : Nat} (hp : s.powered = true) (hus : 1 ≤ us) :
    exec (.resetNAssert us) s = if 10 ≤ us then .next (resetByPin s)
      else .next (if s.choose.1 then resetByPin s.choose.2 else s.choose.2) := by
  refine if_neg ?_
  simp only [hp, Bool.not_true, Bool.false_or, decide_eq_true_eq]
  omega

/-- The pulses that always reset. -/
theorem exec_resetNAssert_long {us : Nat} (hp : s.powered = true) (hus : 10 ≤ us) :
    exec (.resetNAssert us) s = .next (resetByPin s) := by
  rw [exec_resetNAssert_taken s hp (by omega), if_pos hus]

/-- The pulses between, by the choice. -/
theorem exec_resetNAssert_between {us : Nat} (hp : s.powered = true) (hlo : 1 ≤ us) (hhi : us < 10) :
    exec (.resetNAssert us) s = .next (if s.choose.1 then resetByPin s.choose.2 else s.choose.2) := by
  rw [exec_resetNAssert_taken s hp hlo, if_neg (Nat.not_le.mpr hhi)]

/-- Settles O51: by the length of the pulse. Between 1 and 10 µs R143 permits either, and the choice is free (log 3); PWR_OK
counts as low while a supply is out of tolerance (R735). -/
theorem resetPinPulses : Obligations.ResetPinPulses := by
  intro s us
  refine ⟨fun h => exec_resetNAssert_ignored s ?_, fun hus hp => ?_, fun hlo hhi hp => ?_⟩
  · obtain hus | hok | hp := h
    · exact .inr hus
    · exact .inl (by simp [State.powered, hok])
    · exact .inl hp
  · exact ⟨_, exec_resetNAssert_long s hp hus, enterReset_holds _ 2 0⟩
  · refine ⟨_, exec_resetNAssert_between s hp hlo hhi, ?_⟩
    cases s.choose.1 with
    | true => exact .inr (enterReset_holds _ 2 0)
    | false => exact .inl rfl

/-! RESET_CMD (R108). -/

/-- The mark CUSTOM stays as it is on a page without expert registers (R81). -/
theorem customMark_of_no_expert {req pg off n : Nat} {k : PageKind} (hp : pageOf pg = some (k, n)) (hk : hasExpert k = false) :
    customMark req pg off s = s := by
  simp [customMark, hp, hk]

/-- Both commands are the same write of RESET_CMD. -/
theorem exec_resetCmd {req : Nat} {v : Word} {i : Instr} (hi : i ∈ [Instr.resetCmdWarm req v, .resetCmdCold req v])
    (hs : s.chip.inReset = false) : exec i s = .next (regWrite req (pgCHIP + 0x130) (resetCmd req v.toNat) s) := by
  simp only [List.mem_cons, List.not_mem_nil, or_false] at hi
  obtain rfl | rfl := hi
  · exact live_next s _ hs
  · exact live_next s _ hs

/-- Where the checks pass, the write has RESET_CMD's effect alone. -/
theorem regWrite_resetCmd {req v : Nat} (hok : checkWrite s req (pgCHIP + 0x130) = .ok) :
    regWrite req (pgCHIP + 0x130) (resetCmd req v) s = resetCmd req v s := by
  rw [regWrite_ok s req _ _ hok]
  exact customMark_of_no_expert _ (k := .chip) (n := 0) (by decide) rfl

/-- What RESET_CMD does for the management domain, by KEY and ACTION. -/
theorem resetCmd_mgmt (v : Nat) : resetCmd mgmt v s =
    if v % 0x10000 = 0xC0DE ∧ v / 0x10000 % 4 = 1 then enterReset 4 0 s
    else if v % 0x10000 = 0xC0DE ∧ v / 0x10000 % 4 = 2 then enterReset 3 0 s
    else logEv pgCHIP 0x0002 s v := by
  have haction : getBits v 16 2 = v / 0x10000 % 4 := rfl
  simp only [resetCmd, ne_eq, not_true_eq_false, if_false, Bool.and_eq_true, decide_eq_true_eq, haction]

/-- The checks pass on a register beyond PAGE_CAPS, of an available page without expert registers, that Table 3.4 admits. -/
theorem checkWrite_ok {req a n : Nat} {k : PageKind} (hp : pageOf a = some (k, n)) (hk : hasExpert k = false)
    (hsv : served s req (a - a % 0x1000) = true) (hmay : mayWrite s req (a - a % 0x1000) (a % 0x1000) = true)
    (hoff : 8 ≤ a % 0x1000) (hav : s.avail (a - a % 0x1000) = true) (hused : usedOffset k (a % 0x1000) = true) :
    checkWrite s req a = .ok := by
  simp only [checkWrite, hp, hsv, hmay, hav, hused, hk, Bool.not_true, Bool.false_eq_true, if_false,
    if_neg (Nat.not_lt.mpr hoff), Bool.and_false, Bool.false_and]

/-- Once the boot is DONE, a requester other than the management domain is denied, or owns the page and passes the checks. -/
theorem checkWrite_resetCmd {req : Nat} (hreq : req ≠ mgmt) (hd : s.done = true)
    (hav : req = s.owner pgCHIP → s.avail pgCHIP = true) :
    checkWrite s req (pgCHIP + 0x130) = .denied ∨ checkWrite s req (pgCHIP + 0x130) = .ok := by
  have hp : pageOf (pgCHIP + 0x130) = some (.chip, 0) := by decide
  have hsv := served_of_done s req pgCHIP hd
  by_cases ho : req = s.owner pgCHIP
  · have hmay : mayWrite s req pgCHIP 0x130 = true := by simp [mayWrite, ← ho]
    exact .inr (checkWrite_ok s hp rfl hsv hmay (by decide) (hav ho) (by decide))
  · exact .inl ((checkWrite_denied_iff s req _ hp hsv).mpr ((mayWrite_eq_false_iff s req _ _).mpr ⟨hreq, .inl ho⟩))

/-- Settles O49: the write is RESET_CMD's effect where the checks pass; the record of any other requester, and its count in
PART.DENY, are those of R90, R92 and R674, and the same whether the checks or the register deny it. -/
theorem resetCommandNeedsItsKey : Obligations.ResetCommandNeedsItsKey := by
  intro s req v i hi hs
  rw [exec_resetCmd s hi hs]
  refine ⟨fun hreq hok => ?_, fun hreq hd hav => ?_⟩
  · subst hreq
    rw [regWrite_resetCmd s hok, resetCmd_mgmt]
  · obtain hden | hok := checkWrite_resetCmd s hreq hd hav
    · rw [regWrite_denied s req _ _ hden]
      rfl
    · rw [regWrite_resetCmd s hok]
      exact congrArg _ (if_pos hreq)

/-! Release and the other sources (R104-R107, R116, R742). -/

/-- RESET_RELEASE acts once a source has put a powered chip in reset and none holds it any more (R107, R744). -/
theorem exec_resetRelease {low : Bool} (hs : s.chip.inReset = true) (hp : s.powered = true) (hte : s.chip.testEn = false)
    (htrip : s.pwr.tripped = false) (hsrc : s.chip.sources ≠ []) (hperst : 5 ∉ s.chip.sources ∨ s.chip.perstN = true) :
    exec (.resetRelease low) s = .next (leaveReset low s) := by
  have hheld : 5 ∈ s.chip.sources → s.chip.perstN = true := fun h => hperst.resolve_left (not_not_intro h)
  exact if_neg (by simpa [hs, hp, hte, htrip, hsrc] using hheld)

/-- The loss of REFCLK_SYS out of reset (R742). -/
theorem completes_refclkSysLoss : Completes (.refclkSysLoss false) (fun _ => True) fun s =>
    raiseEv pgCHIP 0x4020 mgmt { s with chip := { s.chip with refSys := false } } := by
  intro s hs _
  exact (if_neg (Bool.eq_false_iff.mp hs)).trans (if_neg Bool.false_ne_true)

/-- The watchdog runs out while it is armed and has a period (R116). -/
theorem completes_watchdogExpire :
    Completes .watchdogExpire (fun s => s.chip.wdogOn = true ∧ s.rd pgCHIP F.CHIP_WDOG_CTRL_PERIOD ≠ 0)
      (fun s => enterReset (if s.done then 7 else 8) 0 s) :=
  completes_of_exec_live (fun _ => rfl) fun _ ⟨hon, hperiod⟩ => if_pos (by simp [hon, hperiod])

/-- Settles O17: each input by its own branch. -/
theorem resetInputsComplete : Obligations.ResetInputsComplete := by
  intro s te low loc us req v
  refine ⟨rfl, rfl, rfl, exec_resetNAssert_long s, fun hkey haction => ?warm, fun hkey haction => ?cold,
    completes_watchdogExpire, ?kick, exec_resetRelease s, completes_refclkSysLoss⟩
  case warm =>
    refine writeCompletes_of_exec_live (fun _ => rfl) fun s => ?_
    rw [resetCmd_mgmt, if_pos ⟨hkey, haction⟩]
  case cold =>
    have hwarm : v.toNat / 0x10000 % 4 ≠ 1 := fun h => absurd (h.symm.trans haction) (by decide)
    refine writeCompletes_of_exec_live (fun _ => rfl) fun s => ?_
    rw [resetCmd_mgmt, if_neg fun h => hwarm h.2, if_pos ⟨hkey, haction⟩]
  case kick => exact writeCompletes_of_exec_live (fun _ => rfl) fun _ => rfl

/-! The remote request (R109, R464). -/

/-- Settles O50: the condition decides; the counter and the event are those of R464. -/
theorem remoteResetOnlyFromTheConductor : Obligations.RemoteResetOnlyFromTheConductor := by
  intro s src tc hs
  calc exec (.resetReqReceive src tc) s
      = live s fun s =>
          if tc = 7 && conductorOf s == some src && s.flag pgCHIP F.CHIP_RESET_CFG_REMOTE_EN then enterReset 9 0 s
          else logEv pgFAB 0x2669 (s.bump pgFAB F.FAB_COUNTS2_RESET_REFUSED) src := rfl
    _ = _ := by
      rw [live_next s _ hs]
      simp [and_assoc]

end Sys2Proof.Machine
end

