-- ==== Sys2Proof/Proofs/BootCommands.lean ====
section
/-! PROOF. The steps of a boot and of TILE_BIST, and the MGC page (04 R113-R141, 06 R175): each completes in the stage that it
belongs to. -/
namespace Sys2Proof.Machine
open Sys2Proof

/-! The tasks of a boot (R113). -/

/-- BOOT_TASK_COMPLETE has the effect of its task. -/
theorem completes_bootTask {k : BootTask} {pre : State → Prop} {eff : State → State}
    (he : ∀ s, pre s → bootTaskCompleteEffect k s = eff s) : Completes (.bootTaskComplete k) pre eff :=
  completes_of_exec_live (fun _ => rfl) he

section
variable {s : State}

theorem bootTaskCompleteEffect_links (hb : s.chip.booting = true) (hst : s.rd pgCHIP F.CHIP_BOOT_STATUS_STAGE = 5)
    (ht : tasksSet s [1] = false) : bootTaskCompleteEffect .links s = bootAdvance (taskDone 1 s) := by
  simp [bootTaskCompleteEffect, hb, hst, ht]

theorem bootTaskCompleteEffect_coreUp (ok : Bool) (hb : s.chip.booting = true)
    (hst : s.rd pgCHIP F.CHIP_BOOT_STATUS_STAGE = 4) :
    bootTaskCompleteEffect (.coreUp ok) s = if ok then bootAdvance (coreUp s) else bootHalt 0x82 s := by
  simp [bootTaskCompleteEffect, hb, hst]

theorem bootTaskCompleteEffect_internal (hb : s.chip.booting = true) :
    bootTaskCompleteEffect .internal s = bootHalt 0x8F s := by
  simp [bootTaskCompleteEffect, hb]

/-! The sequencer image (R127-R129). -/

variable {t n : Nat} {crc : Word}

theorem seqImageAckEffect_wrong (hw : fget (fun _ => SeqLoad.unsent) s.chip.seqLoad t = .waiting n)
    (hcrc : crc.toNat ≠ s.rd pgCHIP F.CHIP_SEQ_CRC_CRC) (hn : n < 2) : seqImageAckEffect t crc s = seqResend t n s := by
  simp only [seqImageAckEffect, hw, if_neg hcrc, if_pos hn]

theorem seqImageAckEffect_stray (ha : fget (fun _ => SeqLoad.unsent) s.chip.seqLoad t = .acked) :
    seqImageAckEffect t crc s = s.bump pgCHIP F.CHIP_SEQ_ACK_STRAY := by
  simp only [seqImageAckEffect, ha]

theorem seqImageAckEffect_right (hw : fget (fun _ => SeqLoad.unsent) s.chip.seqLoad t = .waiting n)
    (hcrc : crc.toNat = s.rd pgCHIP F.CHIP_SEQ_CRC_CRC) :
    seqImageAckEffect t crc s =
      (let u := tileFresh t ((setSeq t .acked s).bump pgCHIP F.CHIP_SEQ_ACK_ACKED)
       bootAdvance (if seqAllAcked u then u.wr pgPWR F.PWR_STATUS_TILES_READY 1 else u)) := by
  simp only [seqImageAckEffect, hw, if_pos hcrc]

end

/-- Settles O18: each step by its own effect, in the stage or the load state that it belongs to. -/
theorem bootCommandsComplete : Obligations.BootCommandsComplete := by
  intro t n req crc up failed
  refine ⟨?links, ?coreUp, ?coreFail, ?internal, ?wrongCrc, ?stray, ?ack, ?ackTimeout, ?topo, ?bist, ?batch, ?reload, ?ethLink,
    ?ethError, ?ethDrop, ?mgcClear⟩
  case links => exact completes_bootTask fun s ⟨hb, hst, ht⟩ => bootTaskCompleteEffect_links hb hst ht
  case coreUp =>
    exact completes_bootTask fun s ⟨hb, hst⟩ => (bootTaskCompleteEffect_coreUp true hb hst).trans (if_pos rfl)
  case coreFail =>
    exact completes_bootTask fun s ⟨hb, hst⟩ => (bootTaskCompleteEffect_coreUp false hb hst).trans (if_neg Bool.false_ne_true)
  case internal => exact completes_bootTask fun s hb => bootTaskCompleteEffect_internal hb
  case wrongCrc =>
    exact completes_of_exec_live (fun _ => rfl) fun s ⟨hw, hcrc, hn⟩ => seqImageAckEffect_wrong hw hcrc hn
  case stray => exact completes_of_exec_live (fun _ => rfl) fun s ha => seqImageAckEffect_stray ha
  case ack => exact completes_of_exec_live (fun _ => rfl) fun s ⟨hw, hcrc⟩ => seqImageAckEffect_right hw hcrc
  case ackTimeout => exact completes_of_exec_live (fun _ => rfl) fun s hw => by simp only [hw]
  case topo => exact completes_of_exec_live (fun _ => rfl) fun s ⟨hb, hst⟩ => if_pos (by simp [hb, hst])
  case bist => exact writeCompletesEval_of_exec_liveP (fun _ => rfl) fun _ => rfl
  case batch => exact completesEval_of_exec_liveP (fun _ => rfl) fun _ _ => rfl
  case reload => exact completes_of_exec_live (fun _ => rfl) fun s ⟨hd, hl⟩ => if_pos (by simp [hd, hl])
  case ethLink => exact completes_of_exec_live (fun _ => rfl) fun s hne => if_neg hne
  case ethError => exact completes_of_exec_live (fun _ => rfl) fun _ _ => if_pos rfl
  case ethDrop =>
    exact completes_of_exec_live (fun _ => rfl) fun _ _ => (if_neg Bool.false_ne_true).trans (if_pos rfl)
  case mgcClear =>
    exact clearCompletes_of_exec_live (fun _ _ => rfl) (fun _ _ hv => if_pos hv) fun _ _ hv => if_neg (by simp [hv])

end Sys2Proof.Machine
end

