-- ==== Sys2Proof/Proofs/PcieLink.lean ====
section
/-! PROOF. The PCIe link and its functions (04 R110, 22 R636-R639, R655, R659-R662): PERST_N, the link, configuration requests,
the moderation of vectors and function level reset. -/
namespace Sys2Proof.Machine
open Sys2Proof

section
variable (s : State)

/-! PERST_N (R110, R660). -/

/-- The state with PERST_N low. -/
def perstLow (s : State) : State := { s with chip := { s.chip with perstN := false } }

@[simp] theorem perstLow_powered : (perstLow s).powered = s.powered := rfl

/-- PERST_N falling on a powered chip resets it (R110), -/
theorem exec_perstNAssert_reset (hp : s.powered = true) (ha : s.rd pgCHIP F.CHIP_RESET_CFG_PERST_ACTION ≠ 1) :
    exec .perstNAssert s = .next (enterReset 5 0 (perstLow s)) := by
  have hon : ¬ (!(perstLow s).powered) = true := by simp [hp]
  exact (if_neg hon).trans (if_neg (by simp [ha]))

/-- unless PERST_ACTION keeps that to the link and the functions (R660). -/
theorem exec_perstNAssert_link (hp : s.powered = true) (hs : s.chip.inReset = false)
    (ha : s.rd pgCHIP F.CHIP_RESET_CFG_PERST_ACTION = 1) :
    exec .perstNAssert s = .next (powerEval
      (((List.range 33).foldl (fun s f => fnReset f s) (linkDown (perstLow s))).wr pgHIF F.HIF_LINK_STATUS_NUM_VFS 0)) := by
  have hon : ¬ (!(perstLow s).powered) = true := by simp [hp]
  exact ((if_neg hon).trans (if_pos (by simp [ha, hs]))).trans (liveP_next (perstLow s) _ hs)

end

/-! The reference clock (R742). -/

/-- The loss of the PCIe reference clock takes the link down. -/
theorem completesEval_pcieRefclkLoss : CompletesEval (.pcieRefclkLoss false) (fun _ => True)
    (fun s => linkDown { s with chip := { s.chip with refPcie := false } }) := fun s hs _ =>
  liveP_next { s with chip := { s.chip with refPcie := false } } linkDown hs

/-! The moderation of vectors (R655). -/

/-- A vector's interval ends: it is busy no longer, and no message of it waits. -/
def msiIdle (id : Nat) (s : State) : State :=
  { s with msi := { s.msi with busy := s.msi.busy.erase id, coal := s.msi.coal.erase id } }

/-- The coalesced message is sent, where there is one. -/
theorem msixModerationEndEffect_busy {s : State} {fn v : Nat} (hb : s.msi.busy.contains (fn * 256 + v) = true) :
    msixModerationEndEffect fn v s =
      if s.msi.coal.contains (fn * 256 + v) then msixRaise fn v (msiIdle (fn * 256 + v) s) else msiIdle (fn * 256 + v) s :=
  if_pos hb

/-- Settles O19: each command by its own effect, where its condition holds. -/
theorem pcieCommandsComplete : Obligations.PcieCommandsComplete := by
  intro speed fn tag v n req flit en mask w
  refine ⟨fun s hp _ => exec_perstNAssert_reset s hp, fun s hp hs => exec_perstNAssert_link s hp hs, fun _ => rfl, ?linkUp,
    ?recovery, ?linkDown, ?trainingFail, completesEval_pcieRefclkLoss, ?numVfs,
    fun s hs _ _ => ⟨live_next s _ hs, live_next s _ hs⟩,
    ?idle, ?coalesced, ?flr, ?flrComplete, ?fnClear, ?hifClear⟩
  case linkUp =>
    exact completes_of_exec_live (fun _ => rfl) fun s ⟨hdown, hperst, href⟩ => if_neg (by simp [hdown, hperst, href])
  case recovery => exact completes_of_exec_live (fun _ => rfl) fun s ⟨hup, hslow⟩ => if_pos (by simp [hup, hslow])
  case linkDown => exact completesEval_of_exec_liveP (fun _ => rfl) fun _ _ => rfl
  case trainingFail => exact completes_of_exec_live (fun _ => rfl) fun s hdown => if_neg (by simp [hdown])
  case numVfs => exact completes_of_exec_live (fun _ => rfl) fun s ⟨hperst, hup⟩ => if_neg (by simp [hperst, hup])
  case idle =>
    exact completes_of_exec_live (fun _ => rfl) fun s ⟨hb, hc⟩ =>
      (msixModerationEndEffect_busy hb).trans (if_neg (Bool.eq_false_iff.mp hc))
  case coalesced =>
    exact completes_of_exec_live (fun _ => rfl) fun s ⟨hb, hc⟩ => (msixModerationEndEffect_busy hb).trans (if_pos hc)
  case flr => exact completesEval_of_exec_liveP (fun _ => rfl) fun s ⟨hfn, hno⟩ => if_neg (by simpa [hfn] using hno)
  case flrComplete => exact completesEval_of_exec_liveP (fun _ => rfl) fun _ _ => rfl
  case fnClear => exact completes_of_exec_live (fun _ => rfl) fun s hserved => if_pos hserved
  case hifClear =>
    exact clearCompletes_of_exec_live (fun _ _ => rfl) (fun _ _ hv => if_pos hv) fun _ _ hv => if_neg (by simp [hv])

end Sys2Proof.Machine
end

