-- ==== Sys2Proof/Proofs/FabricRequests.lean ====
section
/-! PROOF. Requests of the fabric (16 R454-R485, 06 R190, R191): events and orders, REST, the mailbox, the switches, and the
timers of the conductor. -/
namespace Sys2Proof.Machine
open Sys2Proof

/-! Work of the fabric manager. -/

/-- While the manager runs, a command's own effect is followed by what it can do at once. -/
theorem fabDo_on (own : State → State) {s : State} (hon : fabOn s = true) :
    fabDo own s = fabPump (fabSettle 4096 (fabOut (own s))) := if_pos hon

/-- A message or timer of the manager completes with any effect that says what its own does where its condition holds. -/
theorem fabCompletes_of_exec_fabDo {c : Instr} {pre : State → Prop} {own eff : State → State}
    (hc : ∀ s, exec c s = liveP s (fabDo own)) (he : ∀ s, pre s → own s = eff s) : FabCompletes c pre eff :=
  completesEval_of_exec_liveP hc fun s ⟨hon, hpre⟩ => by rw [fabDo_on own hon, he s hpre]

/-- A message that is not stale is taken (R455). -/
theorem unlessStale_current {h : FabHdr} {s : State} (f : State → State) (hcur : Current h s) : unlessStale h f s = f s :=
  if_neg (Bool.eq_false_iff.mp hcur)

/-- An order of the recorded conductor is carried out and acknowledged (R455). -/
theorem orderIn_conductor {h : FabHdr} {s : State} (o : FabOrder) (hcon : conductorOf s = some h.src) :
    orderIn h o s = fabSend h.src (.orderAck h.seq) (orderDo o s) :=
  if_pos (by simp [hcon])

/-! Register writes that the manager carries on from (R190, R191, R465). -/

/-- A write whose checks pass, by the base and the offset of its register. -/
theorem regWrite_page_ok {s : State} {req pg off : Nat} (eff : State → State) (hpg : pg % 0x1000 = 0) (hoff : off < 0x1000)
    (hok : checkWrite s req (pg + off) = .ok) : regWrite req (pg + off) eff s = customMark req pg off (eff s) := by
  have hmod : (pg + off) % 0x1000 = off := by omega
  rw [regWrite_ok s req _ eff hok, hmod, Nat.add_sub_cancel]

/-- Such a write completes with its own effect, the mark CUSTOM, and what the manager can do at once. -/
theorem completesEval_fabWrite {c : Instr} {req pg off : Nat} {own eff : State → State} (hpg : pg % 0x1000 = 0)
    (hoff : off < 0x1000) (hc : ∀ s, exec c s = liveP s fun s => fabDo id (regWrite req (pg + off) own s))
    (he : ∀ s, own s = eff s) :
    CompletesEval c (fun s => checkWrite s req (pg + off) = .ok) fun s => fabDo id (customMark req pg off (eff s)) :=
  completesEval_of_exec_liveP hc fun s hok => by rw [regWrite_page_ok own hpg hoff hok, he s]

/-- Every request of the mailbox is the same write of MBX_CMD. -/
theorem exec_fabMbx (req : Nat) (v : Word) : ∀ c ∈ [Instr.fabMbxQuery req v, .fabMbxChangeover req v, .fabMbxCancel req v,
    .fabMbxAdmit req v, .fabMbxResetChip req v, .fabMbxRecircuit req v, .fabMbxUnknown req v],
    ∀ s, exec c s = liveP s (mbxCmd req v) := by
  intro c hc s
  simp only [List.mem_cons, List.not_mem_nil, or_false] at hc
  obtain rfl | rfl | rfl | rfl | rfl | rfl | rfl := hc <;> rfl

/-! Timers of the conductor. -/

theorem completes_fabSwitchSettleEnd (r : FabRun) :
    FabCompletes .fabSwitchSettleEnd (fun s => s.fab.run = some r ∧ r.step = 4 ∧ r.phase = 2)
      (modRun fun r => { r with phase := 3 }) :=
  fabCompletes_of_exec_fabDo (fun _ => rfl) fun s ⟨hrun, hstep, hphase⟩ => by simp [hrun, hstep, hphase]

theorem completes_fabStepLimitTimeout (chip : Nat) (r : FabRun) :
    FabCompletes (.fabStepLimitTimeout chip)
      (fun s => s.fab.run = some r ∧ 2 ≤ r.step ∧ (changeOf r.req).limit ≠ 0 ∧ r.waits.contains chip = true)
      (fabFail 9 chip) :=
  fabCompletes_of_exec_fabDo (fun _ => rfl) fun s ⟨hrun, hstep, hlimit, hwaits⟩ => by
    simp only [hrun, hstep, hlimit, hwaits, decide_true, ne_eq, not_false_eq_true, Bool.true_or, Bool.and_self, if_true]

theorem completes_fabRecircuitTimer (p : Plan) :
    FabCompletes .fabRecircuitTimer
      (fun s => s.plan = some p ∧ s.isConductor = true ∧ s.rd pgFAB F.FAB_SW_TIMING_RECIRCUIT_S ≠ 0 ∧ swReady s = true)
      (fun s => dgramsFor true (recircuits s p) s) :=
  fabCompletes_of_exec_fabDo (fun _ => rfl) fun s ⟨hplan, hcon, htime, hsw⟩ => by
    simp only [hplan, hcon, htime, hsw, decide_true, ne_eq, not_false_eq_true, Bool.and_self, if_true]

theorem completes_fabRecomputeDone (us : Nat) :
    FabCompletes (.fabRecomputeDone us) (fun s => s.isConductor = true ∧ s.fab.recompute = true ∧ s.fab.run = none)
      (recomputeEnd us) :=
  fabCompletes_of_exec_fabDo (fun _ => rfl) fun s ⟨hcon, hdue, hrun⟩ => by
    simp only [hcon, hdue, hrun, Bool.and_self, if_true]

/-- The request in the mailbox is answered NO_CONDUCTOR, with a free DETAIL (R467, log 3). -/
theorem completes_fabNoConductorTimeout (q : FabReq) :
    CompletesEval .fabNoConductorTimeout (fun s => s.fab.mbx = some q)
      (fun s => mbxAnswer q.tag 8 (s.free 32).1 (s.free 32).2) :=
  completesEval_of_exec_liveP (fun _ => rfl) fun s hq => by simp only [hq]

/-- Settles O26: each command by its own effect. The DETAIL of a NO_CONDUCTOR answer is free (log 3). -/
theorem fabricRequestCommandsComplete : Obligations.FabricRequestCommandsComplete := by
  intro src req tag result detail sw seq term chip us h e o v sts r p q
  refine ⟨?reset, ?event, ?order, ?orderAck, fun hv => ?rest, fun hv => ?restEnd, fun c hc => ?mailbox, ?answer, ?switch,
    ?switchTimeout, completes_fabSwitchSettleEnd r, completes_fabStepLimitTimeout chip r, completes_fabNoConductorTimeout q,
    completes_fabRecircuitTimer p, completes_fabRecomputeDone us, fun w => ⟨fun hw => ?clear, fun hw => ?noClear⟩⟩
  case reset =>
    intro s hs ⟨hcon, hremote⟩
    rw [remoteResetOnlyFromTheConductor s src 7 hs, if_pos ⟨rfl, hcon, hremote⟩]
  case event => exact fabCompletes_of_exec_fabDo (fun _ => rfl) fun s hcur => unlessStale_current _ hcur
  case order =>
    exact fabCompletes_of_exec_fabDo (fun _ => rfl) fun s ⟨hcur, hcon⟩ =>
      (unlessStale_current _ hcur).trans (orderIn_conductor o hcon)
  case orderAck => exact fabCompletes_of_exec_fabDo (fun _ => rfl) fun s hcur => unlessStale_current _ hcur
  case rest => exact completesEval_fabWrite rfl (by decide) (fun _ => rfl) fun _ => if_pos hv
  case restEnd => exact completesEval_fabWrite rfl (by decide) (fun _ => rfl) fun _ => if_neg (by simp [hv])
  case mailbox => exact completesEval_fabWrite rfl (by decide) (exec_fabMbx req v c hc) fun _ => rfl
  case answer => exact completesEval_of_exec_liveP (fun _ => rfl) fun s hbusy => by simp only [mbxAnswer, if_pos hbusy, wr_met]
  case switch => exact fabCompletes_of_exec_fabDo (fun _ => rfl) fun _ _ => rfl
  case switchTimeout => exact fabCompletes_of_exec_fabDo (fun _ => rfl) fun _ _ => rfl
  case clear => exact writeCompletesEval_of_exec_liveP (fun _ => rfl) fun _ => if_pos hw
  case noClear => exact writeCompletesEval_of_exec_liveP (fun _ => rfl) fun _ => if_neg (by simp [hw])

end Sys2Proof.Machine
end

