-- ==== Sys2Proof/Proofs/FlashAndBoot.lean ====
section
/-! PROOF. Flash (05 R144-R167): what a program and an erase do to the bytes of a device, and where the commands of the FLASH,
BOOT and LIC pages complete. -/
namespace Sys2Proof.Machine
open Sys2Proof

/-! The bytes of a device (R144, R147). -/

/-- A range whose every byte is the same reads as that byte repeated. -/
theorem mread_eq_replicate {d : Nat → Byte} {m : Fmap Byte} {v : Byte} {a n : Nat}
    (h : ∀ k, a ≤ k → k < a + n → fget d m k = v) : mread d m a n = List.replicate n v := by
  induction n generalizing a with
  | zero => rfl
  | succ n ih =>
    have hfirst : fget d m a = v := h a (by omega) (by omega)
    have hrest : mread d m (a + 1) n = List.replicate n v := ih fun k hlo hhi => h k (by omega) (by omega)
    rw [mread, hfirst, hrest, List.replicate_succ]

/-- An address outside a range of a device has its key outside the range's keys. -/
theorem flashKey_outside (dev : Nat) {a b n : Nat} (h : b < a ∨ a + n ≤ b) :
    ¬ (flashKey dev a ≤ flashKey dev b ∧ flashKey dev b < flashKey dev a + n) := by
  simp only [flashKey]; omega

section
variable (s : State) (dev a n : Nat) (bs : List Byte)

/-- A read of one byte is what the sparse map holds at its key. -/
theorem flashRead_one (b : Nat) : s.flashRead dev b 1 = [fget flashBlank s.flash (flashKey dev b)] := rfl

/-- A device is programmed with its old bytes, the bits that are 0 in the new ones cleared. -/
def State.flashCleared (s : State) (dev a : Nat) (bs : List Byte) : List Byte :=
  List.zipWith (· &&& ·) (s.flashRead dev a bs.length) bs

@[simp] theorem flashCleared_length : (s.flashCleared dev a bs).length = bs.length := by
  simp [State.flashCleared, State.flashRead]

/-- Programming writes those bytes. -/
theorem flashProgram_flash :
    (s.flashProgram dev a bs).flash = mwrite flashBlank s.flash (flashKey dev a) (s.flashCleared dev a bs) := rfl

/-- A programmed range reads as those bytes. -/
theorem flashRead_flashProgram_same : (s.flashProgram dev a bs).flashRead dev a bs.length = s.flashCleared dev a bs := by
  have hread := mread_mwrite_same flashBlank s.flash (flashKey dev a) (s.flashCleared dev a bs)
  rwa [flashCleared_length] at hread

/-- A byte outside it reads as before. -/
theorem flashRead_flashProgram_outside {b : Nat} (h : b < a ∨ a + bs.length ≤ b) :
    (s.flashProgram dev a bs).flashRead dev b 1 = s.flashRead dev b 1 := by
  rw [flashRead_one, flashRead_one, flashProgram_flash, fget_mwrite, flashCleared_length, if_neg (flashKey_outside dev h)]

/-- An erased range reads 0xFF. -/
theorem flashRead_flashErase_same : (s.flashErase dev a n).flashRead dev a n = List.replicate n 0xFF :=
  mread_eq_replicate fun k hlo hhi => (fget_mclear flashBlank s.flash _ n k).trans (if_pos ⟨hlo, hhi⟩)

/-- A byte outside it reads as before. -/
theorem flashRead_flashErase_outside {b : Nat} (h : b < a ∨ a + n ≤ b) :
    (s.flashErase dev a n).flashRead dev b 1 = s.flashRead dev b 1 := by
  rw [flashRead_one, flashRead_one, State.flashErase, fget_mclear, if_neg (flashKey_outside dev h)]

end

/-- Settles O12, from the laws of sparse byte maps. That programming clears bits alone is the model's presumption (log 9). -/
theorem flashProgramsAndErases : Obligations.FlashProgramsAndErases := by
  intro s dev a bs n
  exact ⟨flashRead_flashProgram_same s dev a bs, fun _ => flashRead_flashProgram_outside s dev a bs,
    flashRead_flashErase_same s dev a n, fun _ => flashRead_flashErase_outside s dev a n⟩

/-! A device that stays busy (R151). -/

/-- An operation fails with TIMEOUT after the units that it has done. -/
def lopTimeout (pg : Nat) (s : State) : State := lopFail pg resTIMEOUT (s.rd pg F.LOP_LOP_PROGRESS_DONE % 2 ^ 20) s

/-- A command of a BOOT or LIC operation that the device stays busy on ends the operation. -/
theorem completesEval_flashDeviceTimeout_other (k : Nat) :
    CompletesEval (.flashDeviceTimeout k) (fun s => k ≠ 0 ∧ s.lopHolds (qspiPage k) = true) (lopTimeout (qspiPage k)) :=
  completesEval_of_exec_liveP (fun _ => rfl) fun s ⟨hk, hholds⟩ => by simp only [hholds, if_true, if_neg hk, lopTimeout]

/-- One of a FLASH operation also frees the window, which is the model's deduction (log 39). -/
theorem completesEval_flashDeviceTimeout_flash :
    CompletesEval (.flashDeviceTimeout 0) (fun s => s.lopHolds (qspiPage 0) = true)
      (fun s => lopTimeout (qspiPage 0) (s.wr pgFLASH F.FLASH_WIN_CTRL_BUSY 0)) :=
  completesEval_of_exec_liveP (fun _ => rfl) fun _ hholds => if_pos hholds

/-- Settles O23: a START is the write of LOP_CMD on its page, and a finished unit has the effect of its operation. That a timeout
of FLASH clears WIN_CTRL.BUSY is the model's deduction (log 39). -/
theorem flashAndBootCommandsComplete : Obligations.FlashAndBootCommandsComplete := by
  intro req k v ok
  refine ⟨?write, ?erase, fun _ => ?push, ?unit, completesEval_flashDeviceTimeout_other k,
    completesEval_flashDeviceTimeout_flash, ?verify, ?verifyUnit, ?activate, ?confirm, ?copy, ?install, ?installStep⟩
  case write => exact writeCompletesEval_of_exec_liveP (fun _ => rfl) fun _ => rfl
  case erase => exact writeCompletesEval_of_exec_liveP (fun _ => rfl) fun _ => rfl
  case push => exact writeCompletes_of_exec_live (fun _ => rfl) fun _ => rfl
  case unit => exact completesEval_of_exec_liveP (fun _ => rfl) fun _ _ => rfl
  case verify => exact writeCompletesEval_of_exec_liveP (fun _ => rfl) fun _ => rfl
  case verifyUnit => exact completesEval_of_exec_liveP (fun _ => rfl) fun _ _ => rfl
  case activate => exact writeCompletesEval_of_exec_liveP (fun _ => rfl) fun _ => rfl
  case confirm => exact writeCompletesEval_of_exec_liveP (fun _ => rfl) fun _ => rfl
  case copy => exact completesEval_of_exec_liveP (fun _ => rfl) fun _ _ => rfl
  case install => exact writeCompletesEval_of_exec_liveP (fun _ => rfl) fun _ => rfl
  case installStep => exact completesEval_of_exec_liveP (fun _ => rfl) fun _ _ => rfl

end Sys2Proof.Machine
end

