-- ==== Sys2Proof/Proofs/PowerLadder.lean ====
section
/-! PROOF. The power ladder and REST (06 R174-R191): how the drain of an entry ends, what completes or refuses a move, the wake at
a Metronome time, and the answers to REST. -/
namespace Sys2Proof.Machine
open Sys2Proof

section
variable {r : Nat} {s : State}

/-! An entry's drain and its end (R181, R182, R184). -/

/-- A drain that is complete, with no SUSPENDED operation that refuses the rung, cancels those that the rung ends (R182, R184). -/
theorem ladderDrainCompleteEffect_drained (he : s.pwr.entering = some r) (hd : s.pwr.draining = true) (hdr : drained s = true)
    (hno : (suspendedPages s r 2).isEmpty = true) :
    ladderDrainCompleteEffect s =
      (let t := (suspendedPages s r 1).foldl (fun s pg => lopCancelled pg s) s
       { t with pwr := { t.pwr with draining := false } }) := by
  have hcomplete : ¬ (!(s.pwr.draining && drained s)) = true := by simp [hd, hdr]
  have hadmitted : ¬ (!(suspendedPages s r 2).isEmpty) = true := by simp [hno]
  simp only [ladderDrainCompleteEffect, he, if_neg hcomplete, if_neg hadmitted]

/-- An entry whose drain is over ends on its rung, counted and logged with the rung it came from (R181). -/
theorem ladderEntryCompleteEffect_drained (he : s.pwr.entering = some r) (hd : s.pwr.draining = false) :
    ladderEntryCompleteEffect s =
      (let t := entryEffects r s
       let t := moveDone s.ladder r false { t with pwr := { t.pwr with entering := none } }
       logEv pgPWR 0x0201 ((t.wr pgPWR F.PWR_STATUS_STALLED 0).bump pgPWR F.PWR_COUNTS_ENTRIES) s.ladder r) := by
  have hover : ¬ s.pwr.draining = true := Bool.eq_false_iff.mp hd
  simp only [ladderEntryCompleteEffect, he, if_neg hover]

end

/-! Refusals of an entry (R182, R183). -/

/-- A drain that lasts too long refuses the entry with cause DRAIN. -/
theorem completesEval_ladderDrainTimeout :
    CompletesEval .ladderDrainTimeout (fun s => s.pwr.entering.isSome = true ∧ s.pwr.draining = true) (ladderRefuse 1) :=
  completesEval_of_exec_liveP (fun _ => rfl) fun _ hdraining => if_pos (Bool.and_eq_true_iff.mpr hdraining)

/-- A stack that does not confirm self-refresh refuses an entry of PIANO or deeper with cause HBM. -/
theorem completesEval_hbmSrConfirmTimeout (r : Nat) :
    CompletesEval .hbmSrConfirmTimeout (fun s => s.pwr.entering = some r ∧ 2 ≤ r ∧ s.pwr.draining = false) (ladderRefuse 4) :=
  completesEval_of_exec_liveP (fun _ => rfl) fun s ⟨he, hdeep, hd⟩ => by
    simp only [he, hdeep, hd, decide_true, Bool.not_false, Bool.and_self, if_true]

/-- Settles O27: each command by its own effect, on the branch that its condition chooses. -/
theorem powerLadderCommandsComplete : Obligations.PowerLadderCommandsComplete := by
  intro req r v on
  refine ⟨?target, ?opp, ?drained, completesEval_ladderDrainTimeout, completesEval_hbmSrConfirmTimeout r, ?entered, ?wakeMet,
    ?exited, ?redescend, ?restAck, ?restTimeout, ?restEnd, ?transit⟩
  case target => exact writeCompletesEval_of_exec_liveP (fun _ => rfl) fun _ => rfl
  case opp => exact writeCompletesEval_of_exec_liveP (fun _ => rfl) fun _ => rfl
  case drained =>
    exact completesEval_of_exec_liveP (fun _ => rfl) fun s ⟨he, hd, hdr, hno⟩ => ladderDrainCompleteEffect_drained he hd hdr hno
  case entered =>
    exact completesEval_of_exec_liveP (fun _ => rfl) fun s ⟨he, hd⟩ => ladderEntryCompleteEffect_drained he hd
  case wakeMet => exact completesEval_of_exec_liveP (fun _ => rfl) fun _ hmet => if_pos hmet
  case exited => exact completesEval_of_exec_liveP (fun _ => rfl) fun _ _ => rfl
  case redescend => exact completesEval_of_exec_liveP (fun _ => rfl) fun _ hus => if_neg hus
  case restAck =>
    exact completesEval_of_exec_liveP (fun _ => rfl) fun s ⟨hpending, hstands⟩ => if_pos (by simp [hpending, hstands])
  case restTimeout => exact completesEval_of_exec_liveP (fun _ => rfl) fun _ hpending => if_pos hpending
  case restEnd => exact completesEval_of_exec_liveP (fun _ => rfl) fun _ hending => if_pos hending
  case transit => exact completesEval_of_exec_liveP (fun _ => rfl) fun _ _ => rfl

end Sys2Proof.Machine
end

