-- ==== Sys2Proof/Proofs/TileControl.lean ====
section
/-! PROOF. A tile's control registers and events (07 R210-R229): the writes of SEQ_CTRL, INJECT and the scalars by the bits or the
state that decide them, a row fetch, the end of the queues, and a wait that lasts too long. -/
namespace Sys2Proof.Machine
open Sys2Proof

/-! Writes that the word's bits decide (R217, R228, R229). -/

section
variable (t : Nat) {v : Nat} (s : State)

/-- GO without ABORT starts the sequencer at the word's START. -/
theorem seqCtrlWrite_go (hgo : bitOf v 0 = true) (habort : bitOf v 1 = false) :
    seqCtrlWrite t v s = seqGo t (v / 32 % 2 ^ 13) s := by
  simp only [seqCtrlWrite, hgo, habort]

/-- ABORT without GO aborts it. -/
theorem seqCtrlWrite_abort (hgo : bitOf v 0 = false) (habort : bitOf v 1 = true) : seqCtrlWrite t v s = seqAbort t s := by
  simp only [seqCtrlWrite, hgo, habort]

/-- CLEAR of SRAM_ECC zeroes CE and UE. -/
theorem sramEccWrite_clear (hclear : bitOf v 31 = true) : sramEccWrite t v s = s.setWord (pgTILE t + 0x130) 0 := if_pos hclear

/-- UE_NEXT of INJECT stores a double-bit error, whatever CE_NEXT asks for (Table 7.8). -/
theorem tileInjectWrite_ueNext (hue : bitOf v 1 = true) :
    tileInjectWrite t v s = s.modTile t fun x => { x with inject := 2 } := if_pos hue

/-- CE_NEXT alone stores a single-bit error. -/
theorem tileInjectWrite_ceNext (hue : bitOf v 1 = false) (hce : bitOf v 0 = true) :
    tileInjectWrite t v s = s.modTile t fun x => { x with inject := 1 } :=
  (if_neg (Bool.eq_false_iff.mp hue)).trans (if_pos hce)

end

/-! Effects that the sequencer's state decides (R217, R221, R225). -/

section
variable {t : Nat} {s : State}

/-- In a stopped state a scalar's word is stored as it is written. -/
theorem tileScalarWrite_stopped (off : Nat) (v : Word) (hst : stoppedState (s.seqState t) = true) :
    tileScalarWrite t off v.toNat s = s.setWord (pgTILE t + off) v := by
  rw [tileScalarWrite, if_pos hst, BitVec.ofNat_toNat, BitVec.setWidth_eq]

/-- ENDING turns IDLE once the queues are empty, with the tile's interrupt. -/
theorem tileQueuesEmptyEffect_ending (hempty : queuesEmpty (s.tile t) = true) (hst : s.seqState t = stENDING) :
    tileQueuesEmptyEffect t s = irq (pgTILE t) 0 (setSeqState t stIDLE s) := by
  simp [tileQueuesEmptyEffect, hempty, hst]

/-- A wait under a limit stands at the head of a tile's sequencer. -/
def WaitLimited (t : Nat) (w : List Nat) (s : State) : Prop :=
  s.issuing t = true ∧ s.rd (pgTILE t) F.TILE_SEQ_STATUS_BLOCK = 1 ∧ s.rd (pgTILE t) F.TILE_WAIT_LIMIT_US ≠ 0 ∧
    headWords t s = some w

/-- When the limit expires, a Metronome wait is recorded as 0xF, and any other by its counter, unless it is over (Table 7.5). -/
theorem tileWaitTimeoutEffect_limited {w : List Nat} (h : WaitLimited t w s) :
    tileWaitTimeoutEffect t s =
      if (s.tile t).waitMet then tileExc t 8 engSEQ (s.cp t) 0xF s
      else if waitDone t w s then s
      else tileExc t 8 engSEQ (s.cp t) (hWCTR w) s := by
  obtain ⟨hissuing, hblock, hlimit, hhead⟩ := h
  simp [tileWaitTimeoutEffect, hissuing, hblock, hlimit, hhead]

end

/-- Settles O29: each write by its register's effect, on the branch that the word's bits or the sequencer's state choose, and each
event by its own. -/
theorem tileControlCommandsComplete : Obligations.TileControlCommandsComplete := by
  intro req t c off v w
  refine ⟨fun hgo habort => ?go, fun hgo habort => ?abort, ?rowFetch, ?ending, ?stopping, ?counter, ?scalar, ?wait, ?waitMet,
    ?perfClear, fun hclear => ?eccClear, fun hue => ?ueNext, fun hue hce => ?ceNext⟩
  case go => exact writeCompletesEval_of_exec_liveP (fun _ => rfl) fun s => seqCtrlWrite_go t s hgo habort
  case abort => exact writeCompletesEval_of_exec_liveP (fun _ => rfl) fun s => seqCtrlWrite_abort t s hgo habort
  case rowFetch => exact completesEval_of_exec_liveP (fun _ => rfl) fun _ _ => rfl
  case ending =>
    exact completesEval_of_exec_liveP (fun _ => rfl) fun s ⟨hempty, hst⟩ => tileQueuesEmptyEffect_ending hempty hst
  case stopping => exact completesEval_of_exec_liveP (fun _ => rfl) fun _ _ => rfl
  case counter => exact writeCompletesEval_of_exec_liveP (fun _ => rfl) fun _ => rfl
  case scalar =>
    exact completesEval_of_exec_liveP (fun _ => rfl) fun s ⟨hok, hst⟩ => by
      rw [regWrite_ok s req _ _ hok, tileScalarWrite_stopped off v hst]
  case wait =>
    refine completesEval_of_exec_liveP (fun _ => rfl) fun s ⟨hissuing, hblock, hlimit, hhead, hmet, hwaits⟩ => ?_
    rw [tileWaitTimeoutEffect_limited ⟨hissuing, hblock, hlimit, hhead⟩]
    exact (if_neg (Bool.eq_false_iff.mp hmet)).trans (if_neg (Bool.eq_false_iff.mp hwaits))
  case waitMet =>
    refine completesEval_of_exec_liveP (fun _ => rfl) fun s ⟨hissuing, hblock, hlimit, hhead, hmet⟩ => ?_
    rw [tileWaitTimeoutEffect_limited ⟨hissuing, hblock, hlimit, hhead⟩]
    exact if_pos hmet
  case perfClear => exact writeCompletesEval_of_exec_liveP (fun _ => rfl) fun _ => rfl
  case eccClear => exact writeCompletesEval_of_exec_liveP (fun _ => rfl) fun s => sramEccWrite_clear t s hclear
  case ueNext => exact writeCompletesEval_of_exec_liveP (fun _ => rfl) fun s => tileInjectWrite_ueNext t s hue
  case ceNext => exact writeCompletesEval_of_exec_liveP (fun _ => rfl) fun s => tileInjectWrite_ceNext t s hue hce

end Sys2Proof.Machine
end

