-- ==== Sys2Proof/Proofs/RinkPackets.lean ====
section
/-! PROOF. Packets of the Rink (12 R343-R358, 07 R219, R220): requests and counter signals at their targets, responses at the
requests they answer, the remote access timeout and its quarantine, and packets that leave the chip. -/
namespace Sys2Proof.Machine
open Sys2Proof

section
variable {k tag : Nat} {p : Packet} {x : Track} {s : State}

/-! Requests at this chip (R349, R185). -/

/-- A request of no host that nothing holds up leaves the Rink for its target. -/
theorem deliverAt_request (hp : s.rink[k]? = some p) (hdst : p.dst = s.chipNum) (hreq : isRequest p = true)
    (hhost : fromHost p = false) (hwaits : waitsOnRink s p = false) :
    deliverAt k s = deliver p { s with rink := s.rink.eraseIdx k } := by
  simp [deliverAt, hp, hdst, hreq, hhost, hwaits]

/-- A request of the host does so in every state of the ladder, for it may wake the chip (log 32). -/
theorem deliverAt_host (hp : s.rink[k]? = some p) (hdst : p.dst = s.chipNum) (hreq : isRequest p = true)
    (hhost : fromHost p = true) : deliverAt k s = deliverHost p { s with rink := s.rink.eraseIdx k } := by
  simp [deliverAt, hp, hdst, hreq, hhost]

/-! The timeout of a request (R354, R356). -/

/-- A first timeout fails the request, and its tag is quarantined. -/
theorem remoteAccessTimeoutEffect_first (hx : trackOf s tag = some x) (hq : x.quar = false) :
    remoteAccessTimeoutEffect tag s = endpointResult x .timeout
      { s with outst := s.outst.map fun y => if y.ep = x.ep && y.ctx = x.ctx then { y with quar := true, use := 0 } else y } := by
  simp only [remoteAccessTimeoutEffect, hx, hq, Bool.false_eq_true, if_false]

/-- A second one frees the tag, which stands for the end of its quarantine (log 29). -/
theorem remoteAccessTimeoutEffect_second (hx : trackOf s tag = some x) (hq : x.quar = true) :
    remoteAccessTimeoutEffect tag s = untrack x s := by
  simp only [remoteAccessTimeoutEffect, hx, hq, if_true]

end

/-- Settles O33: each command on the branch that its packet or tracker chooses. That a second timeout of a tag ends its quarantine
is the model's deduction (log 29). -/
theorem rinkCommandsComplete : Obligations.RinkCommandsComplete := by
  intro k tag p x
  refine ⟨?request, ?host, ?signal, ?response, ?timeout, ?quarantineEnd, ?egress⟩
  case request =>
    exact completesEval_of_exec_liveP (fun _ => rfl) fun s ⟨hp, hdst, hreq, hhost, hwaits⟩ =>
      deliverAt_request hp hdst hreq hhost hwaits
  case host =>
    exact completesEval_of_exec_liveP (fun _ => rfl) fun s ⟨hp, hdst, hreq, hhost⟩ => deliverAt_host hp hdst hreq hhost
  case signal =>
    refine completesEval_of_exec_liveP (fun _ => rfl) fun s ⟨hp, hop, hdst, hreq, hhost, hwaits⟩ => ?_
    simp only [hp, if_pos hop]
    exact deliverAt_request hp hdst hreq hhost hwaits
  case response =>
    exact completesEval_of_exec_liveP (fun _ => rfl) fun s ⟨hp, hdst, hrsp⟩ => by simp [hp, hdst, hrsp]
  case timeout =>
    exact completesEval_of_exec_liveP (fun _ => rfl) fun s ⟨hx, hq⟩ => remoteAccessTimeoutEffect_first hx hq
  case quarantineEnd =>
    exact completesEval_of_exec_liveP (fun _ => rfl) fun s ⟨hx, hq⟩ => remoteAccessTimeoutEffect_second hx hq
  case egress =>
    exact completesEval_of_exec_liveP (fun _ => rfl) fun s ⟨hp, hdst⟩ => by simp only [hp, if_neg hdst]

end Sys2Proof.Machine
end

