-- ==== Sys2Proof/Proofs/ScoreCommands.lean ====
section
/-! PROOF. The commands of a score (08 R245-R264, 07 R213-R215, R238): what a ready head does as a sequencer-local command and as
an engine's command, and how the oldest command of an engine's queue completes. -/
namespace Sys2Proof.Machine
open Sys2Proof

/-! A ready head (R213, R236, R237). -/

section
variable {op t : Nat} {w : List Nat} {s : State}

/-- A ready head passes every check and its wait, so its own part is all that is left. -/
theorem issueHead_ready (eff : List Nat → State → State) (h : Ready op t w s) : issueHead op t eff s = eff w s := by
  obtain ⟨hissuing, hhead, hop, hgood, hwait⟩ := h
  simp [issueHead, hissuing, hhead, hop, hgood, hwait]

/-- As a sequencer-local command it issues with its own effect, and then the next command is chosen. -/
theorem localCmd_ready (eff : List Nat → State → State) (next : List Nat → State → State → State) (h : Ready op t w s) :
    localCmd op t eff next s = next w s (issued t w (eff w) s) := issueHead_ready _ h

/-- The effect of issuing turns on the command's own effect alone. -/
theorem issued_congr {own own' : State → State} (h : ∀ u, own u = own' u) : issued t w own s = issued t w own' s :=
  congrArg (issued t w · s) (funext h)

/-- The head command has joined its engine's queue with the operands of the moment, the sequencer has noted it, and the next
command is due (R213, R215). -/
def enqueued (eng t : Nat) (note : Tile → Tile) (w : List Nat) (s : State) : State :=
  advance t (perfIssued t (s.modTile t fun x =>
    note { x.setQueue eng ((s.tile t).queue eng ++ [jobOf t w s]) with jids := x.jids + 1 }))

/-- As an engine's command it joins the queue where there is room, and the DMA engine sends what its limits allow (R251). -/
theorem engineCmd_ready {eng : Nat} (note : List Nat → Tile → Tile) (h : Ready op t w s)
    (hroom : ((s.tile t).queue eng).length < queueLimit s t eng) :
    engineCmd op eng t note s =
      if eng = engDMA then dmaPump t 64 (enqueued eng t (note w) w s) else enqueued eng t (note w) w s := by
  rw [engineCmd, issueHead_ready _ h]
  exact if_neg (Nat.not_le.mpr hroom)

/-! The oldest command of a queue (R215, R224, R238). -/

variable {j : Job} {rest : List Job}

/-- A transfer whose packets are all sent and answered without a fault signals, and the DMA engine goes on to the next. -/
theorem engineDone_dma (hq : (s.tile t).queue engDMA = j :: rest) (hsent : j.allSent = true) (hanswered : j.inflight = 0)
    (hfault : j.fault = none) :
    engineDone t engDMA s =
      dmaPump t 64 (signal t j.cp engDMA j.tc j.w j.desc (s.modTile t fun x => x.setQueue engDMA rest)) := by
  simp [engineDone, hq, hsent, hanswered, hfault]

/-- A command of the MXU does its work at its completion (log 40) and signals, where it met no uncorrectable word. -/
theorem engineDone_mxu (hq : (s.tile t).queue engMXU = j :: rest) (hrun : (runMxu t j.w s).1 = none) :
    engineDone t engMXU s =
      signal t j.cp engMXU j.tc j.w j.desc ((runMxu t j.w s).2.modTile t fun x => x.setQueue engMXU rest) := by
  have hmxu : ¬ engMXU = engDMA := by decide
  simp only [engineDone, hq, if_neg hmxu, if_true, hrun]

/-- So does a command of the VXU. -/
theorem engineDone_vxu (hq : (s.tile t).queue engVXU = j :: rest) (hrun : (runVxu t j.w s).1 = none) :
    engineDone t engVXU s =
      signal t j.cp engVXU j.tc j.w j.desc ((runVxu t j.w s).2.modTile t fun x => x.setQueue engVXU rest) := by
  have hvxu : ¬ engVXU = engDMA := by decide
  have hother : ¬ engVXU = engMXU := by decide
  simp only [engineDone, hq, if_neg hvxu, if_neg hother, hrun]

end

/-! Completion of an engine's command. -/

section
variable {c : Instr} {op t : Nat}

/-- A DMA command joins its queue, and the engine sends what its limits allow. -/
theorem completesEval_dmaCommand (w : List Nat) (hc : ∀ s, exec c s = liveP s (engineCmd op engDMA t fun _ x => x)) :
    CompletesEval c (fun s => Ready op t w s ∧ ((s.tile t).queue engDMA).length < queueLimit s t engDMA)
      (fun s => dmaPump t 64 (enqueued engDMA t id w s)) :=
  completesEval_of_exec_liveP hc fun _ ⟨hready, hroom⟩ => engineCmd_ready _ hready hroom

/-- A command of another engine joins its queue, with what the sequencer notes of it. -/
theorem completesEval_engineCommand {eng : Nat} {note : List Nat → Tile → Tile} {w : List Nat} {eff : State → State}
    (hc : ∀ s, exec c s = liveP s (engineCmd op eng t note)) (heng : eng ≠ engDMA)
    (he : ∀ s, enqueued eng t (note w) w s = eff s) :
    CompletesEval c (fun s => Ready op t w s ∧ ((s.tile t).queue eng).length < queueLimit s t eng) eff :=
  completesEval_of_exec_liveP hc fun s ⟨hready, hroom⟩ =>
    (engineCmd_ready note hready hroom).trans ((if_neg heng).trans (he s))

end

/-- Settles O30: each command by what its ready head does, on the branch that its counter, its condition or the Metronome chooses. -/
theorem scoreFlowCommandsComplete : Obligations.ScoreFlowCommandsComplete := by
  intro t w
  refine ⟨?nop, ?endScore, ?jump, ?loopJumps, ?loopEnds, ?brsJumps, ?brsFalls, ?breakScore, ?waitMet, ?waitMetFrom⟩
  case nop => exact completesEval_of_exec_liveP (fun _ => rfl) fun _ hready => localCmd_ready _ _ hready
  case endScore => exact completesEval_of_exec_liveP (fun _ => rfl) fun _ hready => localCmd_ready _ _ hready
  case jump => exact completesEval_of_exec_liveP (fun _ => rfl) fun _ hready => localCmd_ready _ _ hready
  case loopJumps =>
    exact completesEval_of_exec_liveP (fun _ => rfl) fun _ ⟨hready, hmore⟩ =>
      (localCmd_ready _ _ hready).trans (if_pos (decide_eq_true hmore))
  case loopEnds =>
    exact completesEval_of_exec_liveP (fun _ => rfl) fun _ ⟨hready, hlast⟩ =>
      (localCmd_ready _ _ hready).trans (if_neg (by simpa using hlast))
  case brsJumps =>
    exact completesEval_of_exec_liveP (fun _ => rfl) fun _ ⟨hready, hcond⟩ => (localCmd_ready _ _ hready).trans (if_pos hcond)
  case brsFalls =>
    exact completesEval_of_exec_liveP (fun _ => rfl) fun _ ⟨hready, hcond⟩ =>
      (localCmd_ready _ _ hready).trans (if_neg (Bool.eq_false_iff.mp hcond))
  case breakScore => exact completesEval_of_exec_liveP (fun _ => rfl) fun _ hready => localCmd_ready _ _ hready
  case waitMet =>
    refine completesEval_of_exec_liveP (fun _ => rfl) fun s ⟨hready, habsolute, hthere⟩ => ?_
    rw [issueHead_ready _ hready]
    simp only [habsolute, Bool.false_eq_true, if_false, if_pos hthere]
    rfl
  case waitMetFrom =>
    refine completesEval_of_exec_liveP (fun _ => rfl) fun s ⟨hready, hrelative, hthere⟩ => ?_
    rw [issueHead_ready _ hready]
    simp only [hrelative, if_true, if_pos hthere]
    rfl

/-- Settles O31: each command by what its ready head does, with the operand that its USE_S bit or its source chooses. -/
theorem scoreScalarCommandsComplete : Obligations.ScoreScalarCommandsComplete := by
  intro t w
  refine ⟨?csetImm, ?csetReg, ?cadd, ?sli, ?saddi, ?salu, fun src val hsrc => ?sget, ?lsetImm, ?lsetReg⟩
  case csetImm =>
    exact completesEval_of_exec_liveP (fun _ => rfl) fun _ ⟨hready, himm⟩ => (localCmd_ready _ _ hready).trans
      (congrArg (advance t) (issued_congr fun u => congrArg (tcSet t _ · u) (if_neg (Bool.eq_false_iff.mp himm))))
  case csetReg =>
    exact completesEval_of_exec_liveP (fun _ => rfl) fun _ ⟨hready, hreg⟩ => (localCmd_ready _ _ hready).trans
      (congrArg (advance t) (issued_congr fun u => congrArg (tcSet t _ · u) (if_pos hreg)))
  case cadd => exact completesEval_of_exec_liveP (fun _ => rfl) fun _ hready => localCmd_ready _ _ hready
  case sli => exact completesEval_of_exec_liveP (fun _ => rfl) fun _ hready => localCmd_ready _ _ hready
  case saddi => exact completesEval_of_exec_liveP (fun _ => rfl) fun _ hready => localCmd_ready _ _ hready
  case salu => exact completesEval_of_exec_liveP (fun _ => rfl) fun _ hready => localCmd_ready _ _ hready
  case sget =>
    refine completesEval_of_exec_liveP (fun _ => rfl) fun s ⟨hready, hfield⟩ => ?_
    rw [localCmd_ready _ _ hready, hfield]
    simp only [List.mem_cons, Prod.mk.injEq, List.not_mem_nil, or_false] at hsrc
    rcases hsrc with ⟨rfl, rfl⟩ | ⟨rfl, rfl⟩ | ⟨rfl, rfl⟩ | ⟨rfl, rfl⟩ | ⟨rfl, rfl⟩ <;> rfl
  case lsetImm =>
    exact completesEval_of_exec_liveP (fun _ => rfl) fun _ ⟨hready, himm⟩ => (localCmd_ready _ _ hready).trans
      (congrArg (advance t) (issued_congr fun u =>
        congrArg (u.wr (pgTILE t) F.TILE_LC_VALUE · (wf w 3 0 2)) (if_neg (Bool.eq_false_iff.mp himm))))
  case lsetReg =>
    exact completesEval_of_exec_liveP (fun _ => rfl) fun _ ⟨hready, hreg⟩ => (localCmd_ready _ _ hready).trans
      (congrArg (advance t) (issued_congr fun u => congrArg (u.wr (pgTILE t) F.TILE_LC_VALUE · (wf w 3 0 2)) (if_pos hreg)))

/-- Settles O32: each command joins its engine's queue with what the sequencer notes of it, and the oldest command of each engine
completes. That an MXU or VXU command does its work at its completion is the model's deduction (log 40). -/
theorem scoreEngineCommandsComplete : Obligations.ScoreEngineCommandsComplete := by
  intro t w
  refine ⟨fun c op hc => ?dma, fun c op hc => ?vxu, ?drain, ?stage, ?mmaZero, ?mmaOn, fun j rest => ⟨?dmaDone, ?mxuDone, ?vxuDone⟩⟩
  case dma =>
    simp only [List.mem_cons, Prod.mk.injEq, List.not_mem_nil, or_false] at hc
    rcases hc with ⟨rfl, rfl⟩ | ⟨rfl, rfl⟩ | ⟨rfl, rfl⟩ | ⟨rfl, rfl⟩ <;> exact completesEval_dmaCommand w fun _ => rfl
  case vxu =>
    simp only [List.mem_cons, Prod.mk.injEq, List.not_mem_nil, or_false] at hc
    rcases hc with ⟨rfl, rfl⟩ | ⟨rfl, rfl⟩ | ⟨rfl, rfl⟩ | ⟨rfl, rfl⟩ | ⟨rfl, rfl⟩ | ⟨rfl, rfl⟩ <;>
      exact completesEval_engineCommand (fun _ => rfl) (by decide) fun _ => rfl
  case drain => exact completesEval_engineCommand (fun _ => rfl) (by decide) fun _ => rfl
  case stage => exact completesEval_engineCommand (fun _ => rfl) (by decide) fun _ => rfl
  case mmaZero =>
    refine completesEval_of_exec_liveP (fun _ => rfl) fun s ⟨hready, hroom, hzero⟩ => ?_
    rw [engineCmd_ready _ hready hroom]
    simp only [hzero, if_true]
    rfl
  case mmaOn =>
    refine completesEval_of_exec_liveP (fun _ => rfl) fun s ⟨hready, hroom, hzero⟩ => ?_
    rw [engineCmd_ready _ hready hroom]
    simp only [hzero, Bool.false_eq_true, if_false]
    rfl
  case dmaDone =>
    exact completesEval_of_exec_liveP (fun _ => rfl) fun _ ⟨hq, hsent, hanswered, hfault⟩ =>
      engineDone_dma hq hsent hanswered hfault
  case mxuDone => exact completesEval_of_exec_liveP (fun _ => rfl) fun _ ⟨hq, hrun⟩ => engineDone_mxu hq hrun
  case vxuDone => exact completesEval_of_exec_liveP (fun _ => rfl) fun _ ⟨hq, hrun⟩ => engineDone_vxu hq hrun

end Sys2Proof.Machine
end

