-- ==== Sys2Proof/Proofs/NumberFormats.lean ====
section
/-! PROOF. The number formats (09 R267-R277): what value the fields of an element stand for, that such a value is one the format
holds, and that a conversion of a value the format holds gives its element's bits with no flag, whatever the rounding. -/
namespace Sys2Proof.Machine
open Sys2Proof

/-! The formats of Table 9.1. -/

/-- The parameters of a format agree as in Table 9.1: exponent field 1 is the least exponent, the greatest exponent field that
holds finite values is the greatest exponent, and the one format with a NaN beside finite values is E4M3. -/
structure Fmt.Sound (f : Fmt) : Prop where
  emin_bias : f.emin + f.bias = 1
  emax_bias : f.emax + f.bias = 2 ^ f.eb - (if f.kind = 0 then 2 else 1)
  emin_le_emax : f.emin ≤ f.emax
  e4m3 : f.kind = 1 → f.mb = 3 ∧ f.eb = 4

/-- Every floating-point format of Table 9.1 is sound, and sign, exponent and mantissa are all of an element's bits. -/
theorem fmtOf_sound {code : Nat} (h : code < 10) :
    (fmtOf code).Sound ∧ fmtBits code = 1 + (fmtOf code).eb + (fmtOf code).mb := by
  interval_cases code <;> exact ⟨by constructor <;> decide, rfl⟩

/-- The formats that carry scales are those with neither infinities nor NaNs (R267). -/
theorem fmtOf_kind {code : Nat} (h : code < 10) : (fmtOf code).kind = 2 ↔ 7 ≤ code := by
  interval_cases code <;> decide

/-! The magnitudes that a format holds. -/

/-- m × 2^e is in the form in which the format holds it: no more than mb + 1 bits, a leading bit unless the exponent is the
least, and no more than the largest finite value. -/
structure Fmt.Holds (f : Fmt) (m : Nat) (e : Int) : Prop where
  mant_lt : m < 2 ^ (f.mb + 1)
  least_le : f.emin - f.mb ≤ e
  normal : e = f.emin - f.mb ∨ 2 ^ f.mb ≤ m
  not_over : isOver f m e = false

/-- Mantissas of mb + 1 bits stay in range where they do so at the greatest exponent, which only E4M3 restricts further. -/
theorem isOver_eq_false {f : Fmt} {m : Nat} {e : Int} (hf : f.Sound) (hm : m < 2 ^ (f.mb + 1)) (he : e ≤ maxExp f)
    (htop : f.kind = 1 → e = maxExp f → m ≤ 14) : isOver f m e = false := by
  obtain ⟨k, hk⟩ := Int.le.dest he
  have hmin : min (maxExp f) e = e := min_eq_right he
  have hexp : (maxExp f - e).toNat = k := by omega
  suffices hle : m ≤ maxMant f * 2 ^ k by simpa [isOver, magLt, hmin, hexp] using hle
  have hone : 1 ≤ 2 ^ k := Nat.one_le_two_pow
  by_cases hkind : f.kind = 1
  case neg =>
    calc m ≤ maxMant f := by rw [maxMant, if_neg hkind]; omega
      _ ≤ maxMant f * 2 ^ k := Nat.le_mul_of_pos_right _ hone
  case pos =>
    rw [maxMant, if_pos hkind]
    rw [(hf.e4m3 hkind).1] at hm
    cases k with
    | zero => exact htop hkind (by omega)
    | succ k => rw [pow_succ]; have := @Nat.one_le_two_pow k; omega

section
variable {f : Fmt} {m : Nat} {e : Int}

/-- Rounding leaves a held magnitude as it is: its last place is the format's, so no fraction is left to round (R277). -/
theorem roundMag_of_holds (h : f.Holds m e) (hm : m ≠ 0) (rnd r : Nat) : roundMag f.mb f.emin rnd r m e = (m, e, false) := by
  have hlog : m.log2 < f.mb + 1 := (Nat.log2_lt hm).mpr h.mant_lt
  have hplace : max (topExp m e) f.emin - f.mb = e := by
    have hleast := h.least_le
    unfold topExp
    rcases h.normal with hsub | hlead
    · omega
    · have := (Nat.le_log2 hm).mpr hlead
      omega
  simp [roundMag, hplace]

/-- An element with exponent field 0 holds its mantissa field at the least exponent: zero or a subnormal. -/
theorem holds_subnormal (hf : f.Sound) (hm : m < 2 ^ f.mb) : f.Holds m (f.emin - f.mb) where
  mant_lt := by rw [pow_succ]; omega
  least_le := le_rfl
  normal := .inl rfl
  not_over := by
    have hmin := hf.emin_le_emax
    refine isOver_eq_false hf (by rw [pow_succ]; omega) (by unfold maxExp; omega) fun hkind _ => ?_
    rw [(hf.e4m3 hkind).1] at hm
    omega

/-- An element with an exponent field of finite values holds its mantissa field below a leading bit. -/
theorem holds_normal {E : Nat} (hf : f.Sound) (hm : m < 2 ^ f.mb) (hE : 1 ≤ E) (hfin : (E : Int) ≤ f.emax + f.bias)
    (hnan : f.kind = 1 → E = 15 → m ≠ 7) : f.Holds (m + 2 ^ f.mb) (E - f.bias - f.mb) where
  mant_lt := by rw [pow_succ]; omega
  least_le := by have := hf.emin_bias; omega
  normal := .inr (Nat.le_add_left _ _)
  not_over := by
    refine isOver_eq_false hf (by rw [pow_succ]; omega) (by unfold maxExp; omega) fun hkind htop => ?_
    obtain ⟨hmb, heb⟩ := hf.e4m3 hkind
    have hmax := hf.emax_bias
    have hne := hnan hkind
    simp only [hkind, heb, maxExp] at hmax htop
    rw [hmb] at hm ⊢
    norm_num at hmax
    omega

/-- The bits of a magnitude at the least exponent are its mantissa. -/
theorem encMag_subnormal (hm : m < 2 ^ f.mb) : encMag f m e = m := by
  have hne : m ≠ 2 ^ (f.mb + 1) := by rw [pow_succ]; omega
  simp [encMag, hne, hm]

/-- The bits of a magnitude with a leading bit are its exponent field and the bits below the leading one. -/
theorem encMag_normal {E : Nat} (hm : m < 2 ^ f.mb) : encMag f (m + 2 ^ f.mb) (E - f.bias - f.mb) = E * 2 ^ f.mb + m := by
  have hne : m + 2 ^ f.mb ≠ 2 ^ (f.mb + 1) := by rw [pow_succ]; omega
  simp [encMag, hne]

end

/-! Elements and their values. -/

/-- The value x is one that the format holds, and v are its bits. -/
def Fmt.Encodes (f : Fmt) (x : Num) (v : Nat) : Prop :=
  match x with
  | .nan _ => False
  | .inf neg => f.kind = 0 ∧ infBits f neg = v
  | .fin neg m e => f.Holds m e ∧ signBits f neg + encMag f m e = v

/-- An element is its sign bit, its exponent field and its mantissa field. -/
theorem elem_eq_fields {f : Fmt} {v : Nat} (hv : v < 2 ^ (1 + f.eb + f.mb)) :
    signBits f (v / 2 ^ (f.eb + f.mb) % 2 == 1) + (v / 2 ^ f.mb % 2 ^ f.eb * 2 ^ f.mb + v % 2 ^ f.mb) = v := by
  have htwo : v / 2 ^ (f.eb + f.mb) < 2 := by
    rw [Nat.div_lt_iff_lt_mul (by positivity), ← pow_succ']
    rwa [Nat.add_assoc, Nat.add_comm 1] at hv
  have hsign : b2n (v / 2 ^ (f.eb + f.mb) % 2 == 1) = v / 2 ^ (f.eb + f.mb) := by
    generalize v / 2 ^ (f.eb + f.mb) = b at htwo
    interval_cases b <;> rfl
  conv_rhs => rw [bits_split v f.mb f.eb, getBits]
  rw [signBits, hsign, Nat.add_comm f.eb]
  ring

/-- An element that is no NaN decodes to a value its format holds, with the element's bits (R267). -/
theorem decFlt_encodes {f : Fmt} {v : Nat} (hf : f.Sound) (hv : v < 2 ^ (1 + f.eb + f.mb))
    (hnan : (decFlt f v).isNan = false) : f.Encodes (decFlt f v) v := by
  have hfields := elem_eq_fields hv
  have hm : v % 2 ^ f.mb < 2 ^ f.mb := Nat.mod_lt _ (by positivity)
  have hE : v / 2 ^ f.mb % 2 ^ f.eb < 2 ^ f.eb := Nat.mod_lt _ (by positivity)
  unfold decFlt at hnan ⊢
  generalize v % 2 ^ f.mb = m at *
  generalize v / 2 ^ f.mb % 2 ^ f.eb = E at *
  generalize (v / 2 ^ (f.eb + f.mb) % 2 == 1) = neg at *
  dsimp only at hnan ⊢
  split_ifs at hnan ⊢ with hall hzero he4m3 hsub
  · -- an infinity
    simp only [Bool.and_eq_true, decide_eq_true_eq] at hall
    obtain ⟨hkind, rfl⟩ := hall
    exact ⟨hkind, by simpa [infBits, hkind, hzero] using hfields⟩
  · -- a NaN
    cases hnan
  · -- the NaN of E4M3
    cases hnan
  · -- a zero or a subnormal
    subst hsub
    exact ⟨holds_subnormal hf hm, by simpa [encMag_subnormal hm] using hfields⟩
  · -- a normal value
    refine ⟨holds_normal hf hm (Nat.pos_of_ne_zero hsub) ?_ ?_, by rw [encMag_normal hm]; exact hfields⟩
    · rw [hf.emax_bias]
      have hpow : ((2 ^ f.eb : Nat) : Int) = 2 ^ f.eb := by push_cast; rfl
      simp only [Bool.and_eq_true, decide_eq_true_eq, not_and] at hall
      split_ifs with hkind
      · have := hall hkind
        omega
      · omega
    · intro hkind hE15 hm7
      simp [hkind, hE15, hm7] at he4m3

/-! Conversions of a value that the format holds (R274, R275). -/

section
variable {f : Fmt} {x : Num} {v : Nat} (rnd r : Nat)

/-- Either conversion of a held magnitude gives its sign's and its own bits: a zero has no other bits than its sign, any other
magnitude is neither rounded nor beyond the largest finite value. -/
theorem convert_of_holds {m : Nat} {e : Int} (neg : Bool) (h : f.Holds m e) :
    toFlt f rnd r (.fin neg m e) = (signBits f neg + encMag f m e, 0) ∧
    ∀ code, fmtOf code = f → toMx code rnd r (.fin neg m e) = (signBits f neg + encMag f m e, 0) := by
  obtain rfl | hm := eq_or_ne m 0
  · have hzero : encMag f 0 e = 0 := encMag_subnormal (by positivity)
    exact ⟨by simp [toFlt, hzero], fun code hcode => by simp [toMx, hzero, hcode]⟩
  · have hround (mode draw : Nat) := roundMag_of_holds h hm mode draw
    exact ⟨by simp [toFlt, hm, hround, h.not_over, flIf],
      fun code hcode => by simp [toMx, hm, hround, h.not_over, flIf, hcode]⟩

/-- A conversion to a format that holds the value gives its bits and no flag. -/
theorem toFlt_of_encodes (h : f.Encodes x v) : toFlt f rnd r x = (v, 0) := by
  cases x with
  | nan => exact h.elim
  | inf neg =>
    obtain ⟨hkind, rfl⟩ := h
    simp [toFlt, hkind, flIf]
  | fin neg m e =>
    obtain ⟨hheld, rfl⟩ := h
    exact (convert_of_holds rnd r neg hheld).1

/-- The same of the elements that carry scales, whose formats have no infinities. -/
theorem toMx_of_encodes {code : Nat} (hkind : (fmtOf code).kind = 2) (h : (fmtOf code).Encodes x v) :
    toMx code rnd r x = (v, 0) := by
  cases x with
  | nan => exact h.elim
  | inf neg => exact absurd (hkind.symm.trans h.1) (by decide)
  | fin neg m e =>
    obtain ⟨hheld, rfl⟩ := h
    exact (convert_of_holds rnd r neg hheld).2 code rfl

/-- A two's complement integer is within the range of its own width, and a whole value has nothing to round. -/
theorem toInt_decInt {wid : Nat} (hwid : 1 ≤ wid) (hv : v < 2 ^ wid) : toInt wid rnd r (decInt wid v) = (v, 0) := by
  have hhalf : 2 ^ wid = 2 * 2 ^ (wid - 1) := by rw [← pow_succ', Nat.sub_add_cancel hwid]
  unfold decInt
  split_ifs with hpos
  · have hlim : ¬ 2 ^ (wid - 1) - 1 < v := by omega
    simp [toInt, hlim, flIf]
  · have hlim : ¬ 2 ^ (wid - 1) < 2 ^ wid - v := by omega
    have hback : 2 ^ wid - (2 ^ wid - v) = v := by omega
    simp [toInt, hlim, hback, Nat.mod_eq_of_lt hv, flIf]

end

/-- Settles O57: each element that is no NaN stands for a value its format holds, and such a value converts to its own bits. -/
theorem numberFormatsRoundTrip : Obligations.NumberFormatsRoundTrip := by
  intro code v rnd r hv hnan _
  have hfloat (hcode : code < 10) (hint : isInt code = false) : (fmtOf code).Encodes (dec code v) v := by
    obtain ⟨hsound, hbits⟩ := fmtOf_sound hcode
    simp only [dec, hint] at hnan ⊢
    exact decFlt_encodes hsound (hbits ▸ hv) hnan
  refine ⟨fun hmem => ?_, fun hmem => ?_⟩
  · cases hint : isInt code with
    | true =>
      simp only [toElem, dec, hint]
      refine toInt_decInt rnd r ?_ hv
      unfold fmtBits
      split <;> decide
    | false =>
      simp only [toElem, hint]
      refine toFlt_of_encodes rnd r (hfloat ?_ hint)
      simp only [isInt, Bool.or_eq_false_iff, decide_eq_false_iff_not] at hint
      simp only [List.mem_cons, List.not_mem_nil, or_false] at hmem
      omega
  · obtain ⟨hge, hlt⟩ : 7 ≤ code ∧ code < 10 := by
      simp only [List.mem_cons, List.not_mem_nil, or_false] at hmem
      omega
    have hint : isInt code = false := by
      simp only [isInt, Bool.or_eq_false_iff, decide_eq_false_iff_not]
      omega
    exact toMx_of_encodes rnd r ((fmtOf_kind hlt).mpr hge) (hfloat hlt hint)

end Sys2Proof.Machine
end

