-- ==== Sys2Proof/Proofs/HbmMemory.lean ====
section
/-! PROOF. HBM (11 R321-R337): what patrol does with a unit, how RETRAIN starts by itself and leaves its wait for vertical blank, the
writes that the bits of INJECT and ECC_CLR decide, and the memory quality page. -/
namespace Sys2Proof.Machine
open Sys2Proof

/-! Patrol (R321). -/

section
variable {n : Nat} {s : State}

/-- Patrol runs on a stack: it is enabled, and the ladder keeps HBM in service. -/
def PatrolRuns (n : Nat) (s : State) : Prop := s.flag (pgMCU n) F.MCU_PATROL_EN = true ∧ s.ladder < 2

/-- Then it corrects the unit that is due, and moves on or ends its pass. -/
theorem patrolUnitEffect_runs (h : PatrolRuns n s) :
    patrolUnitEffect n s =
      (let k := s.rd (pgMCU n) F.MCU_PATROL_PROG_UNIT
       let t := (correctUnit n k s).2
       if k = 65535 then irq (pgMCU n) 5 ((t.wr (pgMCU n) F.MCU_PATROL_PROG_UNIT 0).bump (pgMCU n) F.MCU_PATROL_PROG_PASSES)
       else t.wr (pgMCU n) F.MCU_PATROL_PROG_UNIT (k + 1)) := by
  obtain ⟨hen, hladder⟩ := h
  have hon : ¬ (!s.flag (pgMCU n) F.MCU_PATROL_EN || decide (2 ≤ s.ladder)) = true := by simp [hen, hladder]
  exact if_neg hon

/-- The last unit ends the pass, with its interrupt. -/
theorem patrolUnitEffect_last (h : PatrolRuns n s) (hk : s.rd (pgMCU n) F.MCU_PATROL_PROG_UNIT = 65535) :
    patrolUnitEffect n s =
      irq (pgMCU n) 5 (((correctUnit n 65535 s).2.wr (pgMCU n) F.MCU_PATROL_PROG_UNIT 0).bump (pgMCU n)
        F.MCU_PATROL_PROG_PASSES) := by
  rw [patrolUnitEffect_runs h, hk]
  exact if_pos rfl

/-- After any other the next is due. -/
theorem patrolUnitEffect_inner (h : PatrolRuns n s) (hk : s.rd (pgMCU n) F.MCU_PATROL_PROG_UNIT ≠ 65535) :
    patrolUnitEffect n s =
      (correctUnit n (s.rd (pgMCU n) F.MCU_PATROL_PROG_UNIT) s).2.wr (pgMCU n) F.MCU_PATROL_PROG_UNIT
        (s.rd (pgMCU n) F.MCU_PATROL_PROG_UNIT + 1) :=
  (patrolUnitEffect_runs h).trans (if_neg hk)

/-! RETRAIN (R325, R326). -/

/-- With AUTO_REPAIR set and the operation window free, RETRAIN starts in REPAIR mode on the first pending lane's channel. -/
theorem mcuAutoRepairStartEffect_free {c x : Nat} {rest : List (Nat × Nat)} (hlane : (s.mcu n).failing = (c, x) :: rest)
    (hauto : s.flag (pgMCU n) F.MCU_MCU_CFG_AUTO_REPAIR = true) (hfree : s.lopActive (pgMCU n) = false)
    (hrun : s.running (pgMCU n) = true) :
    mcuAutoRepairStartEffect n s =
      (let t := lopAccept (pgMCU n) 3 s
       retrainBegin n { t with lopArgs := fset (fun _ => []) t.lopArgs (pgMCU n) [c, 1, 0xF, 0] }) := by
  have hstarts : ¬ (!s.flag (pgMCU n) F.MCU_MCU_CFG_AUTO_REPAIR || s.lopActive (pgMCU n) || !s.running (pgMCU n)) = true := by
    simp [hauto, hfree, hrun]
  simp only [mcuAutoRepairStartEffect, hlane, if_neg hstarts]

/-- RETRAIN waits for vertical blank. -/
def RetrainWaits (n : Nat) (s : State) : Prop := lopRuns s (pgMCU n) 3 = true ∧ (s.mcu n).vbWait = true

/-- A cancel during the wait takes effect at its end. -/
theorem mcuRetrainVblankReadyEffect_cancelling (late : Bool) (h : RetrainWaits n s) (hst : s.lop (pgMCU n) = lopCANCELLING) :
    mcuRetrainVblankReadyEffect n late s = lopCancelled (pgMCU n) (s.modMcu n fun x => { x with vbWait := false }) := by
  obtain ⟨hruns, hwait⟩ := h
  simp [mcuRetrainVblankReadyEffect, hruns, hwait, hst]

/-- Otherwise the channel is paused once the named heads that scan are in vertical blank, or when the wait ran out. -/
theorem mcuRetrainVblankReadyEffect_ready {late : Bool} (h : RetrainWaits n s) (hst : s.lop (pgMCU n) ≠ lopCANCELLING)
    (hready : late = true ∨
      ((scanningHeads s (s.lopArg (pgMCU n) 2 % 16)).all fun h => s.flag (pgDH h) F.DH_STATUS_IN_VBLANK) = true) :
    mcuRetrainVblankReadyEffect n late s = retrainPause n late s := by
  obtain ⟨hruns, hwait⟩ := h
  have hwaits : ¬ (!(lopRuns s (pgMCU n) 3 && (s.mcu n).vbWait)) = true := by simp [hruns, hwait]
  calc mcuRetrainVblankReadyEffect n late s
      = _ := if_neg hwaits
    _ = _ := if_neg hst
    _ = retrainPause n late s := if_pos (Bool.or_eq_true_iff.mpr hready)

end

/-! Writes that the word's bits decide (R336, R337). -/

section
variable (n : Nat) {v : Nat} (s : State)

/-- ECC_CLR written 1 zeroes the counts and the record of errors. -/
theorem mcuEccClr_clear (hclear : bitOf v 0 = true) :
    mcuEccClr n v s = s.zeroWords [pgMCU n + 0x114, pgMCU n + 0x118, pgMCU n + 0x11C, pgMCU n + 0x120] := if_pos hclear

/-- Written 0 it does nothing. -/
theorem mcuEccClr_keep (hclear : bitOf v 0 = false) : mcuEccClr n v s = s := if_neg (Bool.eq_false_iff.mp hclear)

/-- A two-symbol error is stored when it is asked for, whatever the other bit asks for. -/
theorem mcuInjectWrite_double (hdouble : bitOf v 1 = true) :
    mcuInjectWrite n v s = s.modMcu n fun x => { x with inject := 2 } := if_pos hdouble

/-- A one-symbol error when that alone is. -/
theorem mcuInjectWrite_single (hdouble : bitOf v 1 = false) (hsingle : bitOf v 0 = true) :
    mcuInjectWrite n v s = s.modMcu n fun x => { x with inject := 1 } :=
  (if_neg (Bool.eq_false_iff.mp hdouble)).trans (if_pos hsingle)

end

/-- Settles O34: each START and each write by its register's effect, and each event by its own, on the branch that its condition
chooses. -/
theorem memoryControllerCommandsComplete : Obligations.MemoryControllerCommandsComplete := by
  intro req n ix lane err c x rest v ok late
  refine ⟨?access, ?autoRepair, ?patrol, ?patrolEnd, ?pcLost, ?init, ?initPc, ?scrub, ?scrubUnit, ?retrain, ?cancelled, ?paused,
    ?retrained, ?timeout, fun hclear => ?eccClear, fun hclear => ?eccKeep, fun hdouble => ?double, fun hdouble hsingle => ?single⟩
  case access => exact completesEval_of_exec_liveP (fun _ => rfl) fun _ hladder => if_neg (Nat.not_le.mpr hladder)
  case autoRepair =>
    exact completesEval_of_exec_liveP (fun _ => rfl) fun s ⟨hlane, hauto, hfree, hrun⟩ =>
      mcuAutoRepairStartEffect_free hlane hauto hfree hrun
  case patrol =>
    exact completesEval_of_exec_liveP (fun _ => rfl) fun s ⟨hen, hladder, hk⟩ => patrolUnitEffect_inner ⟨hen, hladder⟩ hk
  case patrolEnd =>
    exact completesEval_of_exec_liveP (fun _ => rfl) fun s ⟨hen, hladder, hk⟩ => patrolUnitEffect_last ⟨hen, hladder⟩ hk
  case pcLost => exact completesEval_of_exec_liveP (fun _ => rfl) fun _ honline => if_pos honline
  case init => exact writeCompletesEval_of_exec_liveP (fun _ => rfl) fun _ => rfl
  case initPc => exact completesEval_of_exec_liveP (fun _ => rfl) fun _ _ => rfl
  case scrub => exact writeCompletesEval_of_exec_liveP (fun _ => rfl) fun _ => rfl
  case scrubUnit => exact completesEval_of_exec_liveP (fun _ => rfl) fun _ _ => rfl
  case retrain => exact writeCompletesEval_of_exec_liveP (fun _ => rfl) fun _ => rfl
  case cancelled =>
    exact completesEval_of_exec_liveP (fun _ => rfl) fun s ⟨hruns, hwait, hst⟩ =>
      mcuRetrainVblankReadyEffect_cancelling late ⟨hruns, hwait⟩ hst
  case paused =>
    exact completesEval_of_exec_liveP (fun _ => rfl) fun s ⟨hruns, hwait, hst, hready⟩ =>
      mcuRetrainVblankReadyEffect_ready ⟨hruns, hwait⟩ hst hready
  case retrained =>
    exact completesEval_of_exec_liveP (fun _ => rfl) fun s ⟨hruns, hwait⟩ => if_pos (by simp [hruns, hwait])
  case timeout =>
    exact completesEval_of_exec_liveP (fun _ => rfl) fun s ⟨hruns, hpaused⟩ => if_pos (Bool.and_eq_true_iff.mpr ⟨hruns, hpaused⟩)
  case eccClear => exact writeCompletesEval_of_exec_liveP (fun _ => rfl) fun s => mcuEccClr_clear n s hclear
  case eccKeep => exact writeCompletesEval_of_exec_liveP (fun _ => rfl) fun s => mcuEccClr_keep n s hclear
  case double => exact writeCompletesEval_of_exec_liveP (fun _ => rfl) fun s => mcuInjectWrite_double n s hdouble
  case single => exact writeCompletesEval_of_exec_liveP (fun _ => rfl) fun s => mcuInjectWrite_single n s hdouble hsingle

/-- Settles O35: the writes of IMAP and RES by their registers' effects, and the end of a window and the aging of a host access by
their own. -/
theorem memoryQualityCommandsComplete : Obligations.MemoryQualityCommandsComplete := by
  intro req n ix hi v
  refine ⟨?imap, ?res, ?windowEnd, ?aged⟩
  case imap => exact writeCompletesEval_of_exec_liveP (fun _ => rfl) fun _ => rfl
  case res => exact writeCompletesEval_of_exec_liveP (fun _ => rfl) fun _ => rfl
  case windowEnd => exact completesEval_of_exec_liveP (fun _ => rfl) fun _ _ => rfl
  case aged => exact completesEval_of_exec_liveP (fun _ => rfl) fun _ _ => rfl

end Sys2Proof.Machine
end

