-- ==== Sys2Proof/Proofs/PacketFormat.lean ====
section
/-! PROOF. The packet format (12 R344-R346, 13 R371): the header is a number made of fields, each of which reads back, and a packet's
flits hold its header and payload whole. -/
namespace Sys2Proof.Machine
open Sys2Proof

/-! Numbers made of fields. -/

/-- The number whose fields, from bit 0 on, have the given widths and values. -/
def packed : List (Nat × Nat) → Nat
  | [] => 0
  | (wid, v) :: r => v + 2 ^ wid * packed r

/-- The first bit above fields. -/
def packedBits (fs : List (Nat × Nat)) : Nat := (fs.map Prod.fst).sum

/-- Every value lies in its field. -/
def Fits (fs : List (Nat × Nat)) : Prop := ∀ x ∈ fs, x.2 < 2 ^ x.1

/-- Fields that hold their values fill no bit beyond them. -/
theorem packed_lt {fs : List (Nat × Nat)} (h : Fits fs) : packed fs < 2 ^ packedBits fs := by
  induction fs with
  | nil => exact Nat.one_pos
  | cons x r ih =>
    obtain ⟨wid, v⟩ := x
    obtain ⟨hv, hr⟩ := List.forall_mem_cons.mp h
    have hlt : packed r + 1 ≤ 2 ^ packedBits r := ih hr
    calc v + 2 ^ wid * packed r < 2 ^ wid + 2 ^ wid * packed r := Nat.add_lt_add_right hv _
      _ = 2 ^ wid * (packed r + 1) := by ring
      _ ≤ 2 ^ wid * 2 ^ packedBits r := Nat.mul_le_mul_left _ hlt
      _ = 2 ^ packedBits ((wid, v) :: r) := by rw [← pow_add]; rfl

/-- A field of the number reads back. -/
theorem getBits_packed {pre post : List (Nat × Nat)} {wid v : Nat} (h : Fits (pre ++ (wid, v) :: post)) :
    getBits (packed (pre ++ (wid, v) :: post)) (packedBits pre) wid = v := by
  induction pre with
  | nil =>
    have hv : v < 2 ^ wid := h (wid, v) (by simp)
    simp [packed, packedBits, getBits, Nat.mod_eq_of_lt hv]
  | cons x r ih =>
    obtain ⟨w, u⟩ := x
    obtain ⟨hu, hr⟩ := List.forall_mem_cons.mp h
    have hbits : packedBits ((w, u) :: r) = w + packedBits r := rfl
    have hdrop : (u + 2 ^ w * packed (r ++ (wid, v) :: post)) / 2 ^ w = packed (r ++ (wid, v) :: post) := by
      rw [Nat.add_mul_div_left _ _ (Nat.two_pow_pos w), Nat.div_eq_of_lt hu, Nat.zero_add]
    have hread := ih hr
    rw [getBits, ← hdrop, Nat.div_div_eq_div_mul, ← pow_add] at hread
    exact hread

/-! The header (Table 12.1). -/

section
variable (p : Packet)

/-- The fields of the header, from bit 0 on. -/
def headerFields : List (Nat × Nat) :=
  [(13, p.dst), (13, p.src), (12, p.slice), (3, p.tc), (6, p.op), (3, p.len), (43, p.offset), (16, p.tag % 2 ^ 16),
    (1, b2n p.ordered), (1, b2n p.poison), (1, b2n p.mark), (1, b2n p.detour), (4, 0), (7, p.words), (4, p.tag / 2 ^ 16)]

/-- The widths of those fields. -/
def headerWidths : List Nat := [13, 13, 12, 3, 6, 3, 43, 16, 1, 1, 1, 1, 4, 7, 4]

theorem headerFields_widths : (headerFields p).map Prod.fst = headerWidths := rfl

/-- The header as a number. -/
def headerNumber : Nat := packed (headerFields p)

theorem b2n_lt (b : Bool) : b2n b < 2 ^ 1 := by cases b <;> decide

variable {p} (hp : pktOk p = true)
include hp

/-- Fields in the widths of Table 12.1 fit; TAG lies in two of them. -/
theorem fits_headerFields : Fits (headerFields p) := by
  simp only [pktOk, Bool.and_eq_true, decide_eq_true_eq] at hp
  obtain ⟨⟨⟨⟨⟨⟨⟨⟨⟨⟨hdst, hsrc⟩, hslice⟩, htc⟩, hop⟩, hlen⟩, hoffset⟩, htag⟩, hwords⟩, -⟩, -⟩ := hp
  have hlow : p.tag % 2 ^ 16 < 2 ^ 16 := Nat.mod_lt _ (by decide)
  have hhigh : p.tag / 2 ^ 16 < 2 ^ 4 := by omega
  simp only [Fits, headerFields, List.forall_mem_cons]
  exact ⟨hdst, hsrc, hslice, htc, hop, hlen, hoffset, hlow, b2n_lt _, b2n_lt _, b2n_lt _, b2n_lt _, by decide, hwords, hhigh,
    fun _ h => absurd h List.not_mem_nil⟩

/-- The receiver reads the header's sixteen bytes as that number. -/
theorem leNat_headerBytes : leNat (headerBytes p) = headerNumber p := by
  have hwidths : headerWidths.sum = 8 * 16 := by decide
  have hbits : packedBits (headerFields p) = 8 * 16 := hwidths
  have hlt : packed (headerFields p) < 2 ^ packedBits (headerFields p) := packed_lt (fits_headerFields hp)
  rw [hbits, pow_mul] at hlt
  have hmod : headerNumber p % 256 ^ 16 = headerNumber p := Nat.mod_eq_of_lt hlt
  rw [headerBytes, leNat_leBytes, ← hmod]
  simp only [headerNumber, headerFields, packed]
  ring_nf

/-- A field of the header reads back at the bit it begins at. -/
theorem getBits_header (i : Nat) {lo wid v : Nat} (hi : (headerFields p)[i]? = some (wid, v))
    (hlo : (headerWidths.take i).sum = lo) : getBits (headerNumber p) lo wid = v := by
  have hsplit : headerFields p = (headerFields p).take i ++ (wid, v) :: (headerFields p).drop (i + 1) := by
    obtain ⟨hlt, hget⟩ := List.getElem?_eq_some_iff.mp hi
    rw [← hget, ← List.drop_eq_getElem_cons hlt, List.take_append_drop]
  have hbits : packedBits ((headerFields p).take i) = lo := by
    rw [packedBits, List.map_take, headerFields_widths, hlo]
  have hread := getBits_packed (hsplit ▸ fits_headerFields hp)
  rwa [← hsplit, hbits] at hread

/-- A flag of the header reads back. -/
theorem bitOf_header (i : Nat) {n : Nat} (b : Bool) (hi : (headerFields p)[i]? = some (1, b2n b))
    (hn : (headerWidths.take i).sum = n) : bitOf (headerNumber p) n = b := by
  have hbit : bitOf (headerNumber p) n = (getBits (headerNumber p) n 1 == 1) := rfl
  rw [hbit, getBits_header hp i hi hn]
  cases b <;> rfl

end

/-! Flits (13 R371). -/

theorem cutFlits_length (n : Nat) (l : List Byte) : (cutFlits n l).length = n := by
  induction n generalizing l with
  | zero => rfl
  | succ n ih => rw [cutFlits, List.length_cons, ih]

/-- Every flit of a string of whole flits is full. -/
theorem length_of_mem_cutFlits {n : Nat} {l f : List Byte} (hl : l.length = 64 * n) (hf : f ∈ cutFlits n l) : f.length = 64 := by
  induction n generalizing l with
  | zero => exact absurd hf List.not_mem_nil
  | succ n ih =>
    obtain rfl | hrest := List.mem_cons.mp hf
    · rw [List.length_take]; omega
    · exact ih (by rw [List.length_drop]; omega) hrest

/-- The flits hold the whole string. -/
theorem flatten_cutFlits {n : Nat} {l : List Byte} (hl : l.length = 64 * n) : (cutFlits n l).flatten = l := by
  induction n generalizing l with
  | zero => exact (List.length_eq_zero_iff.mp hl).symm
  | succ n ih => rw [cutFlits, List.flatten_cons, ih (by rw [List.length_drop]; omega), List.take_append_drop]

section
variable {p : Packet}

@[simp] theorem headerBytes_length : (headerBytes p).length = 16 := leBytes_length 16 _

theorem padTo_length {n : Nat} {l : List Byte} (h : l.length ≤ n) : (padTo n l).length = n := by
  rw [padTo, List.length_append, List.length_replicate, Nat.add_sub_cancel' h]

/-- A payload of the length that LEN gives lies in the packet's flits, behind the header (R346). -/
theorem payload_fits (hl : lenOk p = true) (hd : p.data.length = payloadLen p.op p.words) :
    (headerBytes p ++ p.data).length ≤ 64 * pktFlits p := by
  simp only [lenOk, Bool.and_eq_true, beq_iff_eq] at hl
  obtain ⟨⟨-, hlen⟩, -⟩ := hl
  rw [List.length_append, headerBytes_length, hd, pktFlits, hlen, flitsLess1]
  omega

/-- The receiver reads the packet from its header and payload, whatever padding follows. -/
theorem packetOf_header (g : Nat) (rest : List Byte) (hp : pktOk p = true) (hd : p.data.length = payloadLen p.op p.words) :
    packetOf g (headerBytes p ++ p.data ++ rest) = { p with req := mgmt, port := g } := by
  have hhead : (headerBytes p ++ p.data ++ rest).take 16 = headerBytes p := by
    rw [List.append_assoc]; exact List.take_left' headerBytes_length
  have hdata : ((headerBytes p ++ p.data ++ rest).drop 16).take (payloadLen p.op p.words) = p.data := by
    rw [List.append_assoc, List.drop_left' headerBytes_length]; exact List.take_left' hd
  have htag : p.tag % 2 ^ 16 + p.tag / 2 ^ 16 * 2 ^ 16 = p.tag := by omega
  have hdst : getBits (headerNumber p) 0 13 = p.dst := getBits_header hp 0 rfl (by decide)
  have hsrc : getBits (headerNumber p) 13 13 = p.src := getBits_header hp 1 rfl (by decide)
  have hslice : getBits (headerNumber p) 26 12 = p.slice := getBits_header hp 2 rfl (by decide)
  have htc : getBits (headerNumber p) 38 3 = p.tc := getBits_header hp 3 rfl (by decide)
  have hop : getBits (headerNumber p) 41 6 = p.op := getBits_header hp 4 rfl (by decide)
  have hlen : getBits (headerNumber p) 47 3 = p.len := getBits_header hp 5 rfl (by decide)
  have hoffset : getBits (headerNumber p) 50 43 = p.offset := getBits_header hp 6 rfl (by decide)
  have htagLow : getBits (headerNumber p) 93 16 = p.tag % 2 ^ 16 := getBits_header hp 7 rfl (by decide)
  have hwords : getBits (headerNumber p) 117 7 = p.words := getBits_header hp 13 rfl (by decide)
  have htagHigh : getBits (headerNumber p) 124 4 = p.tag / 2 ^ 16 := getBits_header hp 14 rfl (by decide)
  have hordered : bitOf (headerNumber p) 109 = p.ordered := bitOf_header hp 8 p.ordered rfl (by decide)
  have hpoison : bitOf (headerNumber p) 110 = p.poison := bitOf_header hp 9 p.poison rfl (by decide)
  have hmark : bitOf (headerNumber p) 111 = p.mark := bitOf_header hp 10 p.mark rfl (by decide)
  have hdetour : bitOf (headerNumber p) 112 = p.detour := bitOf_header hp 11 p.detour rfl (by decide)
  simp only [packetOf, hhead, leNat_headerBytes hp, hdst, hsrc, hslice, htc, hop, hlen, hoffset, htagLow, hwords, htagHigh,
    hordered, hpoison, hmark, hdetour, hdata, htag]

end

/-- Settles O10: the flits hold the padded string whole, and each field of its header reads back. -/
theorem packetFlitsRoundTrip : Obligations.PacketFlitsRoundTrip := by
  intro p g hp hl hd
  have hpad := padTo_length (payload_fits hl hd)
  rw [flitsOf]
  refine ⟨cutFlits_length _ _, fun f hf => length_of_mem_cutFlits hpad hf, ?_⟩
  rw [flatten_cutFlits hpad]
  exact packetOf_header g _ hp hd

end Sys2Proof.Machine
end

