-- ==== Sys2Proof/Proofs/CounterClears.lean ====
section
/-! PROOF. Counter clears (17 R509, 18 R541, R544, 20 R605, 21 R632, 24 R700): a clear zeroes the words that its register names, and
since it holds no setting it never marks CUSTOM (R81). -/
namespace Sys2Proof.Machine
open Sys2Proof

/-! Words set to 0. -/

section
variable (s : State) (ws : List Nat)

theorem zeroWords_cons (a : Nat) : s.zeroWords (a :: ws) = (s.setWord a 0).zeroWords ws := rfl

/-- The words named read 0, and every other word reads as before. -/
theorem word_zeroWords (x : Nat) : (s.zeroWords ws).word x = if x ∈ ws then 0 else s.word x := by
  induction ws generalizing s with
  | nil => rfl
  | cons a r ih =>
    rw [zeroWords_cons, ih]
    by_cases hr : x ∈ r
    · rw [if_pos hr, if_pos (List.mem_cons_of_mem a hr)]
    · by_cases ha : x = a
      · subst ha
        rw [if_neg hr, if_pos List.mem_cons_self, word_setWord_same]
      · rw [if_neg hr, if_neg (by simp [ha, hr]), word_setWord_other s 0 ha]

/-- Nothing but registers changes. -/
theorem zeroWords_regs_only : { s.zeroWords ws with regs := s.regs } = s := by
  have hframe : ∀ (ws : List Nat) (u : State), { u.zeroWords ws with regs := s.regs } = { u with regs := s.regs } := by
    intro ws
    induction ws with
    | nil => exact fun _ => rfl
    | cons a r ih => exact fun u => ih (u.setWord a 0)
  exact hframe ws s

end

/-! The mark CUSTOM. -/

/-- A write of a word that holds no setting of the requester's does not mark CUSTOM (R81). -/
theorem customMark_of_no_setting {req pg off n : Nat} {k : PageKind} (hp : pageOf pg = some (k, n))
    (hset : storesSetting k req off = false) (s : State) : customMark req pg off s = s := by
  simp [customMark, hp, hset]

/-- Which settings a word stores turns on whether the requester is the management domain, and on nothing else of it. -/
theorem storesSetting_congr {req req' : Nat} (h : req = mgmt ↔ req' = mgmt) (k : PageKind) (off : Nat) :
    storesSetting k req off = storesSetting k req' off := by
  simp only [storesSetting, h]

/-- A word that stores no setting of partition 0's and none of the management domain's stores none. -/
theorem storesSetting_eq_false {k : PageKind} {off : Nat} (hpart : storesSetting k 0 off = false)
    (hmgmt : storesSetting k mgmt off = false) (req : Nat) : storesSetting k req off = false := by
  by_cases h : req = mgmt
  · rw [h, hmgmt]
  · rw [storesSetting_congr (req' := 0) (iff_of_false h (by decide)) k off, hpart]

/-! Pages by their number. -/

section
variable {n : Nat} (h : n < 4)
include h

theorem pageOf_pgDH : pageOf (pgDH n) = some (.dh, n) := by interval_cases n <;> rfl
theorem pageOf_pgDPTX : pageOf (pgDPTX n) = some (.dptx, n) := by interval_cases n <;> rfl
theorem pageOf_pgPROT : pageOf (pgPROT n) = some (.prot, n) := by interval_cases n <;> rfl
theorem pageOf_pgCSI : pageOf (pgCSI n) = some (.csi, n) := by interval_cases n <;> rfl
theorem pageOf_pgISP : pageOf (pgISP n) = some (.isp, n) := by interval_cases n <;> rfl

end

/-! Counter clears. -/

/-- A checked write that zeroes words with bit 0, and without it does nothing, completes as a counter clear. -/
theorem clearCompletes_of_zeroWords {c : Word → Instr} {own : Word → State → State} {req a : Nat} {words : List Nat}
    (hc : ∀ v s, exec (c v) s = live s (regWrite req a (own v)))
    (hown : ∀ v s, own v s = if bitOf v.toNat 0 then s.zeroWords words else s) : ClearCompletes c req a words id :=
  clearCompletes_of_exec_live hc (fun v s hv => by rw [hown, if_pos hv, id_eq])
    fun v s hv => by rw [hown, if_neg (Bool.eq_false_iff.mp hv)]

section
variable (req n : Nat)

theorem clearCompletes_metCntClr : ClearCompletes (.metCntClr req) req (pgMET + 0x130) [pgMET + 0x120, pgMET + 0x124] id :=
  clearCompletes_of_zeroWords (fun _ _ => rfl) fun _ _ => rfl

theorem clearCompletes_dhCntClr : ClearCompletes (.dhCntClr req n) req (pgDH n + 0x174)
    [pgDH n + 0x14C, pgDH n + 0x150, pgDH n + 0x154, pgDH n + 0x164] id :=
  clearCompletes_of_zeroWords (fun _ _ => rfl) fun _ _ => rfl

theorem clearCompletes_dptxCntClr : ClearCompletes (.dptxCntClr req n) req (pgDPTX n + 0x134)
    [pgDPTX n + 0x12C, pgDPTX n + 0x130] id :=
  clearCompletes_of_zeroWords (fun _ _ => rfl) fun _ _ => rfl

theorem clearCompletes_bltCntClr : ClearCompletes (.bltCntClr req) req (pgBLT + 0x16C) [pgBLT + 0x158] id :=
  clearCompletes_of_zeroWords (fun _ _ => rfl) fun _ _ => rfl

theorem clearCompletes_csiCntClr : ClearCompletes (.csiCntClr req n) req (pgCSI n + 0x128)
    [pgCSI n + 0x114, pgCSI n + 0x118] id :=
  clearCompletes_of_zeroWords (fun _ _ => rfl) fun _ _ => rfl

theorem clearCompletes_ispCntClr : ClearCompletes (.ispCntClr req n) req (pgISP n + 0x128)
    [pgISP n + 0x120, pgISP n + 0x124] id :=
  clearCompletes_of_zeroWords (fun _ _ => rfl) fun _ _ => rfl

theorem clearCompletes_errCntClr : ClearCompletes (.errCntClr req) req (pgERR + 0x144)
    ((List.range 16).map fun k => pgERR + 0x100 + 4 * k) id :=
  clearCompletes_of_zeroWords (fun _ _ => rfl) fun _ _ => rfl

end

/-- What holds of a counter clear of a state, written with a word that names words. -/
def TouchesWordsOnly (i : Instr) (v : Word) (ws : List Nat) (s : State) : Prop :=
  ∃ t, exec i s = .next t ∧ { t with regs := s.regs } = s ∧ (∀ x, x ∉ ws → t.word x = s.word x) ∧
    (bitOf v.toNat 0 = true → ∀ x ∈ ws, t.word x = 0) ∧ (bitOf v.toNat 0 = false → t = s)

/-- A completed counter clear of a word without settings touches its words alone. -/
theorem touchesWordsOnly_of_clearCompletes {c : Word → Instr} {req pg off n : Nat} {k : PageKind} {words : List Nat}
    (hc : ClearCompletes c req (pg + off) words id) (hpg : pg % 0x1000 = 0) (hoff : off < 0x1000)
    (hp : pageOf pg = some (k, n)) (hpart : storesSetting k 0 off = false) (hmgmt : storesSetting k mgmt off = false)
    {s : State} (hs : s.chip.inReset = false) (hok : checkWrite s req (pg + off) = .ok) (v : Word) :
    TouchesWordsOnly (c v) v words s := by
  have hmark : ∀ t, customMark req (pg + off - (pg + off) % 0x1000) ((pg + off) % 0x1000) t = t := fun t => by
    rw [page_add_mod hpg hoff, Nat.add_sub_cancel]
    exact customMark_of_no_setting hp (storesSetting_eq_false hpart hmgmt req) t
  obtain ⟨hset, hkeep⟩ := hc v
  cases hv : bitOf v.toNat 0 with
  | true =>
    refine ⟨s.zeroWords words, (hset hv s hs hok).trans (congrArg _ (hmark (s.zeroWords words))), zeroWords_regs_only s words,
      fun x hx => by rw [word_zeroWords, if_neg hx], fun _ x hx => by rw [word_zeroWords, if_pos hx], fun h => ?_⟩
    exact absurd (hv.symm.trans h) (by decide)
  | false =>
    refine ⟨s, (hkeep hv s hs hok).trans (congrArg _ (hmark s)), rfl, fun _ _ => rfl, fun h => ?_, fun _ => rfl⟩
    exact absurd (hv.symm.trans h) (by decide)

/-- Settles O55: each register completes as a counter clear and holds no setting. ERR's clear is R700's, and CSI's R631's. -/
theorem counterClearsTouchTheirWordsOnly : Obligations.CounterClearsTouchTheirWordsOnly := by
  intro s req n v i a ws hi hn hs hok
  have hpage : ∀ b, (b + n * 0x1000) % 0x1000 = b % 0x1000 := fun b => by omega
  simp only [List.mem_cons, Prod.mk.injEq, List.not_mem_nil, or_false] at hi
  obtain ⟨rfl, rfl, rfl⟩ | ⟨rfl, rfl, rfl⟩ | ⟨rfl, rfl, rfl⟩ | ⟨rfl, rfl, rfl⟩ | ⟨rfl, rfl, rfl⟩ | ⟨rfl, rfl, rfl⟩ |
    ⟨rfl, rfl, rfl⟩ := hi
  · exact touchesWordsOnly_of_clearCompletes (n := 0) (clearCompletes_metCntClr req) rfl (by decide) rfl (by decide) (by decide)
      hs hok v
  · exact touchesWordsOnly_of_clearCompletes (clearCompletes_dhCntClr req n) (hpage _) (by decide) (pageOf_pgDH hn) (by decide)
      (by decide) hs hok v
  · exact touchesWordsOnly_of_clearCompletes (clearCompletes_dptxCntClr req n) (hpage _) (by decide) (pageOf_pgDPTX hn)
      (by decide) (by decide) hs hok v
  · exact touchesWordsOnly_of_clearCompletes (n := 0) (clearCompletes_bltCntClr req) rfl (by decide) rfl (by decide) (by decide)
      hs hok v
  · exact touchesWordsOnly_of_clearCompletes (clearCompletes_csiCntClr req n) (hpage _) (by decide) (pageOf_pgCSI hn) (by decide)
      (by decide) hs hok v
  · exact touchesWordsOnly_of_clearCompletes (clearCompletes_ispCntClr req n) (hpage _) (by decide) (pageOf_pgISP hn) (by decide)
      (by decide) hs hok v
  · exact touchesWordsOnly_of_clearCompletes (n := 0) (clearCompletes_errCntClr req) rfl (by decide) rfl (by decide) (by decide)
      hs hok v

end Sys2Proof.Machine
end

