-- ==== Sys2Proof/Proofs/LinkPorts.lean ====
section
/-! PROOF. Ports and lanes of the Voano links (13 R363-R369, R375, R376, R381-R392): each command acts in the state of the port or
the operation that it belongs to. -/
namespace Sys2Proof.Machine
open Sys2Proof

/-! Ports (R365, R368, R375). -/

section
variable {s : State} {n g : Nat}

/-- The pending split takes effect when every port of the link is down (R365, R412). -/
theorem splitApply_ready (hpend : s.flag (pgLX n) F.LX_CFG_STATUS_SPLIT_PENDING = true) (hdown : portsDown s n = true) :
    splitApply n s =
      (let t := (s.wr (pgLX n) F.LX_CFG_STATUS_SPLIT_NOW (s.rd (pgLX n) F.LX_CFG_SPLIT)).wr (pgLX n) F.LX_CFG_STATUS_SPLIT_PENDING 0
       (List.range 4).foldl (fun s j =>
         let s := deriveDepth n j (deriveCredits n j s)
         if portExists s (4 * n + j) then s
         else setPortState (4 * n + j) 0 (s.wr (pgLX n) F.LX_PCTRL_EN 0 0 j)) t) :=
  if_pos (by simp [hpend, hdown])

/-- In state IDENT an IDENT is answered, and the partner recorded (R368). -/
theorem identReceive_ident {p : Packet} (hop : p.op = 0x30) (hlen : p.data.length = 48) (hst : portState s g = 2) :
    identReceive g p s =
      (let t := agentSend g { floodPacket s 7 0x31 1 (p.data.take 4) with port := g } s
       if portState t g = 2 then identComplete g (identRecord g p t) else t) :=
  if_neg (by simp [hop, hlen, hst])

/-- The answer to the IDENT that this port sent (R368). -/
theorem identAck_own {echo : Nat} (hst : portState s g = 2) (hecho : echo = payloadAt (identPacket s g).data 0 4) :
    identAck g echo s = identComplete g (s.modPort g fun p => { p with gotAck := true }) :=
  if_pos (by simp [hst, hecho])

/-- No REPLAY answers a NAK in time (R375): the NAK goes out again, until REPLAY.MAX is reached and the port is lost (log 48). -/
theorem nakWait_nak (hup : portUp s g = true) (hnak : (s.port g).nak = true) :
    nakWait g s =
      if s.rd (pgLX (g / 4)) F.LX_REPLAY_MAX 0 (g % 4) ≤ (s.port g).nakTries then portLost g 3 s
      else addItem g 2 (s.port g).rxWant 0 (s.setPort g { s.port g with nakTries := (s.port g).nakTries + 1 }) := by
  simp only [nakWait, hup, hnak, Bool.not_true, Bool.false_eq_true, if_false, if_true]

end

/-- The loss of the links' reference clock takes every port that is up down (R742). -/
theorem completesEval_refclkLnkLoss : CompletesEval (.refclkLnkLoss false) (fun _ => True)
    (fun s => (List.range 24).foldl (fun s g => if portUp s g then portLost g 1 s else s)
      { s with chip := { s.chip with refLnk := false } }) := by
  intro s hs _
  exact (if_neg (Bool.eq_false_iff.mp hs)).trans (liveP_next { s with chip := { s.chip with refLnk := false } } _ hs)

/-- Settles O36: each command acts in the state of its port; that REPLAY.MAX unanswered NAKs lose the port is R376, as the model
counts them (log 48). -/
theorem linkPortCommandsComplete : Obligations.LinkPortCommandsComplete := by
  intro req n j g k v tx rx inv okm echo eq p begin
  refine ⟨?enable, ?disable, ?splitWrite, ?splitApply, ?retrain, ?trained, ?untrained, ?ident, ?identAck, ?identResend, ?nakAgain,
    ?nakLost, ?partnerLoss, ?retry, ?restNote, ?signalReturn, completesEval_refclkLnkLoss, ?settleEnd⟩
  case enable => exact writeCompletesEval_of_exec_liveP (fun _ => rfl) fun _ => rfl
  case disable => exact writeCompletesEval_of_exec_liveP (fun _ => rfl) fun _ => rfl
  case splitWrite => exact writeCompletes_of_exec_live (fun _ => rfl) fun _ => rfl
  case splitApply => exact completes_of_exec_live (fun _ => rfl) fun _ ⟨hpend, hdown⟩ => splitApply_ready hpend hdown
  case retrain => exact writeCompletesEval_of_exec_liveP (fun _ => rfl) fun _ => rfl
  case trained => exact completesEval_of_exec_liveP (fun _ => rfl) fun _ ⟨hst, href⟩ => if_pos (by simp [hst, href])
  case untrained => exact completesEval_of_exec_liveP (fun _ => rfl) fun _ hst => if_pos hst
  case ident => exact completesEval_of_exec_liveP (fun _ => rfl) fun _ ⟨hop, hlen, hst⟩ => identReceive_ident hop hlen hst
  case identAck => exact completesEval_of_exec_liveP (fun _ => rfl) fun _ ⟨hst, hecho⟩ => identAck_own hst hecho
  case identResend => exact completes_of_exec_live (fun _ => rfl) fun _ ⟨hst, hack⟩ => if_pos (by simp [hst, hack])
  case nakAgain =>
    exact completesEval_of_exec_liveP (fun _ => rfl) fun _ ⟨hup, hnak, hmax⟩ =>
      (nakWait_nak hup hnak).trans (if_neg (Nat.not_le.mpr hmax))
  case nakLost =>
    exact completesEval_of_exec_liveP (fun _ => rfl) fun _ ⟨hup, hnak, hmax⟩ => (nakWait_nak hup hnak).trans (if_pos hmax)
  case partnerLoss => exact completesEval_of_exec_liveP (fun _ => rfl) fun _ hup => if_pos hup
  case retry => exact completesEval_of_exec_liveP (fun _ => rfl) fun _ ⟨hen, hst⟩ => if_pos (by simpa [hen] using hst)
  case restNote => exact completes_of_exec_live (fun _ => rfl) fun _ hup => if_pos hup
  case signalReturn => exact completesEval_of_exec_liveP (fun _ => rfl) fun _ ⟨hst, hdeep⟩ => if_pos (by simp [hst, hdeep])
  case settleEnd => exact completes_of_exec_live (fun _ => rfl) fun _ hset => if_pos hset

/-! Lanes (R386, R387). -/

/-- The lane that an automatic retraining takes: the first that failed, has not failed to train, is out of use and belongs to an
ACTIVE port (R386). -/
def retrainCandidate (n : Nat) (s : State) : Option Nat :=
  (List.range 32).find? fun k => s.flag (pgLX n) F.LX_LANE_FAILING k && !s.flag (pgLX n) F.LX_LANE_BAD k &&
    !s.flag (pgLX n) F.LX_LANE_RX_USE k && portState s (portOfLane s n k) = 3

theorem lxAutoLaneRetrainStartEffect_lane {n k : Nat} {s : State} (hlane : retrainCandidate n s = some k)
    (hauto : s.flag (pgLX n) F.LX_CFG_AUTO_LANE_RETRAIN = true) (hidle : s.lopActive (pgLX n) = false)
    (hrun : s.running (pgLX n) = true) (hav : s.avail (pgLX n) = true) :
    lxAutoLaneRetrainStartEffect n s =
      (let t := lopAccept (pgLX n) 1 s
       { t with lopArgs := fset (fun _ => []) t.lopArgs (pgLX n) [portOfLane t n k % 4, 3, 2 ^ k, 0] }) := by
  rw [retrainCandidate] at hlane
  simp only [lxAutoLaneRetrainStartEffect, hlane, hauto, hidle, hrun, hav, Bool.not_false, Bool.and_self, if_true]

/-- Settles O37: each command by its own effect, in the operation that it belongs to. -/
theorem linkLaneCommandsComplete : Obligations.LinkLaneCommandsComplete := by
  intro req n j k errs v ok
  refine ⟨?lockLoss, ?auto, ?trained, ?testStart, ?testUnit, fun hv => ?laneClear, fun hv => ?laneKeep, ?portClear⟩
  case lockLoss => exact completesEval_of_exec_liveP (fun _ => rfl) fun _ _ => rfl
  case auto =>
    exact completesEval_of_exec_liveP (fun _ => rfl) fun _ ⟨hlane, hauto, hidle, hrun, hav⟩ =>
      lxAutoLaneRetrainStartEffect_lane hlane hauto hidle hrun hav
  case trained => exact completesEval_of_exec_liveP (fun _ => rfl) fun _ _ => rfl
  case testStart => exact writeCompletesEval_of_exec_liveP (fun _ => rfl) fun _ => rfl
  case testUnit => exact completesEval_of_exec_liveP (fun _ => rfl) fun _ _ => rfl
  case laneClear => exact writeCompletes_of_exec_live (fun _ => rfl) fun _ => if_pos hv
  case laneKeep => exact writeCompletes_of_exec_live (fun _ => rfl) fun _ => if_neg (Bool.eq_false_iff.mp hv)
  case portClear => exact clearCompletes_of_zeroWords (fun _ _ => rfl) fun _ _ => rfl

end Sys2Proof.Machine
end

