-- ==== Sys2Proof/Proofs/Codewords.lean ====
section
/-! PROOF. Codewords and their header items (13 R370-R379, R385-R389): one that decodes without a corrected symbol has the effect
of its item, unless the port awaits a REPLAY. -/
namespace Sys2Proof.Machine
open Sys2Proof

section
variable {s : State} {g : Nat} {cw : Codeword}

/-- A codeword that cannot be corrected (R373). -/
theorem codewordIn_bad (hup : portUp s g = true) (hok : cw.ok = false) : codewordIn g cw s = codewordBad g s := by
  simp only [codewordIn, hup, hok, Bool.true_or, Bool.not_true, Bool.false_eq_true, if_false, Bool.not_false, if_true]

/-- A codeword without a corrected symbol, on a port that awaits no REPLAY or gets it now (R374-R376). -/
theorem codewordIn_clean (hup : portUp s g = true) (hok : cw.ok = true) (hsym : cw.sym = [])
    (hwait : (s.port g).nak = false ∨ cw.kind = 4) :
    codewordIn g cw s =
      (let t := itemEffect g cw.kind cw.arg cw.aux s
       if cw.num then codewordNumbered g cw t else t) := by
  have hgo : ((s.port g).nak && decide (cw.kind ≠ 4)) = false := by
    rcases hwait with h | h <;> simp [h]
  simp only [codewordIn, hup, hok, hsym, List.isEmpty_nil, Bool.true_or, Bool.not_true, Bool.false_eq_true, if_false, if_true, hgo]

/-- A header item that comes alone has its own effect. -/
theorem itemIn_clean {kind : Nat} (arg aux : Nat) (hup : portUp s g = true) (hwait : (s.port g).nak = false ∨ kind = 4) :
    itemIn g kind arg aux s = itemEffect g kind arg aux s :=
  codewordIn_clean hup rfl rfl hwait

/-- The commands that bring one header item, with the item. -/
theorem exec_headerItem (g n c ix hb : Nat) (add : Bool) (i : Instr) (kind arg aux : Nat)
    (hi : (i, kind, arg, aux) ∈ [(Instr.lxCwAck g n, 1, n, 0), (.lxCwNak g n, 2, n, 0), (.lxCwCredit g c n, 3, n - 1, c),
        (.lxCwDropReq g ix, 5, ix, 0), (.lxCwAddReq g ix, 5, ix, 1), (.lxCwMap g ix add, 5, ix + 32 * b2n add, 2),
        (.lxCwTestStart g ix, 5, ix, 3), (.lxCwTestStop g ix, 5, ix, 4), (.lxCwSleep g hb, 6, hb, 0), (.lxCwWakeReq g, 6, 0, 1),
        (.lxCwAwake g, 6, 0, 2), (.lxCwHeartbeat g, 6, 0, 3)]) (s : State) :
    exec i s = liveP s (itemIn g kind arg aux) := by
  simp only [List.mem_cons, Prod.mk.injEq, List.not_mem_nil, or_false] at hi
  obtain ⟨rfl, rfl, rfl, rfl⟩ | ⟨rfl, rfl, rfl, rfl⟩ | ⟨rfl, rfl, rfl, rfl⟩ | ⟨rfl, rfl, rfl, rfl⟩ | ⟨rfl, rfl, rfl, rfl⟩ |
    ⟨rfl, rfl, rfl, rfl⟩ | ⟨rfl, rfl, rfl, rfl⟩ | ⟨rfl, rfl, rfl, rfl⟩ | ⟨rfl, rfl, rfl, rfl⟩ | ⟨rfl, rfl, rfl, rfl⟩ |
    ⟨rfl, rfl, rfl, rfl⟩ | ⟨rfl, rfl, rfl, rfl⟩ := hi <;> rfl

end

/-- Settles O38: a codeword, or an item that comes alone, by its own effect, and the timers by theirs. -/
theorem codewordCommandsComplete : Obligations.CodewordCommandsComplete := by
  intro g n c ix hb add cw
  refine ⟨?clean, ?bad, fun i kind arg aux hi => ?item, ?replay, ?ack, ?burst⟩
  case clean =>
    exact completesEval_of_exec_liveP (fun _ => rfl) fun _ ⟨hup, hok, hsym, hwait⟩ => codewordIn_clean hup hok hsym hwait
  case bad => exact completesEval_of_exec_liveP (fun _ => rfl) fun _ ⟨hup, hok⟩ => codewordIn_bad hup hok
  case item =>
    exact completesEval_of_exec_liveP (exec_headerItem g n c ix hb add i kind arg aux hi) fun _ ⟨hup, hnak⟩ =>
      itemIn_clean arg aux hup (.inl hnak)
  case replay => exact completesEval_of_exec_liveP (fun _ => rfl) fun _ hup => itemIn_clean n 0 hup (.inr rfl)
  case ack => exact completes_of_exec_live (fun _ => rfl) fun _ ⟨hup, hdue⟩ => if_pos (by simp [hup, hdue])
  case burst => exact completesEval_of_exec_liveP (fun _ => rfl) fun _ _ => rfl

end Sys2Proof.Machine
end

