-- ==== Sys2Proof/Proofs/Routing.lean ====
section
/-! PROOF. Policing, scheduling and routing (14 R400-R414, 15 R427-R450): the head packet of a receive buffer by the policer that
matches it, and the clears and registers by their writes. -/
namespace Sys2Proof.Machine
open Sys2Proof

section
variable {g c i : Nat} {p : Packet} {d : Nat × Nat} {s : State}

section
variable (hp : rxHead s g c = some p) (hheld : ((s.port g).delayed.any fun d => d.1 = c) = false)
  (hawake : 6 ≤ c ∨ depth s < 2)
include hawake

/-- A class is not kept waiting for the exit from light sleep (R187). -/
theorem class_awake : (decide (c < 6) && decide (2 ≤ depth s)) = false := by
  rcases hawake with h | h <;> simp [h]

include hp hheld

/-- A head packet that no policer matches passes (R405). -/
theorem ingressPolice_unpoliced (hpol : policerOf (tspAdvance g s) g p = none) :
    ingressPolice g c s = passRx g p (tspAdvance g s) := by
  simp only [ingressPolice, hp, hheld, class_awake hawake, hpol, Bool.false_eq_true, if_false]

/-- One that a policer matches passes with a token, and else meets the policer's ACTION (R406). -/
theorem ingressPolice_policed (hpol : policerOf (tspAdvance g s) g p = some i) :
    ingressPolice g c s =
      if hasToken (tspAdvance g s) g i then passRx g p (takeToken g i (tspAdvance g s))
      else policeAction g i p (tspAdvance g s) := by
  simp only [ingressPolice, hp, hheld, class_awake hawake, hpol, Bool.false_eq_true, if_false]

end

/-- A held request passes when its policer has a token, and at once while TSP is not enabled (R406, R414). -/
theorem delayRelease_held (hp : rxHead s g c = some p) (hd : ((s.port g).delayed.find? fun d => d.1 = c) = some d) :
    delayRelease g c s =
      if !tspOn (tspAdvance g s) g then passRx g p (tspAdvance g s)
      else if hasToken (tspAdvance g s) g d.2 then passRx g p (takeToken g d.2 (tspAdvance g s))
      else tspAdvance g s := by
  simp only [delayRelease, hp, hd]

end

/-- Settles O39: the packet's policer decides; the clears zero their counters, and the registers act when written. -/
theorem routingCommandsComplete : Obligations.RoutingCommandsComplete := by
  intro req g c n j z a i v p d
  refine ⟨?unpoliced, ?policed, ?token, ?disabled, ?pick, ?tspClear, ?portClear, ?zpeer, ?table, ?alloc, ?free, ?active, ?rteClear⟩
  case unpoliced =>
    exact completesEval_of_exec_liveP (fun _ => rfl) fun _ ⟨hp, hheld, hawake, hpol⟩ =>
      ingressPolice_unpoliced hp hheld hawake hpol
  case policed =>
    exact completesEval_of_exec_liveP (fun _ => rfl) fun _ ⟨hp, hheld, hawake, hpol⟩ =>
      ingressPolice_policed hp hheld hawake hpol
  case token =>
    exact completesEval_of_exec_liveP (fun _ => rfl) fun s ⟨hp, hd, hon, htoken⟩ => by
      rw [delayRelease_held hp hd, if_neg (by simp [hon]), if_pos htoken]
  case disabled =>
    exact completesEval_of_exec_liveP (fun _ => rfl) fun s ⟨hp, hd, hoff⟩ => by
      rw [delayRelease_held hp hd, if_pos (by simp [hoff])]
  case pick => exact completes_of_exec_live (fun _ => rfl) fun _ hst => if_pos hst
  case tspClear => exact clearCompletes_of_zeroWords (fun _ _ => rfl) fun _ _ => rfl
  case portClear => exact clearCompletes_of_zeroWords (fun _ _ => rfl) fun _ _ => rfl
  case zpeer => exact writeCompletes_of_exec_live (fun _ => rfl) fun _ => rfl
  case table => exact completes_of_exec_live (fun _ => rfl) fun _ hwin => if_pos hwin
  case alloc => exact writeCompletes_of_exec_live (fun _ => rfl) fun _ => rfl
  case free => exact writeCompletes_of_exec_live (fun _ => rfl) fun _ => rfl
  case active => exact writeCompletes_of_exec_live (fun _ => rfl) fun _ => rfl
  case rteClear => exact clearCompletes_of_zeroWords (fun _ _ => rfl) fun _ _ => rfl

end Sys2Proof.Machine
end

