-- ==== Sys2Proof/Proofs/FabricMembership.lean ====
section
/-! PROOF. Election, beats and membership of the fabric (16 R455-R463): a message that is not stale and a timer by their own effect,
in the role that they concern. -/
namespace Sys2Proof.Machine
open Sys2Proof

section
variable {g : Nat} {h : FabHdr} {s : State}

/-- A candidacy of a newer term that was not seen before is taken as the best, and flooded on (R458). -/
theorem candidateIn_newer (hnew : floodNew s h = true) (hterm : termNewer h.term s.term = true) :
    candidateIn g h s =
      floodOn g 0x33 h ((s.wr pgFAB F.FAB_TERM_TERM h.term).modFab fun x => { x with best := h.key + 1 }) :=
  if_pos (by simp [hnew, hterm])

/-- A conductor's beat that was not seen before is flooded on (R456) and taken (R460). -/
theorem beatReceive_conductor {dep : Option Nat} {leaders : List (Nat × Nat)} (hnew : floodNew s h = true)
    (hgroup : h.group = false) : beatReceive g h dep leaders s = beatIn g h dep leaders (floodOn g 0x34 h s) := by
  simp only [beatReceive, hnew, hgroup, Bool.not_true, Bool.false_eq_true, if_false]

end

/-- The loss of a section leader's beats is told to the conductor by event, with the leader that was lost (R462, log 52). -/
theorem completes_fabGroupBeatLoss (l c : Nat) :
    FabCompletes .fabGroupBeatLoss
      (fun s => sectionLeader s = some l ∧ conductorOf s = some c ∧ s.flag pgFAB F.FAB_ROLE_MEMBER = true ∧ l ≠ s.chipNum)
      (fun s => fabTell c (.event (.slLost l)) (withRoles (setSection none) s)) :=
  fabCompletes_of_exec_fabDo (fun _ => rfl) fun s ⟨hleader, hcon, hmember, hother⟩ => by simp [hleader, hcon, hmember, hother]

/-- Settles O25: each message and timer by its own effect. -/
theorem fabricMembershipCommandsComplete : Obligations.FabricMembershipCommandsComplete := by
  intro g h dep leaders scale slices m l c
  refine ⟨?candidate, ?elected, ?beat, ?conductorBeat, ?groupBeat, ?conductorLoss, ?deputyLoss, ?joinTimer, ?join,
    completes_fabGroupBeatLoss l c, ?mirror⟩
  case candidate => exact fabCompletes_of_exec_fabDo (fun _ => rfl) fun _ ⟨hnew, hterm⟩ => candidateIn_newer hnew hterm
  case elected =>
    exact fabCompletes_of_exec_fabDo (fun _ => rfl) fun _ ⟨helecting, heligible, hbest⟩ =>
      if_pos (by simp [helecting, heligible, hbest])
  case beat =>
    exact fabCompletes_of_exec_fabDo (fun _ => rfl) fun _ ⟨hcur, hnew, hgroup⟩ =>
      (unlessStale_current _ hcur).trans (beatReceive_conductor hnew hgroup)
  case conductorBeat =>
    exact fabCompletes_of_exec_fabDo (fun _ => rfl) fun _ ⟨hcon, hleader⟩ => by
      simp only [hcon, hleader, if_true, Bool.false_eq_true, if_false]
  case groupBeat =>
    exact fabCompletes_of_exec_fabDo (fun _ => rfl) fun _ ⟨hcon, hleader⟩ => by
      simp only [hcon, hleader, if_true, Bool.false_eq_true, if_false]
  case conductorLoss =>
    exact fabCompletes_of_exec_fabDo (fun _ => rfl) fun _ ⟨hmember, hdeputy⟩ => if_pos (by simp [hmember, hdeputy])
  case deputyLoss => exact fabCompletes_of_exec_fabDo (fun _ => rfl) fun _ hmember => if_pos hmember
  case joinTimer => exact fabCompletes_of_exec_fabDo (fun _ => rfl) fun _ hmember => if_pos hmember
  case join =>
    exact fabCompletes_of_exec_fabDo (fun _ => rfl) fun _ ⟨hcur, hcon⟩ => (unlessStale_current _ hcur).trans (if_pos hcon)
  case mirror =>
    exact fabCompletes_of_exec_fabDo (fun _ => rfl) fun _ ⟨hcur, hdeputy, hcon⟩ =>
      (unlessStale_current _ hcur).trans (if_pos (by simp [hdeputy, hcon]))

end Sys2Proof.Machine
end

