-- ==== Sys2Proof/Proofs/Steps.lean ====
section
/-! PROOF. One step of the block (17 R486, R493): the command in front of the queue, or on an empty queue a tick of the Metronome
(the model's choice, log 5); no word puts a command there (log 77). -/
namespace Sys2Proof.Machine
open Sys2Proof

section
variable {s : State}

/-- A step with a command in front. -/
theorem step_cons {c : Instr} {rest : List Instr} (h : s.pending = c :: rest) : step s = exec c { s with pending := rest } := by
  simp only [step, h]

/-- A step on an empty queue. -/
theorem step_nil (h : s.pending = []) : step s = .next (tick s) := by simp only [step, h]

/-- Settles O1. -/
theorem stepRunsFrontCommand : Obligations.StepRunsFrontCommand := fun _ _ _ h => step_cons h

/-- Settles O3: the table gives its rows no bits, so no word decodes; that words spell no command is the model's choice (log 77). -/
theorem noWordSpellsACommand : Obligations.NoWordSpellsACommand := fun _ _ _ => ⟨rfl, rfl⟩

/-! A tick. -/

/-- Outside SETTLING the Metronome counts on (R486). -/
theorem countTick_counting (h : s.metState ≠ metSETTLING) : countTick s = { s with met := (s.met + 1) % 2 ^ 64 } := if_neg h

/-- Outside HOLDOVER the published bound stays (R495). -/
theorem growBound_still (h : s.metState ≠ metHOLDOVER) : growBound s = s := if_neg (by simp [h])

/-- The fabric manager has nothing left over. -/
theorem fabTick_idle (hout : s.fab.out = []) (hmail : s.fab.mail = []) (hpend : s.fab.pend = []) : fabTick s = s :=
  if_pos (by simp [hout, hmail, hpend])

/-- In reset the Metronome does not count. -/
theorem tick_reset (h : s.chip.inReset = true) : tick s = s := if_pos h

/-- Out of reset a tick with nothing else to do counts alone. -/
theorem tick_counting (hs : s.chip.inReset = false) (hsettling : s.metState ≠ metSETTLING) (hholdover : s.metState ≠ metHOLDOVER)
    (hout : s.fab.out = []) (hmail : s.fab.mail = []) (hpend : s.fab.pend = []) :
    tick s = { s with ticks := s.ticks + 1, met := (s.met + 1) % 2 ^ 64 } := by
  have hcount : countTick { s with ticks := s.ticks + 1 } = { s with ticks := s.ticks + 1, met := (s.met + 1) % 2 ^ 64 } :=
    countTick_counting (s := { s with ticks := s.ticks + 1 }) hsettling
  calc tick s = fabTick (growBound (countTick { s with ticks := s.ticks + 1 })) := if_neg (Bool.eq_false_iff.mp hs)
    _ = fabTick { s with ticks := s.ticks + 1, met := (s.met + 1) % 2 ^ 64 } := by
      rw [hcount]
      exact congrArg fabTick (growBound_still (s := { s with ticks := s.ticks + 1, met := (s.met + 1) % 2 ^ 64 }) hholdover)
    _ = _ := fabTick_idle (s := { s with ticks := s.ticks + 1, met := (s.met + 1) % 2 ^ 64 }) hout hmail hpend

/-- Settles O2: a step on an empty queue is a tick. -/
theorem emptyQueueStepTicks : Obligations.EmptyQueueStepTicks := by
  intro s h
  rw [step_nil h]
  exact ⟨fun hs => congrArg _ (tick_reset hs), fun hs hsettling hholdover hout hmail hpend =>
    congrArg _ (tick_counting hs hsettling hholdover hout hmail hpend)⟩

end

end Sys2Proof.Machine
end

