-- ==== Sys2Proof/Proofs/Metronome.lean ====
section
/-! PROOF. The Metronome and the downbeat snapshots (17 R486-R510): beacons, losses of the root, the coherent read of NOW, and the
triggers and latches of SNP. -/
namespace Sys2Proof.Machine
open Sys2Proof

section
variable {s : State}

/-! Beacons and losses (R490-R492, R495). -/

/-- A beacon is noted, and the source chosen anew; a beacon that is not the source's does no more (R490). -/
theorem beaconReceive_other {g : Nat} {p : Packet} (hop : p.op = 0x3B) (hlen : p.data.length = 40) (hup : portUp s g = true)
    (hsrc : (metChoose (noteBeacon g p s)).rd pgMET F.MET_STATUS_SRC_PORT ≠ g) :
    beaconReceive g p s = metChoose (noteBeacon g p s) := by
  have hwhole : ¬ (!(p.op = 0x3B && p.data.length = 40 && portUp s g)) = true := by simp [hop, hlen, hup]
  exact (if_neg hwhole).trans (if_neg (by simp [hsrc]))

/-- A chip that follows a root holds over when it is lost, and chooses anew (R492). -/
theorem rootLoss_following (h : metFollows s = true) :
    rootLoss s = metChoose (holdover { s with sync := { s.sync with lost := true, recs := s.sync.recs.map fun x =>
      (x.1, if s.sync.root == some x.2.root then { x.2 with live := false } else x.2) } }) := if_pos h

/-- A chip that may be root becomes it when it runs free and hears no other (R491). -/
theorem rootLoss_free (hfollow : metFollows s = false) (hnone : bestSource s = none) (hst : s.metState = metFREE)
    (hen : s.flag pgMET F.MET_CFG_ROOT_EN = true) :
    rootLoss s = becomeRoot { s with sync := { s.sync with lost := true } } := by
  have hfree : ({ s with sync := { s.sync with lost := true } } : State).metState = metFREE := hst
  have hroot : ({ s with sync := { s.sync with lost := true } } : State).flag pgMET F.MET_CFG_ROOT_EN = true := hen
  simp only [rootLoss, hfollow, hnone, Option.isSome_none, Bool.false_eq_true, if_false, hfree, hroot, decide_true, Bool.and_self,
    if_true]

/-! The coherent read of NOW (R488). -/

/-- The capture of a tick count in NOW. -/
def captureNow (s : State) : State := s.wr64 pgMET F.MET_NOW_LO_MET F.MET_NOW_HI_MET s.met

/-- NOW_LO and NOW_HI read the captured count. -/
theorem rd64_captureNow : (captureNow s).rd64 pgMET F.MET_NOW_LO_MET F.MET_NOW_HI_MET = s.met % 2 ^ 64 := by
  have hlo : (captureNow s).rd pgMET F.MET_NOW_LO_MET = s.met % 2 ^ 32 :=
    (rd_wr_other _ _ _ _ _ _ _ _ _ _ (by decide)).trans (rd_wr_same _ _ _ _ _ _ (by decide))
  have hhi : (captureNow s).rd pgMET F.MET_NOW_HI_MET = s.met / 2 ^ 32 % 2 ^ 32 := rd_wr_same _ _ _ _ _ _ (by decide)
  rw [State.rd64, hlo, hhi]
  omega

/-- No other word changes, -/
theorem word_captureNow_other {a : Nat} (hlo : a ≠ pgMET + 0x100) (hhi : a ≠ pgMET + 0x104) :
    (captureNow s).word a = s.word a :=
  (word_wr_other _ _ _ _ _ _ hhi).trans (word_wr_other _ _ _ _ _ _ hlo)

/-- and nothing but registers. -/
theorem captureNow_regs_only : { captureNow s with regs := s.regs } = s :=
  (wr_with_regs _ _ _ _ _ _ _).trans (wr_with_regs _ _ _ _ _ _ _)

theorem completes_metNowRead (req : Nat) :
    Completes (.metNowRead req) (fun s => served s req pgMET = true ∧ s.avail pgMET = true) captureNow :=
  completes_of_exec_live (fun _ => rfl) fun _ ⟨hserved, hav⟩ => if_pos (by simp [hserved, hav])

/-- Settles O59: the read captures the count in both words of NOW, and changes nothing else. -/
theorem metNowReadIsCoherent : Obligations.MetNowReadIsCoherent := by
  intro s req hs hd hav
  exact ⟨captureNow s, completes_metNowRead req s hs ⟨served_of_done s req pgMET hd, hav⟩, rd64_captureNow,
    fun _ hlo hhi => word_captureNow_other hlo hhi, captureNow_regs_only⟩

/-! Snapshots (R499-R505). -/

/-- A RELEASE that is new goes on to the neighbours, and releases the held pages (R500, R505). -/
theorem releaseReceive_new {p : Packet} (hop : p.op = 0x3D) (hlen : p.data.length = 8)
    (hnew : (snpNewer p (payloadAt p.data 0 4) s).1 = true) :
    releaseReceive p s = releaseAll (flood p (snpNewer p (payloadAt p.data 0 4) s).2) := by
  have hwhole : ¬ (!(p.op = 0x3D && p.data.length = 8)) = true := by simp [hop, hlen]
  exact (if_neg hwhole).trans (if_pos hnew)

/-- The first entry to come due latches at its own tick, when that is now and nothing latched before (R503). -/
theorem snpDue_onTime {e : SnpEntry} (hdue : dueEntry s = some e) (hfirst : s.snp.lastLatch = none) (hnow : s.met = e.t) :
    snpDue s =
      metReschedule e (snapLatch e e.t false (snpSync { s with snp := { s.snp with pend := s.snp.pend.erase e } })) := by
  have hlast : (snpSync { s with snp := { s.snp with pend := s.snp.pend.erase e } }).snp.lastLatch = none := hfirst
  have hmet : (snpSync { s with snp := { s.snp with pend := s.snp.pend.erase e } }).met = e.t := hnow
  simp only [snpDue, hdue, hlast, hmet, if_true, ne_eq, not_true_eq_false, decide_false]

end

/-- Settles O40: each command on the branch that its condition chooses. -/
theorem metronomeAndSnapshotCommandsComplete : Obligations.MetronomeAndSnapshotCommandsComplete := by
  intro req g v p
  refine ⟨?send, ?other, ?source, ?lossFollowing, ?lossFree, ?expire, completes_metNowRead req, clearCompletes_metCntClr req,
    ?fire, ?releaseAll, ?releaseMachine, ?arm, ?disarm, ?edge, ?downbeat, ?release, fun e => ?onTime, fun e => ?due,
    fun w => ⟨fun hw => ?clear, fun hw => ?keep⟩, ?outFall⟩
  case send => exact completes_of_exec_live (fun _ => rfl) fun _ _ => rfl
  case other =>
    exact completes_of_exec_live (fun _ => rfl) fun _ ⟨hop, hlen, hup, hsrc⟩ => beaconReceive_other hop hlen hup hsrc
  case source => exact completes_of_exec_live (fun _ => rfl) fun _ _ => rfl
  case lossFollowing => exact completes_of_exec_live (fun _ => rfl) fun _ h => rootLoss_following h
  case lossFree =>
    exact completes_of_exec_live (fun _ => rfl) fun _ ⟨hfollow, hnone, hst, hen⟩ => rootLoss_free hfollow hnone hst hen
  case expire => exact completes_of_exec_live (fun _ => rfl) fun _ hst => if_pos hst
  case fire => exact writeCompletes_of_exec_live (fun _ => rfl) fun _ => rfl
  case releaseAll => exact writeCompletes_of_exec_live (fun _ => rfl) fun _ => rfl
  case releaseMachine => exact writeCompletes_of_exec_live (fun _ => rfl) fun _ => rfl
  case arm => exact writeCompletes_of_exec_live (fun _ => rfl) fun _ => rfl
  case disarm => exact writeCompletes_of_exec_live (fun _ => rfl) fun _ => rfl
  case edge => exact completes_of_exec_live (fun _ => rfl) fun _ hen => if_pos hen
  case downbeat => exact completes_of_exec_live (fun _ => rfl) fun _ _ => rfl
  case release => exact completes_of_exec_live (fun _ => rfl) fun _ ⟨hop, hlen, hnew⟩ => releaseReceive_new hop hlen hnew
  case onTime => exact completes_of_exec_live (fun _ => rfl) fun _ ⟨hdue, hfirst, hnow⟩ => snpDue_onTime hdue hfirst hnow
  case due => exact completes_of_exec_live (fun _ => rfl) fun _ _ => rfl
  case clear => exact writeCompletes_of_exec_live (fun _ => rfl) fun _ => if_pos hw
  case keep => exact writeCompletes_of_exec_live (fun _ => rfl) fun _ => if_neg (Bool.eq_false_iff.mp hw)
  case outFall => exact completes_of_exec_live (fun _ => rfl) fun _ _ => rfl

end Sys2Proof.Machine
end

