-- ==== Sys2Proof/Proofs/DisplayHeads.lean ====
section
/-! PROOF. Display heads and DisplayPort transmitters (18 R513-R545): the head's clock, lines, frames and genlock, HEADOK, and the
plug, training, polls and AUX transactions of a transmitter. -/
namespace Sys2Proof.Machine
open Sys2Proof

/-! HEADOK (R529, R530). -/

section
variable {s : State} {req n : Nat}

/-- HEADOK holds no setting of a requester other than the management domain, so its write does not mark CUSTOM (R81). -/
theorem customMark_headok (hreq : req ≠ mgmt) (hn : n < 4) (t : State) : customMark req (pgDH n) 0x134 t = t := by
  have hpart : storesSetting .dh 0 0x134 = false := by decide
  have hset : storesSetting .dh req 0x134 = false :=
    (storesSetting_congr (req' := 0) (iff_of_false hreq (by decide)) .dh 0x134).trans hpart
  exact customMark_of_no_setting (pageOf_pgDH hn) hset t

theorem pgDH_mod (n : Nat) : pgDH n % 0x1000 = 0 := by unfold pgDH; omega

/-- A requester that is not the management domain is recorded where the register itself refuses it (R530), -/
theorem regWrite_headok_ok (v : Nat) (hreq : req ≠ mgmt) (hn : n < 4) (hok : checkWrite s req (pgDH n + 0x134) = .ok) :
    regWrite req (pgDH n + 0x134) (headokAccess req n v) s = pageFault (pgDH n) causeNotOwner req true 0x134 s := by
  rw [regWrite_page_ok _ (pgDH_mod n) (by decide) hok, customMark_headok hreq hn, headokAccess, if_neg hreq]

/-- and recorded and counted where page ownership does (R90, R674). -/
theorem regWrite_headok_denied (v : Nat) (hden : checkWrite s req (pgDH n + 0x134) = .denied) :
    regWrite req (pgDH n + 0x134) (headokAccess req n v) s =
      denyCount req s.chipNum 5 (winBase + pgDH n + 0x134) (pageFault (pgDH n) causeNotOwner req true 0x134 s) := by
  rw [regWrite_denied s req _ _ hden, page_add_mod (pgDH_mod n) (by decide), Nat.add_sub_cancel, Nat.add_assoc]

theorem exec_dhHeadokRearm (v : Word) (hs : s.chip.inReset = false) :
    exec (.dhHeadokRearm req n v) s = .next (regWrite req (pgDH n + 0x134) (headokAccess req n v.toNat) s) :=
  live_next s _ hs

end

/-- Settles O52: both refusals record the fault, and only ownership's is counted (R674). -/
theorem headokIsTheManagementDomains : Obligations.HeadokIsTheManagementDomains := by
  intro s req n v hs hreq hn
  rw [exec_dhHeadokRearm v hs]
  exact ⟨fun hok => congrArg _ (regWrite_headok_ok v.toNat hreq hn hok), fun hden => congrArg _ (regWrite_headok_denied v.toNat hden)⟩

/-! Frames and their lines (R517, R524). -/

section
variable {s : State} {n : Nat}

/-- A line that is not being fetched is fetched (R524). -/
theorem lineNotFetched {a : Nat} (hscan : scanning s n = true) (ha : a < activeV s n)
    (hnone : ((s.head n).jobs.any fun j => j.line == a) = false) :
    ¬ (!scanning s n || decide (activeV s n ≤ a) || (s.head n).jobs.any fun j => j.line == a) = true := by
  simp only [hscan, hnone, decide_eq_false (Nat.not_le.mpr ha)]
  decide

/-- A head that stops does not run. -/
theorem dhState_stopping (h : dhState s n = dhSTOPPING) : dhState s n ≠ dhRUN := by
  rw [h]; decide

end

/-- Settles O41: each command in the state of its head. That an instant of MET takes a head from HOLDOVER to ACQUIRING at once is
the model's choice (log 66). -/
theorem displayHeadCommandsComplete : Obligations.DisplayHeadCommandsComplete := by
  intro req n a k ns v falling
  refine ⟨?locked, ?frame, ?stopped, ?vblank, fun j => ?scanout, ?fetch, ?grant, fun j => ?deadline, ?headok,
    clearCompletes_dhCntClr req n, fun hns => ?pulse, ?instant, ?miss⟩
  case locked => exact completesEval_of_exec_liveP (fun _ => rfl) fun _ _ => rfl
  case frame => exact completesEval_of_exec_liveP (fun _ => rfl) fun _ hst => if_pos hst
  case stopped =>
    exact completesEval_of_exec_liveP (fun _ => rfl) fun _ hst => (if_neg (dhState_stopping hst)).trans (if_pos hst)
  case vblank => exact completes_of_exec_live (fun _ => rfl) fun _ hscan => if_pos hscan
  case scanout => exact completes_of_exec_live (fun _ => rfl) fun _ _ => rfl
  case fetch =>
    exact completes_of_exec_live (fun _ => rfl) fun _ ⟨hscan, ha, hnone⟩ => if_neg (lineNotFetched hscan ha hnone)
  case grant => exact completes_of_exec_live (fun _ => rfl) fun _ _ => rfl
  case deadline => exact completes_of_exec_live (fun _ => rfl) fun _ _ => rfl
  case headok => exact writeCompletes_of_exec_live (fun _ => rfl) fun _ => if_pos rfl
  case pulse => exact completes_of_exec_live (fun _ => rfl) fun _ _ => if_neg (Nat.not_lt.mpr hns)
  case instant =>
    exact completes_of_exec_live (fun _ => rfl) fun _ ⟨hscan, hsrc, hst, hnow⟩ => if_pos (by simp [hscan, hsrc, hst, hnow])
  case miss => exact completes_of_exec_live (fun _ => rfl) fun _ ⟨hscan, hst⟩ => if_pos (by simpa [hscan] using hst)

/-! DisplayPort (R534-R537, R544). -/

/-- A checked register write whose effect is as said where a further condition holds. -/
theorem completes_write_when {c : Instr} {req a : Nat} {pre : State → Prop} {own eff : State → State}
    (hc : ∀ s, exec c s = live s (regWrite req a own)) (he : ∀ s, pre s → own s = eff s) :
    Completes c (fun s => checkWrite s req a = .ok ∧ pre s) fun s => customMark req (a - a % 0x1000) (a % 0x1000) (eff s) :=
  completes_of_exec_live hc fun s ⟨hok, hpre⟩ => by rw [regWrite_ok s req a own hok, he s hpre]

/-- Every AUX request is the same write of AUX_CMD, with its kind of transaction. -/
theorem exec_auxRequest (req n : Nat) (v : Word) (i : Instr) (q : Nat)
    (hi : (i, q) ∈ [(Instr.auxNativeRead req n v, 0), (.auxNativeWrite req n v, 1), (.auxI2cRead req n v, 2),
      (.auxI2cWrite req n v, 3)]) (s : State) : exec i s = live s (regWrite req (pgDPTX n + 0x114) (auxCmd req n q v.toNat)) := by
  simp only [List.mem_cons, Prod.mk.injEq, List.not_mem_nil, or_false] at hi
  obtain ⟨rfl, rfl⟩ | ⟨rfl, rfl⟩ | ⟨rfl, rfl⟩ | ⟨rfl, rfl⟩ := hi <;> rfl

/-- A transmitter without a sink only notes the level (R536). -/
theorem dptxHpdUnplugEffect_none {s : State} {n : Nat} (h : dpSink s n = false) :
    dptxHpdUnplugEffect n s = (s.wr (pgDPTX n) F.DPTX_HPD_LEVEL 0).wr (pgDPTX n) F.DPTX_HPD_SINK 0 :=
  if_pos (by simp [h])

/-- The next configuration is tried when one runs out of time (R534), -/
theorem completes_dptxTrainTimeout_next (n : Nat) (c d : Nat × Nat) (r : List (Nat × Nat)) :
    Completes (.dptxTrainTimeout n) (fun s => dpState s n = dpTRAINING ∧ (s.head n).cfgs = c :: d :: r)
      (fun s => s.modHead n fun h => { h with cfgs := d :: r }) :=
  completes_of_exec_live (fun _ => rfl) fun s ⟨hst, hcfgs⟩ => by
    simp only [hst, hcfgs, ne_eq, not_true_eq_false, if_false]

/-- and after the last of them training has failed. -/
theorem completes_dptxTrainTimeout_last (n : Nat) :
    Completes (.dptxTrainTimeout n) (fun s => dpState s n = dpTRAINING ∧ (s.head n).cfgs.length ≤ 1) (dpFail n 3) := by
  refine completes_of_exec_live (fun _ => rfl) fun s ⟨hst, hlen⟩ => ?_
  simp only [hst, ne_eq, not_true_eq_false, if_false]
  match hcfgs : (s.head n).cfgs with
  | [] => rfl
  | [_] => rfl
  | _ :: _ :: _ => simp [hcfgs] at hlen

/-- A poll that finds the link of a VALID transmitter lost (R535). -/
theorem completes_dptxStatusPoll_lost (n : Nat) :
    Completes (.dptxStatusPoll n false) (fun s => dpState s n = dpVALID)
      (fun s => logEv (pgDPTX n) 0x280B (dpLose n 1 dpINVALID (s.modHead n fun h => { h with irqWait := false }))) :=
  completes_of_exec_live (fun _ => rfl) fun s hst => by
    have hvalid : dpState (s.modHead n fun h => { h with irqWait := false }) n = dpVALID := hst
    simp only [hvalid, ne_eq, not_true_eq_false, decide_false, Bool.or_self, Bool.false_eq_true, if_false]

/-- Settles O42: each command in the state of its transmitter. -/
theorem displayPortCommandsComplete : Obligations.DisplayPortCommandsComplete := by
  intro req n us rate lanes reply uhbr dsc v lv bs c d r j
  refine ⟨?rise, ?unplug, ?unplugNone, ?settled, ?trainDone, completes_dptxTrainTimeout_next n c d r,
    completes_dptxTrainTimeout_last n, ?retry, ?pollOk, completes_dptxStatusPoll_lost n, fun hv => ?retrain, fun i q hi => ?aux,
    ?reply, ?auxTimeout, clearCompletes_dptxCntClr req n⟩
  case rise => exact completes_of_exec_live (fun _ => rfl) fun _ _ => rfl
  case unplug => exact completes_of_exec_live (fun _ => rfl) fun _ _ => rfl
  case unplugNone => exact completes_of_exec_live (fun _ => rfl) fun _ hsink => dptxHpdUnplugEffect_none hsink
  case settled => exact completes_of_exec_live (fun _ => rfl) fun _ _ => rfl
  case trainDone => exact completes_of_exec_live (fun _ => rfl) fun _ _ => rfl
  case retry => exact completes_of_exec_live (fun _ => rfl) fun _ ⟨hst, hsink⟩ => if_pos (by simp [hst, hsink])
  case pollOk => exact completes_of_exec_live (fun _ => rfl) fun _ _ => if_pos rfl
  case retrain => exact completes_write_when (fun _ => rfl) fun _ hst => if_pos (by simp [hv, hst])
  case aux => exact writeCompletes_of_exec_live (exec_auxRequest req n v i q hi) fun _ => rfl
  case reply => exact completes_of_exec_live (fun _ => rfl) fun _ _ => rfl
  case auxTimeout => exact completes_of_exec_live (fun _ => rfl) fun _ haux => by simp only [haux]

end Sys2Proof.Machine
end

