-- ==== Sys2Proof/Proofs/ProtectedBuffers.lean ====
section
/-! PROOF. Protected layers and signatures (19 R559-R561, R575-R579): the window of a head's buffer, LOAD and its end, APPLY, and
the check of a region. -/
namespace Sys2Proof.Machine
open Sys2Proof

/-! The buffers' bytes (R560). -/

section
variable (s : State) (n o : Nat) (bs : List Byte)

/-- A byte string reads back from where it was written in a head's buffer. -/
theorem protRead_protWrite_same : (s.protWrite n o bs).protRead n o bs.length = bs :=
  mread_mwrite_same (fun _ => 0) s.prot (n * protSize + o) bs

/-- A byte of any buffer that lies outside the bytes written reads as before. -/
theorem protRead_protWrite_outside {m b : Nat}
    (h : m * protSize + b < n * protSize + o ∨ n * protSize + o + bs.length ≤ m * protSize + b) :
    (s.protWrite n o bs).protRead m b 1 = s.protRead m b 1 := by
  have hbyte := fget_mwrite (fun _ => 0) s.prot (n * protSize + o) bs (m * protSize + b)
  rw [if_neg (by omega)] at hbyte
  exact congrArg (fun x => [x]) hbyte

/-- A write of a protected buffer keeps every byte memory canonical. -/
theorem memWf_protWrite (h : memWf s = true) : memWf (s.protWrite n o bs) = true := by
  obtain ⟨hhbm, hsram, hflash, hprot⟩ := (memWf_iff s).1 h
  exact (memWf_iff _).2 ⟨hhbm, hsram, hflash, prot_wf_write s n o bs hprot⟩

/-- A word's bytes, least significant first. -/
theorem leBytes_four (v : Nat) : leBytes 4 v =
    [BitVec.ofNat 8 v, BitVec.ofNat 8 (v / 2 ^ 8), BitVec.ofNat 8 (v / 2 ^ 16), BitVec.ofNat 8 (v / 2 ^ 24)] := by
  simp only [leBytes, Nat.div_div_eq_div_mul]
  norm_num

end

/-! WIN_DATA (R560, Table 19.7). -/

section
variable (req n : Nat) (v : Word)

/-- A write of WIN_DATA, whose page has no expert registers, is its register's effect alone. -/
theorem exec_protWinWrite {s : State} (hn : n < 4) (hs : s.chip.inReset = false)
    (hok : checkWrite s req (pgPROT n + 0x11C) = .ok) : exec (.protWinWrite req n v) s = .next (protWin n v.toNat s) := by
  have hpg : pgPROT n % 0x1000 = 0 := by unfold pgPROT; omega
  calc exec (.protWinWrite req n v) s
      = .next (regWrite req (pgPROT n + 0x11C) (protWin n v.toNat) s) := live_next s _ hs
    _ = .next (protWin n v.toNat s) := by
      rw [regWrite_page_ok _ hpg (by decide) hok, customMark_of_no_expert _ (pageOf_pgPROT hn) rfl]

variable (s : State)

/-- Beside the bytes of the buffer, WIN_DATA changes the word of WIN_ADDR alone. -/
theorem word_protWin_other (w : Nat) {x : Nat} (hx : x ≠ pgPROT n + 0x118) : (protWin n w s).word x = s.word x :=
  word_wr_other _ (pgPROT n) F.PROT_WIN_ADDR_ADDR _ 0 0 hx

/-- Nothing but registers and the buffers changes. -/
theorem protWin_frame (w : Nat) : { protWin n w s with regs := s.regs, prot := s.prot } = s := by simp [protWin]

/-- Settles O60: WIN_DATA stores the word's bytes at four times WIN_ADDR and moves WIN_ADDR on. -/
theorem protectedWindowWritesFourBytes : Obligations.ProtectedWindowWritesFourBytes := by
  intro s req n v hs hn hok a
  have hlen : (leBytes 4 v.toNat).length = 4 := leBytes_length 4 _
  have hread : (s.protWrite n a (leBytes 4 v.toNat)).protRead n a 4 = leBytes 4 v.toNat := by
    have h := protRead_protWrite_same s n a (leBytes 4 v.toNat)
    rwa [hlen] at h
  have hother : ∀ m b, (m * protSize + b < n * protSize + a ∨ n * protSize + a + 4 ≤ m * protSize + b) →
      (s.protWrite n a (leBytes 4 v.toNat)).protRead m b 1 = s.protRead m b 1 := fun m b h =>
    protRead_protWrite_outside s n a _ (hlen.symm ▸ h)
  exact ⟨protWin n v.toNat s, exec_protWinWrite req n v hn hs hok, hread.trans (leBytes_four _), hother,
    protWin_frame n s v.toNat, fun _ hx => word_protWin_other n s v.toNat hx, memWf_protWrite s n a _⟩

end

/-! LOAD (R560). -/

section
variable {s : State} {n : Nat} {l : ProtLoad}

/-- A LOAD ends once nothing of it is in flight, when it fetched all or failed (R560). -/
theorem protLoadDoneEffect_ends (hl : (s.head n).load = some l) (hfly : l.flying = false) (hend : l.bad = true ∨ l.left = 0) :
    protLoadDoneEffect n s =
      (let t := (s.wr (pgPROT n) F.PROT_STATUS_BUSY 0).modHead n fun h => { h with load := none }
       if l.bad then logEv (pgPROT n) 0x2840 (irq (pgPROT n) 2 (t.wr (pgPROT n) F.PROT_STATUS_ERROR 1))
       else irq (pgPROT n) 1 t) := by
  have hdone : (!l.bad && !decide (l.left = 0)) = false := by
    rcases hend with h | h <;> simp [h]
  simp only [protLoadDoneEffect, hl, hfly, hdone, Bool.or_self, Bool.false_eq_true, if_false]

end

/-- Settles O44: each command by its register's write or in the state that it belongs to. -/
theorem protectionCommandsComplete : Obligations.ProtectionCommandsComplete := by
  intro req n ix v
  refine ⟨?window, fun hv => ⟨?load, ?apply, ?sigApply, ?sigClear⟩, fun hv => ⟨?loadKeep, ?applyKeep, ?sigApplyKeep, ?sigKeep⟩,
    fun l => ?loadDone, fun l => ?loadBad, ?region⟩
  case window => exact writeCompletes_of_exec_live (fun _ => rfl) fun _ => rfl
  case load => exact writeCompletes_of_exec_live (fun _ => rfl) fun _ => rfl
  case apply => exact writeCompletes_of_exec_live (fun _ => rfl) fun _ => if_pos hv
  case sigApply => exact writeCompletes_of_exec_live (fun _ => rfl) fun _ => if_pos hv
  case sigClear => exact writeCompletes_of_exec_live (fun _ => rfl) fun _ => if_pos hv
  case loadKeep => exact writeCompletes_of_exec_live (fun _ => rfl) fun _ => if_pos (by simp [hv])
  case applyKeep => exact writeCompletes_of_exec_live (fun _ => rfl) fun _ => if_neg (Bool.eq_false_iff.mp hv)
  case sigApplyKeep => exact writeCompletes_of_exec_live (fun _ => rfl) fun _ => if_neg (Bool.eq_false_iff.mp hv)
  case sigKeep => exact writeCompletes_of_exec_live (fun _ => rfl) fun _ => if_neg (Bool.eq_false_iff.mp hv)
  case loadDone =>
    exact completes_of_exec_live (fun _ => rfl) fun _ ⟨hl, hfly, hgood, hleft⟩ =>
      (protLoadDoneEffect_ends hl hfly (.inr hleft)).trans (if_neg (Bool.eq_false_iff.mp hgood))
  case loadBad =>
    exact completes_of_exec_live (fun _ => rfl) fun _ ⟨hl, hfly, hbad⟩ =>
      (protLoadDoneEffect_ends hl hfly (.inl hbad)).trans (if_pos hbad)
  case region => exact completes_of_exec_live (fun _ => rfl) fun _ _ => rfl

end Sys2Proof.Machine
end

