-- ==== Sys2Proof/Proofs/BlitterAndCameras.lean ====
section
/-! PROOF. The blitter (20 R591-R605), the camera ports and the camera pipelines (21 R608-R634): each command in the phase of the
blit or the state of the frame that it belongs to. -/
namespace Sys2Proof.Machine
open Sys2Proof

/-! The blitter. -/

/-- Settles O45: the end signal is answered in the phase that sent it. -/
theorem blitterCommandsComplete : Obligations.BlitterCommandsComplete := by
  intro req v
  obtain ⟨hclear, hkeep⟩ := clearCompletes_bltCntClr req v
  refine ⟨?start, ?line, ?done, ?failed, hclear, hkeep⟩
  case start => exact writeCompletesEval_of_exec_liveP (fun _ => rfl) fun _ => rfl
  case line => exact completesEval_of_exec_liveP (fun _ => rfl) fun _ _ => rfl
  case done => exact completesEval_of_exec_liveP (fun _ => rfl) fun _ hphase => if_pos hphase
  case failed =>
    exact completesEval_of_exec_liveP (fun _ => rfl) fun s hphase => (if_neg (by omega)).trans (if_pos hphase)

/-! Camera ports. -/

section
variable {s : State} {n : Nat}

/-- A port that is on takes a packet. -/
theorem not_csiOff (hon : csiOn s n = true) : ¬ (!csiOn s n) = true := by simp [hon]

/-- A lane out of sync on a port that does not drop its frame (R611). -/
theorem csiLaneFaultEffect_taken (lane : Nat) (hon : csiOn s n = true) (hdrop : (s.cam n).drop = false) :
    csiLaneFaultEffect n lane s =
      camFault n 1 (irq (pgCSI n) 1 ((s.wr (pgCSI n) F.CSI_STATUS_LANE_SYNC
        (if bitOf (s.rd (pgCSI n) F.CSI_STATUS_LANE_SYNC) lane then s.rd (pgCSI n) F.CSI_STATUS_LANE_SYNC - 2 ^ lane
         else s.rd (pgCSI n) F.CSI_STATUS_LANE_SYNC)).bump (pgCSI n) F.CSI_COUNTS_LANE_ERR)) :=
  if_neg (by simp [hon, hdrop])

end

/-- Settles O46: packets of a port that is on, lane faults and triggers. That a trigger from a head rises at a moment its sender
chooses is the model's (log 61). -/
theorem cameraPortCommandsComplete : Obligations.CameraPortCommandsComplete := by
  intro req n ecc num vc dt lane crcOk on px bs v
  obtain ⟨hclear, hkeep⟩ := clearCompletes_csiCntClr req n v
  refine ⟨?frameStart, fun s hs _ => ⟨liveP_next s _ hs, liveP_next s _ hs, liveP_next s _ hs, liveP_next s _ hs⟩, ?laneFault,
    ?rise, ?fall, ?clock, hclear, hkeep⟩
  case frameStart => exact completesEval_of_exec_liveP (fun _ => rfl) fun _ hon => if_neg (not_csiOff hon)
  case laneFault =>
    exact completesEval_of_exec_liveP (fun _ => rfl) fun _ ⟨hon, hdrop⟩ => csiLaneFaultEffect_taken lane hon hdrop
  case rise =>
    exact completes_of_exec_live (fun _ => rfl) fun _ ⟨hsrc, hd, hawake⟩ => if_pos (by simpa [hd, hawake] using hsrc)
  case fall => exact completes_of_exec_live (fun _ => rfl) fun _ _ => rfl
  case clock => exact completes_of_exec_live (fun _ => rfl) fun _ _ => rfl

/-! Camera pipelines. -/

section
variable {s : State} {n : Nat} {f : CamFrame}

/-- The record of a frame whose writes are complete goes out, unless RECORD_ADDR is 0 (R620, log 60). -/
theorem ispFrameWritesCompleteEffect_ready (hon : csiOn s n = true) (hf : (s.cam n).frames.head? = some f)
    (hended : f.ended = true) (hdone : f.cause ≠ 0 ∨ f.done = camH s n + 6) (hsent : f.recSent = false)
    (hidle : camBusy s n f.seq = false) :
    ispFrameWritesCompleteEffect n s =
      (let a := cf64 f.cfg F.ISP_RECORD_ADDR_LO_RECORD_ADDR F.ISP_RECORD_ADDR_HI_RECORD_ADDR
       let t := modFrame n f.seq (fun f => { f with recSent := true }) s
       if a = 0 then t else camWrite n f.seq 3 4 (a + f.seq % 16 * 32) (recBytes f) t) := by
  have hready : (decide (f.cause ≠ 0) || decide (f.done = camH s n + 6)) = true := by simpa using hdone
  simp only [ispFrameWritesCompleteEffect, hf, hon, hended, hready, hsent, hidle, Bool.not_true, Bool.and_self, Bool.or_self,
    Bool.false_eq_true, if_false]

end

/-- A line of the frame at work is processed (R612); the frame is done H + 6 steps on (log 57). -/
theorem completesEval_ispLineProcessed (n : Nat) (f : CamFrame) :
    CompletesEval (.ispLineProcessed n)
      (fun s => csiOn s n = true ∧ working s n = some f ∧ f.done < camH s n + 6 ∧ (f.done < f.lines.length ∨ f.ended = true))
      (camStep n f) :=
  completesEval_of_exec_liveP (fun _ => rfl) fun s ⟨hon, hf, hmore, hline⟩ => by
    have hgo : (decide (f.done < camH s n + 6) && (decide (f.done < f.lines.length) || f.ended)) = true := by
      simpa [hmore] using hline
    simp only [hon, hf, hgo, Bool.not_true, Bool.false_eq_true, if_false, if_true]

/-- Settles O47: each command in the state of its frame. The steps of a frame are the model's (log 57), and so is that a
RECORD_ADDR of 0 means no record (log 60). -/
theorem cameraPipelineCommandsComplete : Obligations.CameraPipelineCommandsComplete := by
  intro req n v f
  obtain ⟨hclear, hkeep⟩ := clearCompletes_ispCntClr req n v
  refine ⟨completesEval_ispLineProcessed n f, ?writes, ?record, fun hv => ⟨?applyNow, ?applyLater, hclear hv⟩,
    fun hv => ⟨?applyKeep, hkeep hv⟩⟩
  case writes =>
    exact completesEval_of_exec_liveP (fun _ => rfl) fun _ ⟨hon, hf, hended, hdone, hsent, hidle⟩ =>
      ispFrameWritesCompleteEffect_ready hon hf hended hdone hsent hidle
  case record => exact completesEval_of_exec_liveP (fun _ => rfl) fun _ _ => rfl
  case applyNow => exact completes_write_when (fun _ => rfl) fun _ hst => (if_pos hv).trans (if_pos hst)
  case applyLater => exact completes_write_when (fun _ => rfl) fun _ hst => (if_pos hv).trans (if_neg hst)
  case applyKeep => exact writeCompletes_of_exec_live (fun _ => rfl) fun _ => if_neg (Bool.eq_false_iff.mp hv)

end Sys2Proof.Machine
end

