-- ==== Sys2Proof/Proofs/HostAccess.lean ====
section
/-! PROOF. The host's accesses, queues and streams (22 R640-R658): an access by what its address and function find, a slot of a
queue by its lap parity, and the pages of a stream. -/
namespace Sys2Proof.Machine
open Sys2Proof

/-! The aperture (R640-R644). -/

section
variable {s : State} {fn o len : Nat}

/-- The read of a bound function within one page, by what its offset finds (R641, R642). -/
theorem hostApertureReadEffect_bound {tag : Nat} (hlen : 0 < len) (hpage : o % 4096 + len ≤ 4096) (hup : linkUp s = true)
    (hserved : barsServed s = true) (hbound : fnBound s fn = true) (hflr : s.host.flr.contains fn = false) :
    (apAddress s fn o = none → hostApertureReadEffect fn tag o len s = readFail fn tag 1 (apFail fn 0x12 (apRaw s fn o) s)) ∧
    (∀ ga ordered, apAddress s fn o = some (ga, ordered) → hostApertureReadEffect fn tag o len s =
      apStart { id := 0, fn := fn, tag := tag, write := false, ordered := ordered, ga := ga - ga % 4,
                len := (ga % 4 + len + 3) / 4 * 4, data := [], pos := 0, flying := 0, bad := 0, poison := false, got := [],
                skip := ga % 4, want := len } s) := by
  have hshape : (!linkUp s || decide (len = 0) || decide (4096 < o % 4096 + len)) = false := by
    simp [hup, Nat.ne_of_gt hlen, Nat.not_lt.mpr hpage]
  have hfn : (!barsServed s || !fnBound s fn || s.host.flr.contains fn) = false := by rw [hserved, hbound, hflr]; rfl
  constructor
  · intro hnone
    simp only [hostApertureReadEffect, hshape, hfn, hnone, Bool.false_eq_true, if_false]
  · intro ga ordered hsome
    simp only [hostApertureReadEffect, hshape, hfn, hsome, Bool.false_eq_true, if_false]

variable {bs : List Byte}

/-- A write of at most 512 bytes within one page, at a link that is up and a function not being reset (R640). -/
theorem hostApertureWriteEffect_served (ep : Bool) (hlen : 0 < bs.length) (hmax : bs.length ≤ 512)
    (hpage : o % 4096 + bs.length ≤ 4096) (hup : linkUp s = true) (hserved : barsServed s = true)
    (hflr : s.host.flr.contains fn = false) :
    (fnBound s fn = false → hostApertureWriteEffect fn o ep bs s = badWrite fn s) ∧
    (fnBound s fn = true → ep = true →
      hostApertureWriteEffect fn o ep bs s = (poisonSeen F.ERR_POISON_A_HOST s).emit (.aer fn 1)) ∧
    (∀ ga ordered, fnBound s fn = true → ep = false → o % 4 = 0 → bs.length % 4 = 0 → apAddress s fn o = some (ga, ordered) →
      hostApertureWriteEffect fn o ep bs s =
        apStart { id := 0, fn := fn, tag := 0, write := true, ordered := ordered, ga := ga, len := bs.length, data := bs, pos := 0,
                  flying := 0, bad := 0, poison := false, got := [], skip := 0, want := 0 } s) := by
  have hshape : (!linkUp s || decide (bs.length = 0) || decide (512 < bs.length) || decide (4096 < o % 4096 + bs.length)) = false := by
    simp [hup, Nat.not_lt.mpr hmax, Nat.not_lt.mpr hpage, List.ne_nil_of_length_pos hlen]
  have hfn : (!barsServed s || s.host.flr.contains fn) = false := by rw [hserved, hflr]; rfl
  refine ⟨fun hbound => ?unbound, fun hbound hep => ?poisoned, fun ga ordered hbound hep ho hl hsome => ?starts⟩
  case unbound =>
    simp only [hostApertureWriteEffect, hshape, hfn, hbound, Bool.false_eq_true, if_false, Bool.not_false, if_true]
  case poisoned =>
    simp only [hostApertureWriteEffect, hshape, hfn, hbound, hep, Bool.false_eq_true, if_false, Bool.not_true, if_true]
  case starts =>
    simp only [hostApertureWriteEffect, hshape, hfn, hbound, hep, ho, hl, hsome, decide_true, Bool.not_true, Bool.or_self,
      Bool.false_eq_true, if_false]

end

/-- Settles O20: the slot that the offset finds decides. The address recorded where the slot is invalid is the model's deduction
(log 64). -/
theorem hostApertureCommandsComplete : Obligations.HostApertureCommandsComplete := by
  intro fn tag o len ga ordered bs hlen hpage
  refine ⟨?read, ?readFails, fun hbs hmax => ?writes⟩
  case read =>
    exact completesEval_of_exec_liveP (fun _ => rfl) fun _ ⟨hup, hserved, hbound, hflr, hsome⟩ =>
      (hostApertureReadEffect_bound hlen hpage hup hserved hbound hflr).2 ga ordered hsome
  case readFails =>
    exact completesEval_of_exec_liveP (fun _ => rfl) fun _ ⟨hup, hserved, hbound, hflr, hnone⟩ =>
      (hostApertureReadEffect_bound hlen hpage hup hserved hbound hflr).1 hnone
  case writes =>
    subst hbs
    refine ⟨fun ho hl => ?start, ?poisoned, ?unbound⟩
    case start =>
      exact completesEval_of_exec_liveP (fun _ => rfl) fun _ ⟨hup, hserved, hbound, hflr, hsome⟩ =>
        (hostApertureWriteEffect_served false hlen hmax hpage hup hserved hflr).2.2 ga ordered hbound rfl ho hl hsome
    case poisoned =>
      exact completesEval_of_exec_liveP (fun _ => rfl) fun _ ⟨hup, hserved, hbound, hflr⟩ =>
        (hostApertureWriteEffect_served true hlen hmax hpage hup hserved hflr).2.1 hbound rfl
    case unbound =>
      exact completesEval_of_exec_liveP (fun _ => rfl) fun _ ⟨hup, hserved, hbound, hflr⟩ =>
        (hostApertureWriteEffect_served false hlen hmax hpage hup hserved hflr).1 hbound

/-! Host queues (R646-R652). -/

section
variable {s : State} {q : Nat} {w : List Word} {op : Nat → Bool}

/-- A command that fits the slot to read is judged by its lap parity (R648). -/
theorem hqTake_slot (hslot : SlotToRead q s) (hop : op (hcOp (w.map BitVec.toNat)) = true) :
    hqTake q w op s =
      if getBits (hcW (w.map BitVec.toNat) 0) 15 1 ≠ lapParity s q (s.hq q).read then s.modHq q fun x => { x with ringing := false }
      else hqTakeSlot q (w.map BitVec.toNat) s := by
  obtain ⟨hring, hread, hst⟩ := hslot
  simp only [hqTake, hring, decide_eq_false hread, hst, hop, Bool.not_true, ne_eq, not_true_eq_false, decide_false, Bool.or_self,
    Bool.false_eq_true, if_false]

theorem hqTake_valid (hslot : SlotToRead q s) (hvalid : SlotValid q w s) (hop : op (hcOp (w.map BitVec.toNat)) = true) :
    hqTake q w op s = hqTakeSlot q (w.map BitVec.toNat) s :=
  (hqTake_slot hslot hop).trans (if_neg (not_not_intro hvalid))

theorem hqTake_invalid (hslot : SlotToRead q s) (hvalid : ¬SlotValid q w s) (hop : op (hcOp (w.map BitVec.toNat)) = true) :
    hqTake q w op s = s.modHq q fun x => { x with ringing := false } :=
  (hqTake_slot hslot hop).trans (if_pos hvalid)

/-- Commands up to the last completed one may be consumed (R651). -/
theorem hqCqHeadWriteEffect_consumed {fn : Nat} {v : Word} (hserved : barsServed s = true) (hbound : fnBound s fn = true)
    (hfn : hqFn s q = fn)
    (hle : (v.toNat % 65536 + 65536 - (s.hq q).consumed) % 65536 ≤
      (hqRd s q F.HQ_QSTATUS_COMPLETED + 65536 - (s.hq q).consumed) % 65536) :
    hqCqHeadWriteEffect fn q v s = s.modHq q fun x => { x with consumed := v.toNat % 65536 } := by
  simp only [hqCqHeadWriteEffect, hserved, hbound, hfn, hle, Bool.not_true, ne_eq, not_true_eq_false, Bool.false_eq_true, if_false,
    if_true]

/-- The data of a read that succeeded joins its command (R650). -/
theorem hostReadCompletionEffect_ok {num o : Nat} {bs : List Byte} {c : HostCmd}
    (hc : ((s.hq q).cmds.find? fun c => c.num = num && c.hreads.contains o) = some c) :
    hostReadCompletionEffect q num o 0 bs s =
      hqPump q 256 (modCmd q num (fun c => { c with parts := c.parts ++ [(o, bs)] })
        (modCmd q num (fun c => { c with hreads := c.hreads.erase o, fly := c.fly - 1 }) s)) := by
  simp only [hostReadCompletionEffect, hc, if_true]

end

/-- QCFG written by the management domain is a checked write (Table 22.4). -/
theorem completesEval_hqQueueEnable (req q : Nat) (v : Word) :
    CompletesEval (.hqQueueEnable req q v)
      (fun s => req = mgmt ∧ checkWrite s mgmt (hqPg q + 0x100 + 0x18 * (q % 32) + 0x10) = .ok)
      (fun s => customMark mgmt (hqPg q + 0x100 + 0x18 * (q % 32) + 0x10 - (hqPg q + 0x100 + 0x18 * (q % 32) + 0x10) % 0x1000)
        ((hqPg q + 0x100 + 0x18 * (q % 32) + 0x10) % 0x1000) (qcfgWrite req q v.toNat s)) :=
  completesEval_of_exec_liveP (fun _ => rfl) fun s ⟨hreq, hok⟩ => by
    subst hreq
    exact (if_pos rfl).trans (regWrite_ok s mgmt _ _ hok)

/-- Settles O21: each command by its own effect, and a slot by its lap parity. -/
theorem hostQueueCommandsComplete : Obligations.HostQueueCommandsComplete := by
  intro req q fn tag n num o st v w bs
  refine ⟨completesEval_hqQueueEnable req q v, fun s hs _ => liveP_next s _ hs, ?ring, ?nop, ?copy, ?signal, ?write, ?invalid,
    ?complete, ?consumed, fun c => ?readOk, fun c => ?read⟩
  case ring => exact completesEval_of_exec_liveP (fun _ => rfl) fun _ _ => rfl
  case nop =>
    exact completesEval_of_exec_liveP (fun _ => rfl) fun _ ⟨hslot, hvalid, hop⟩ => hqTake_valid hslot hvalid (by simpa using hop)
  case copy =>
    exact completesEval_of_exec_liveP (fun _ => rfl) fun _ ⟨hslot, hvalid, hop⟩ => hqTake_valid hslot hvalid (by simpa using hop)
  case signal =>
    exact completesEval_of_exec_liveP (fun _ => rfl) fun _ ⟨hslot, hvalid, hop⟩ => hqTake_valid hslot hvalid (by simpa using hop)
  case write =>
    exact completesEval_of_exec_liveP (fun _ => rfl) fun _ ⟨hslot, hvalid, hop⟩ => hqTake_valid hslot hvalid (by simpa using hop)
  case invalid =>
    exact completesEval_of_exec_liveP (fun _ => rfl) fun _ ⟨hslot, hvalid, hop⟩ => hqTake_invalid hslot hvalid (by simpa using hop)
  case complete => exact completesEval_of_exec_liveP (fun _ => rfl) fun _ _ => rfl
  case consumed =>
    exact completes_of_exec_live (fun _ => rfl) fun _ ⟨hserved, hbound, hfn, hle⟩ =>
      hqCqHeadWriteEffect_consumed hserved hbound hfn hle
  case readOk => exact completesEval_of_exec_liveP (fun _ => rfl) fun _ hc => hostReadCompletionEffect_ok hc
  case read => exact completesEval_of_exec_liveP (fun _ => rfl) fun _ _ => rfl

/-! Host streams (R656-R658). -/

/-- Settles O22: each command by its own effect. -/
theorem hostStreamCommandsComplete : Obligations.HostStreamCommandsComplete := by
  intro req k typ v ok bs
  refine ⟨?flush, ?publish, ?sample, fun hwhole hfit => ?trace, ?enable, ?head⟩
  case flush => exact completes_of_exec_live (fun _ => rfl) fun _ ⟨htime, hon⟩ => if_pos (by simp [htime, hon])
  case publish => exact completes_of_exec_live (fun _ => rfl) fun _ _ => rfl
  case sample => exact completes_of_exec_live (fun _ => rfl) fun _ _ => rfl
  case trace => exact completes_of_exec_live (fun _ => rfl) fun _ _ => if_pos (by simp [hwhole, hfit])
  case enable => exact writeCompletes_of_exec_live (fun _ => rfl) fun _ => rfl
  case head => exact writeCompletes_of_exec_live (fun _ => rfl) fun _ => rfl

end Sys2Proof.Machine
end

