-- ==== Sys2Proof/Proofs/PartitionsAndEvents.lean ====
section
/-! PROOF. Partitions (23 R669-R684), events and logs (24 R687-R703), and the SMBus and JTAG (04 R139, 26 R748, R749): each command
by its own effect. -/
namespace Sys2Proof.Machine
open Sys2Proof

/-! Partitions. -/

section
variable {s : State} {g k : Nat} {rest : List (Nat × Nat)}

/-- A unit of a granule is scrubbed, unless an MCU of the granule is offline or not running (R680, R682). -/
theorem partScrubUnitDoneEffect_unit (hrun : lopRuns s pgPART 1 = true) (hscrub : s.drain.scrubbing = true)
    (hunits : s.drain.units = (g, k) :: rest) :
    partScrubUnitDoneEffect s =
      if (granMcus s g).any fun n => s.rd (pgMCU n) F.MCU_STATUS_OFFLINE ≠ 0 then
        lopFail pgPART resHW_ERROR g { s with drain := { mask := [], scrubbing := false, units := [] } }
      else if (granMcus s g).any fun n => !s.running (pgMCU n) then s
      else scrubUnits 1 { scrubUnit g k s with drain := { s.drain with units := rest } } := by
  simp only [partScrubUnitDoneEffect, hrun, hscrub, hunits, Bool.and_self, Bool.not_true, Bool.false_eq_true, if_false]

end

/-- Settles O48: CREATE, ASSIGN and the clear as checked writes, and the phases of DRAIN_SCRUB in the state of the operation. -/
theorem partitionCommandsComplete : Obligations.PartitionCommandsComplete := by
  intro req g k rest v
  refine ⟨?create, ?assign, ?auto, ?start, ?phase, ?unit, ?offline, fun hv => ?clear, fun hv => ?keep⟩
  case create => exact writeCompletesEval_of_exec_liveP (fun _ => rfl) fun _ => rfl
  case assign => exact writeCompletesEval_of_exec_liveP (fun _ => rfl) fun _ => rfl
  case auto =>
    exact completesEval_of_exec_liveP (fun _ => rfl) fun _ ⟨hidle, hfenced, hrun⟩ => if_neg (by simp [hidle, hfenced, hrun])
  case start => exact writeCompletesEval_of_exec_liveP (fun _ => rfl) fun _ => rfl
  case phase =>
    exact completesEval_of_exec_liveP (fun _ => rfl) fun _ ⟨hrun, hscrub, hall⟩ => if_pos (by rw [hrun, hscrub, hall]; rfl)
  case unit =>
    exact completesEval_of_exec_liveP (fun _ => rfl) fun s ⟨hrun, hscrub, hunits, honline, hrunning⟩ => by
      rw [partScrubUnitDoneEffect_unit hrun hscrub hunits, if_neg (Bool.eq_false_iff.mp honline),
        if_neg (Bool.eq_false_iff.mp hrunning)]
  case offline =>
    exact completesEval_of_exec_liveP (fun _ => rfl) fun s ⟨hrun, hscrub, hunits, hoffline⟩ =>
      (partScrubUnitDoneEffect_unit hrun hscrub hunits).trans (if_pos hoffline)
  case clear => exact writeCompletesEval_of_exec_liveP (fun _ => rfl) fun _ => if_pos hv
  case keep => exact writeCompletesEval_of_exec_liveP (fun _ => rfl) fun _ => if_neg (Bool.eq_false_iff.mp hv)

/-! Events and logs. -/

/-- Settles O15: an event whose class exists is raised, an accepted one mirrored, and the registers act when written. -/
theorem eventAndLogCommandsComplete : Obligations.EventAndLogCommandsComplete := by
  intro req page code charge l v d0 d1 d2
  refine ⟨fun hclass => ?raised, fun p => ?accepted, ?release, ?clear, ?select, fun hclass => ?inject, clearCompletes_errCntClr req⟩
  case raised => exact completesEval_of_exec_liveP (fun _ => rfl) fun _ _ => if_pos hclass
  case accepted => exact completes_of_exec_live (fun _ => rfl) fun _ hnext => by simp only [hnext]
  case release => exact writeCompletes_of_exec_live (fun _ => rfl) fun _ => rfl
  case clear => exact writeCompletes_of_exec_live (fun _ => rfl) fun _ => rfl
  case select => exact writeCompletes_of_exec_live (fun _ => rfl) fun _ => rfl
  case inject => exact writeCompletes_of_exec_live (fun _ => rfl) fun _ => if_neg (by omega)

/-! SMBus and JTAG. -/

/-- Settles O24: neither bus asks whether the chip is in reset. The manufacturer's bits of the IDCODE are free (log 10). -/
theorem smbusAndJtagComplete : Obligations.SmbusAndJtagComplete := by
  intro s pins
  refine ⟨rfl, rfl, rfl, rfl, rfl, rfl, rfl, rfl, rfl, fun hreset => ⟨?sample, ?extest⟩, fun hreset => ⟨?sampleOut, ?extestOut⟩⟩
  case sample => exact congrArg _ (if_neg (Bool.eq_false_iff.mp hreset))
  case extest => exact congrArg _ (if_neg (Bool.eq_false_iff.mp hreset))
  case sampleOut => exact congrArg _ (if_pos hreset)
  case extestOut => exact congrArg _ (if_pos hreset)

end Sys2Proof.Machine
end
